-- ==== Sys2Proof/Word.lean ====
section
/-! DEFINITION. The word types of the SQ4 and their plainest names (R1 to R8). -/

namespace Sys2Proof

/-- A byte, the smallest unit of memory. -/
abbrev Byte := BitVec 8
/-- A lane or an S word. -/
abbrev Word := BitVec 32
/-- A sequencer register value. -/
abbrev DWord := BitVec 64
/-- A token payload or an element register: 16 lanes of 32 bits, lane 0 in the low bits (R79). -/
abbrev Payload := BitVec 512

end Sys2Proof
end

