-- ==== Sys2Proof/Syntax.lean ====
section
/-! DEFINITION. The instructions of the SQ4: one constructor per row of the opcode table.
The 118 sequencer words (R111 to R119), the 80 element operations (R122 to R126), the 11 schedule
words (R127, R128) and the 95 steps of the device that are no words (file 95). -/

namespace Sys2Proof

/-! ### Operands of the sequencer words -/

/-- A general register number, g0 to g63 (R136). -/
abbrev GReg := Fin 64
/-- A predicate register number, p0 to p7 (R136). -/
abbrev PReg := Fin 8

/-- An access size (R115). -/
inductive Size where
  | b | h | w | d
  deriving DecidableEq, Repr

/-- A scope of a fence, an atomic or an ordering operation (R284). Atomics and MORD never name `element`. -/
inductive Scope where
  | element | region | die | package | system
  deriving DecidableEq, Repr

/-- The ordering of a FENCE (R116). -/
inductive FenceOrder where
  | acquire | release | acqRel | seqCst
  deriving DecidableEq, Repr

/-! ### Operands of the element operations -/

/-- An element operand: v0 to v31, or a channel ch0 to ch31 (R122). -/
inductive Opnd where
  | v (n : Fin 32)
  | ch (n : Fin 32)
  deriving DecidableEq, Repr

/-- A lane-mask select, m0 to m7 (R122). -/
abbrev LMask := Fin 8

/-- Source b of an integer operation: an operand, or the immediate of fn 8-0 (R123). -/
inductive IArg where
  | opnd (o : Opnd)
  | imm (i : BitVec 9)
  deriving DecidableEq, Repr

/-- The field of BEXT and BDEP: from source b, or position and length minus one from fn (R189). -/
inductive FieldArg where
  | opnd (o : Opnd)
  | imm (len1 pos : Fin 32)
  deriving DecidableEq, Repr

/-- The format codes of R39. -/
inductive Fmt where
  | f32 | f16 | bf16 | e4m3 | e5m2 | i32 | n32 | i16 | i8 | n8 | i4 | i4x | e8m0 | cs | raw
  deriving DecidableEq, Repr

/-- The rounding modes of R169. -/
inductive RMode where
  | rne | rtz | rdn | rup
  deriving DecidableEq, Repr

/-- The conditions of FCMP (R187). -/
inductive FCond where
  | eq | ne | lt | le | un | ord
  deriving DecidableEq, Repr

/-- The lane types of FCMP and of the lane-group operations (R187, R194). -/
inductive LType where
  | f | i | n
  deriving DecidableEq, Repr

/-- The kinds of SHUF (R195). -/
inductive ShufKind where
  | rot (k : Fin 32)
  | perm | zlo | zhi | uze | uzo
  deriving DecidableEq, Repr

/-- The two forms of SPLAT (R196). -/
inductive SplatSrc where
  | lane (a : Opnd) (l : Fin 16)
  | imm (i : BitVec 10)
  deriving DecidableEq, Repr

/-- The two forms of AGSTEP's count (R240). -/
inductive StepArg where
  | opnd (a : Opnd)
  | imm (n : Fin 256)
  deriving DecidableEq, Repr

/-- The element size of a gather, scatter or probe (R246). -/
inductive ESize where
  | b | h | w
  deriving DecidableEq, Repr

/-- What a gather or scatter does with a bad index (R246). -/
inductive BadMode where
  | trap | skip | zero
  deriving DecidableEq, Repr

/-- The updates of an owner node (R249). -/
inductive RmwOp where
  | add | and | or | xor | min | max | minn | maxn | adds | addsn | fadd | xch | csadd
  deriving DecidableEq, Repr

/-- The operation of a RED (R253). -/
inductive RedOp where
  | sum | max | min
  deriving DecidableEq, Repr

/-- The type of a RED (R253). -/
inductive RedType where
  | f | i | is | ns | cs
  deriving DecidableEq, Repr

/-! ### Operands of the schedule words -/

/-- What a group read does to RP (R269). -/
inductive Adv where
  | keep | advance | reset
  deriving DecidableEq, Repr

/-- The direction of a VCHAIN (R278). -/
inductive ChainDir where
  | here | east | west
  deriving DecidableEq, Repr

/-! ### What the steps of the device name -/

/-- The path a notify or a report message arrives on (R61, R62). -/
inductive Path where
  | localPath | ualink | ethernet
  deriving DecidableEq, Repr

/-- A notify as it arrives (R61): its path, the source chip of the link header and its 32 bytes. -/
structure NotifyMsg where
  path : Path
  src : BitVec 22
  dw0 : DWord
  dw1 : DWord
  tag : BitVec 128
  deriving DecidableEq, Repr

/-- A report message as it arrives (R69). -/
structure ReportMsg where
  path : Path
  src : BitVec 22
  dw0 : DWord
  dw1 : DWord
  report : BitVec 512
  tag : BitVec 128
  deriving DecidableEq, Repr

/-- A target of a peer transfer (R226): an element's local memory or a die bank group. -/
inductive PhysTarget where
  | element (bench : Nat) (elem : Nat)
  | bankGroup (g : Nat)
  deriving DecidableEq, Repr

/-- A peer transfer as it arrives at its target die (R227). A read names the place the bytes go back to
by the sender's own token. -/
structure PeerXfer where
  src : BitVec 22
  die : Nat
  target : PhysTarget
  off : Nat
  len : Nat
  write : Bool
  data : List Byte
  /-- Offsets of bytes that carry an uncorrectable error. -/
  bad : List Nat
  sender : Nat
  deriving DecidableEq, Repr

/-- The answer to a peer transfer this package sent (R227, R317): denied, or the bytes read. -/
structure PeerReply where
  denied : Bool
  data : List Byte
  bad : List Nat
  deriving DecidableEq, Repr

/-- A message of a collective from another rank (R320): what that rank was issued with, and its source bytes. -/
structure CollMsg where
  gid : Nat
  cseq : Nat
  rank : Nat
  table : List Nat
  len : Nat
  cop : Nat
  cdt : Nat
  cred : Nat
  data : List Byte
  bad : List Nat
  deriving DecidableEq, Repr

/-- A report of another gang member's Derrick (R27, R28, R363), with the GANG number: placed, with COUPLE of that member;
marker of a round reached; or a member lost. -/
inductive GangReport where
  | placed (gang : Nat) (coupled : Bool)
  | reached (gang : Nat) (round : BitVec 24)
  | lost (gang : Nat)
  deriving DecidableEq, Repr

/-- The units of a die that capacity counts (R80, R229). -/
inductive HwUnit where
  | bench (n : Nat)
  | lane (segment n : Nat)
  | segment (n : Nat)
  | vatBank (group bank : Nat)
  | localBank (bench elem bank : Nat)
  | regBank (bench elem bank : Nat)
  | cacheBank (bench bank : Nat)
  | pseudoChannel (n : Nat)
  /-- The larger units that a full retirement list records (R416). -/
  | element (bench elem : Nat)
  | bankGroup (g : Nat)
  | stack (n : Nat)
  deriving DecidableEq, Repr

/-- Where a protected store or path reports an error (R354, R364). -/
inductive ErrSite where
  | memLine (phys : Nat)
  | localLine (region bench elem line : Nat)
  | registerV (region bench elem n : Nat)
  | maskReg (region bench elem n : Nat)
  /-- A scale register, whose parity fails (R125, R364). -/
  | scaleReg (region bench elem n : Nat)
  /-- A record of the context store (R361). -/
  | contextRecord (region : Nat)
  | cacheLine (region addr : Nat)
  | tokenHead (region bench elem chan : Nat)
  /-- The head of a scale buffer of a matrix node (R274). -/
  | scaleHead (region bench sheet : Nat)
  /-- A token on a control line, from its writer to its readers. -/
  | lineToken (region line : Nat)
  /-- An entry of a plane: of the wheel of an element below 16; with 16 of the schedule table, 17 of the range table, 18 of
  the sheet map, 19 of the multicast table. -/
  | planeActive (region bench elem phase : Nat)
  | planeShadow (region bench elem phase : Nat)
  /-- A sideways or die-crossing link during a firing or VCHAIN of a sheet (R281). -/
  | chainLink (region bench sheet die segment : Nat)
  /-- S's copy of an image, at an offset (R55). -/
  | image (job index off : Nat)
  /-- A soft error in the ALUs of an element: bits of a register it wrote, of which no rule leaves a trace (R366). -/
  | aluRegister (region bench elem n : Nat) (flipped : BitVec 512)
  /-- The same in the newest token of a buffer, as its producer's ALUs made it (R366). -/
  | aluToken (region bench elem chan : Nat) (flipped : BitVec 512)
  /-- A soft error in the Vat lanes and trees of a sheet: bits of its accumulator (R366). -/
  | vatLane (region bench sheet : Nat) (flipped : BitVec 128)
  /-- A residue mismatch of the sequencer's datapath; the second time it meets the rerun block. -/
  | seqResidue (region : Nat) (again : Bool)
  deriving DecidableEq, Repr

/-- What S writes (R58, R59, R209, R215, R226, R231). -/
inductive SupWrite where
  | ceilStep (die v : Nat)
  | ceThreshold (die cls v : Nat)
  | ceWindow (die cls v : Nat)
  | memBytes (phys : Nat) (bytes : List Byte)
  | queueDescr (q : Nat) (words : List DWord)
  | queueRoot (q root : Nat)
  /-- The atomic counters of a die, or with 4 of the I/O dies (R223). -/
  | clearCounters (die : Nat)
  /-- The scheduler queue, or none (R70). -/
  | schedulerQueue (q : Option Nat)
  | memBytesOfJob (job va : Nat) (bytes : List Byte)
  /-- TRAPBLK of a region whose trap waits at S or M (R350). -/
  | trapBlk (region : Nat) (addr : BitVec 57)
  deriving DecidableEq, Repr

/-- The instructions of the SQ4, in the order of the opcode table. -/
inductive Instr where
  -- sequencer words: block header, integer ALU, immediates (R138 to R144)
  | blk (l : Fin 128) (x : Fin 4) (s : Fin 32) (f : Bool)
  | add (d a b : GReg)
  | sub (d a b : GReg)
  | and (d a b : GReg)
  | or (d a b : GReg)
  | xor (d a b : GReg)
  | andn (d a b : GReg)
  | shl (d a b : GReg)
  | shr (d a b : GReg)
  | sra (d a b : GReg)
  | fshl (d a b : GReg)
  | fshr (d a b : GReg)
  | min (d a b : GReg)
  | max (d a b : GReg)
  | minn (d a b : GReg)
  | maxn (d a b : GReg)
  | clz (d a : GReg)
  | ctz (d a : GReg)
  | popc (d a : GReg)
  | mul (d a b : GReg)
  | mulh (d a b : GReg)
  | mulhn (d a b : GReg)
  | div (d a b : GReg)
  | divn (d a b : GReg)
  | rem (d a b : GReg)
  | remn (d a b : GReg)
  | sel (d a b : GReg) (p : PReg)
  | addx (d a b : GReg) (k : Fin 4)
  | addi (d a : GReg) (i : BitVec 14)
  | andi (d a : GReg) (i : BitVec 14)
  | ori (d a : GReg) (i : BitVec 14)
  | xori (d a : GReg) (i : BitVec 14)
  | shli (d a : GReg) (n : Fin 64)
  | shri (d a : GReg) (n : Fin 64)
  | srai (d a : GReg) (n : Fin 64)
  -- compares and predicates (R145, R146)
  | cmpeq (p : PReg) (a b : GReg)
  | cmpne (p : PReg) (a b : GReg)
  | cmplt (p : PReg) (a b : GReg)
  | cmpltn (p : PReg) (a b : GReg)
  | cmple (p : PReg) (a b : GReg)
  | cmplen (p : PReg) (a b : GReg)
  | cmpeqImm (p : PReg) (a : GReg) (i : BitVec 14)
  | cmpneImm (p : PReg) (a : GReg) (i : BitVec 14)
  | cmpltImm (p : PReg) (a : GReg) (i : BitVec 14)
  | cmpltnImm (p : PReg) (a : GReg) (i : BitVec 14)
  | cmpleImm (p : PReg) (a : GReg) (i : BitVec 14)
  | cmplenImm (p : PReg) (a : GReg) (i : BitVec 14)
  | limm (d : GReg) (i : BitVec 20)
  | limh (d : GReg) (i : BitVec 20)
  | pand (p a b : PReg)
  | por (p a b : PReg)
  | pxor (p a b : PReg)
  | pnot (p a : PReg)
  | pset (p : PReg) (v : Bool)
  -- exits (R147 to R150)
  | exit (s : Bool) (q : PReg) (x : Fin 4) (o : BitVec 20)
  | exitr (s : Bool) (q : PReg) (x : Fin 4) (a : GReg)
  | call (s : Bool) (q : PReg) (x : Fin 4) (o : BitVec 20)
  | ret (s : Bool) (q : PReg) (x : Fin 4) (a : GReg)
  -- memory (R151 to R156, R310 to R314)
  | ld (d a : GReg) (z : Size) (o : BitVec 11)
  | ldSigned (d a : GReg) (z : Size) (o : BitVec 11)
  | st (s a : GReg) (z : Size) (o : BitVec 11)
  | ldver (d a b : GReg) (g : Bool) (z : Size)
  | stver (s a : GReg) (z : Size) (o : BitVec 11)
  | reclaim (a b : GReg)
  | aadd (d a b : GReg) (z : Bool) (c : Scope) (r : Bool)
  | aadds (d a b : GReg) (z : Bool) (c : Scope) (r : Bool)
  | amin (d a b : GReg) (z : Bool) (c : Scope) (r : Bool)
  | amax (d a b : GReg) (z : Bool) (c : Scope) (r : Bool)
  | aand (d a b : GReg) (z : Bool) (c : Scope) (r : Bool)
  | aor (d a b : GReg) (z : Bool) (c : Scope) (r : Bool)
  | axor (d a b : GReg) (z : Bool) (c : Scope) (r : Bool)
  | axch (d a b : GReg) (z : Bool) (c : Scope) (r : Bool)
  | acas (d a b : GReg) (z : Bool) (c : Scope) (r : Bool)
  | afadd (d a b : GReg) (c : Scope) (r : Bool)
  | fence (o : FenceOrder) (s : Scope)
  -- engines (R315 to R321)
  | scopy (d a b : GReg)
  | sload (d a b : GReg)
  | sstore (d a b : GReg)
  | sgath (d a b : GReg)
  | sscat (d a b : GReg)
  | sprobe (d a b : GReg)
  | speer (d a b : GReg)
  | scoll (d a b : GReg)
  | squery (d a : GReg)
  -- fabric (R322 to R329)
  | fload (a b : GReg)
  | fswitch
  | fshrink (a : GReg)
  | fgrow
  | frun
  | fstop
  | fdrain (d b : GReg)
  | fstat (d a : GReg)
  | finj (a b : GReg)
  | fext (d a : GReg)
  -- Vat control (R330 to R332)
  | vgo (a : GReg)
  | vmap (a b : GReg)
  | vstat (d a : GReg)
  | vquiesce (a : GReg)
  -- rounds, barriers, flags (R333 to R337)
  | rndend (a : GReg)
  | rndwait (d a b : GReg)
  | bararr (a b : GReg)
  | barwait (d a b : GReg)
  | barstat (d a : GReg)
  | notify (a b : GReg)
  | flagwait (d a b : GReg)
  -- system (R338 to R343)
  | csrr (d : GReg) (k : BitVec 12)
  | csrw (s : GReg) (k : BitVec 12)
  | csrs (s : GReg) (k : BitVec 12)
  | csrc (s : GReg) (k : BitVec 12)
  | caprd (d a b : GReg)
  | bmaprd (d : GReg)
  | svc (n : Fin 64) (k : BitVec 12)
  | trap (n : Fin 64) (k : BitVec 12)
  | tret
  | brk (n : Fin 64) (k : BitVec 12)
  | yield
  | hint (n : Fin 64) (k : BitVec 12)
  | nop
  -- the block's own steps (R92, R95)
  | blockCommit (r : Nat)
  | blockCacheLineFill (r : Nat) (addr : Nat)
  -- element operations: floating point (R185 to R187)
  | fadd (d a b : Opnd) (m : LMask)
  | fsub (d a b : Opnd) (m : LMask)
  | fmul (d a b : Opnd) (m : LMask)
  | fma (d a b : Opnd) (m : LMask)
  | fmax (d a b : Opnd) (m : LMask)
  | fmin (d a b : Opnd) (m : LMask)
  | fabs (d a : Opnd) (m : LMask)
  | fneg (d a : Opnd) (m : LMask)
  | frcp (d a : Opnd) (m : LMask)
  | frsq (d a : Opnd) (m : LMask)
  | fexp2 (d a : Opnd) (m : LMask)
  | flog2 (d a : Opnd) (m : LMask)
  | fcmp (c : FCond) (t : LType) (md : LMask) (a b : Opnd) (m : LMask)
  -- integer and bit operations (R188, R189)
  | iadd (d a : Opnd) (b : IArg) (m : LMask)
  | isub (d a : Opnd) (b : IArg) (m : LMask)
  | iadds (n : Bool) (d a : Opnd) (b : IArg) (m : LMask)
  | isubs (n : Bool) (d a : Opnd) (b : IArg) (m : LMask)
  | imul (d a : Opnd) (b : IArg) (m : LMask)
  | imulh (n : Bool) (d a : Opnd) (b : IArg) (m : LMask)
  | imin (n : Bool) (d a : Opnd) (b : IArg) (m : LMask)
  | imax (n : Bool) (d a : Opnd) (b : IArg) (m : LMask)
  | iabs (d a : Opnd) (m : LMask)
  | eAnd (d a : Opnd) (b : IArg) (m : LMask)
  | eOr (d a : Opnd) (b : IArg) (m : LMask)
  | eXor (d a : Opnd) (b : IArg) (m : LMask)
  | eAndn (d a : Opnd) (b : IArg) (m : LMask)
  | eShl (d a : Opnd) (b : IArg) (m : LMask)
  | eShr (d a : Opnd) (b : IArg) (m : LMask)
  | eSra (d a : Opnd) (b : IArg) (m : LMask)
  | eFshr (d a b : Opnd) (n : Option (Fin 32)) (m : LMask)
  | eFshl (d a b : Opnd) (n : Option (Fin 32)) (m : LMask)
  | eClz (d a : Opnd) (m : LMask)
  | ePopc (d a : Opnd) (m : LMask)
  | bext (d a : Opnd) (f : FieldArg) (m : LMask)
  | bdep (d a : Opnd) (f : FieldArg) (m : LMask)
  -- conversion (R190 to R193)
  | cvt (sf df : Fmt) (sat : Bool) (rm : RMode) (d a : Opnd) (m : LMask)
  | qnt (df : Fmt) (sreg : Fin 16) (ws : Bool) (rm : RMode) (d a b : Opnd) (m : LMask)
  | dqnt (sf : Fmt) (sreg : Fin 16) (part : Fin 8) (d a : Opnd) (m : LMask)
  | outl (d a : Opnd) (m : LMask)
  -- lane groups and movement (R194 to R196)
  | gmax (n : Fin 4) (t : LType) (d a : Opnd) (m : LMask)
  | gmin (n : Fin 4) (t : LType) (d a : Opnd) (m : LMask)
  | gsum (n : Fin 4) (t : LType) (sat : Bool) (d a : Opnd) (m : LMask)
  | gscan (n : Fin 4) (t : LType) (sat : Bool) (d a : Opnd) (m : LMask)
  | shuf (k : ShufKind) (d a b : Opnd) (m : LMask)
  | splat (d : Opnd) (src : SplatSrc) (m : LMask)
  | eSel (ms : LMask) (d a b : Opnd) (m : LMask)
  -- token operations (R197 to R204)
  | steer (d : Opnd) (f : Fin 32) (a b : Opnd)
  | mergeT (d a b : Opnd)
  | mergeC (d a b : Opnd) (c : Fin 32)
  | join (pick : Bool) (d a b : Opnd)
  | fork (d : Opnd) (y : Fin 32) (a : Opnd)
  | gate (sense : Bool) (d a b : Opnd)
  | mark (d a b : Opnd)
  | taggen (d : Opnd) (m : LMask)
  | cnt (mc : LMask) (d a b : Opnd) (m : LMask)
  | ctltok (d a : Opnd)
  | mov (d a : Opnd) (m : LMask)
  -- generators (R237 to R241)
  | agrw (g : Fin 4) (win : Bool) (a : Opnd)
  | agpad (g : Fin 4) (a : Opnd)
  | agstep (g : Fin 4) (n : StepArg)
  | agen (d : Opnd) (g : Fin 4)
  | agwin (d : Opnd) (g : Fin 4)
  -- memory port, local memory, owner (R242 to R250)
  | mld (s : Fin 16) (a : Opnd) (delta : Option (Fin 8))
  | mst (s : Fin 16) (a b : Opnd) (m : LMask)
  | mstm (s : Fin 16) (a b : Opnd) (m : LMask)
  | mgath (s : Fin 16) (z : ESize) (bad : BadMode) (sgn : Bool) (a b : Opnd) (m : LMask)
  | mscat (s : Fin 16) (z : ESize) (bad : BadMode) (sgn : Bool) (d a b : Opnd) (m : LMask)
  | mord (c : Scope) (emit : Option Opnd) (wait : Option Opnd)
  | mprobe (z : ESize) (sgn : Bool) (d a b : Opnd) (m : LMask)
  | lld (g : Bool) (off : BitVec 10) (d a : Opnd) (m : LMask)
  | lst (off : BitVec 10) (a b : Opnd) (m : LMask)
  | lstm (off : BitVec 10) (a b : Opnd) (m : LMask)
  | rmw (op : RmwOp) (dbl : Bool) (ret : Option Opnd) (a b : Opnd)
  | ownerUpdate (r b : Nat)
  -- carry-save, sparse headers, voters, retire tags (R252 to R257)
  | csacc (k : Fin 4) (d a b : Opnd)
  | red (op : RedOp) (t : RedType) (d a b : Opnd) (m : LMask)
  | csnorm (int : Bool) (rm : RMode) (d a : Opnd) (m : LMask)
  | sphdr (tags : Bool) (d a : Opnd)
  | sptree (tags : Bool) (d a : Opnd)
  | vote (d a b : Opnd) (c : Fin 32)
  | rtag (e : Fin 16) (fwd : Option Opnd) (a : Opnd)
  | resultWriteback (r b e : Nat)
  -- schedule words (R270 to R279)
  | vnop (slot : Fin 64)
  | vend (slot : Fin 64)
  | vlda (slot : Fin 64) (s : Fin 128) (g : Fin 64) (adv : Adv) (chunk : Fin 128)
  | vldb (slot : Fin 64) (s : Fin 128) (g : Fin 64) (balt : Bool) (adv : Adv) (chunk : Fin 128)
  | vmac (slot : Fin 64) (s : Fin 128) (ga gb : Fin 64) (balt : Bool) (adv : Adv) (chunk : Fin 128)
  | vzero (slot : Fin 64) (s : Fin 128)
  | vscale (slot : Fin 64) (s : Fin 128) (chunk : Fin 128) (opB : Bool)
  | vspmeta (slot : Fin 64) (s : Fin 128) (g : Fin 64) (delta : Fin 4) (adv : Bool) (chunk : Fin 128)
  | vdrain (slot : Fin 64) (s : Fin 128) (bsel : Fin 4) (clr push : Bool) (pos : Fin 4)
  | vchain (slot : Fin 64) (s ts : Fin 128) (dir : ChainDir)
  | vwait (slot : Fin 64) (ch : Fin 32)
  | firingMerge (r b s : Nat)
  | drainTokenLanding (r b s : Nat)
  -- channels (R106 to R108)
  | elasticTokenArrival (g c : Nat)
  | creditReturn (g c : Nat)
  | queueMemoryTransfer (g c : Nat)
  | controlTokenArrival (r line : Nat)
  -- memory port and parked accesses (R212 to R216)
  | memoryReply (r b s : Nat)
  | pageWalk (r b s : Nat)
  | parkedAccessAdmit (die : Nat)
  | parkedRetry (die idx : Nat)
  | freezeBudgetExpiry (r : Nat)
  -- rounds and planes (R54, R86, R353, R383, R387)
  | replayStart (g : Nat)
  | roundCommit (g : Nat)
  | regionRelease (r : Nat)
  | barrierArrival (job addr r : Nat) (status : Word)
  | switch (r : Nat)
  | passSwitch (r : Nat)
  | fillComplete (r : Nat)
  -- traps (R308, R310, R347 to R350)
  | trapEntry (r : Nat)
  | trapAtS (r : Nat)
  | trapResume (r : Nat)
  | trapForward (r : Nat)
  | trapEnd (r : Nat)
  | trapRelaunch (r : Nat)
  | waitTimeout (r : Nat)
  | ldverVersionWaitExpiry (r : Nat)
  -- launch (R62 to R70)
  | notifyArrival (n : NotifyMsg)
  | launchPacket (q : Nat)
  | cancelPacket (q : Nat)
  | queryPacket (q : Nat)
  | reportMessageReceived (m : ReportMsg)
  | residencyReport
  -- placement, gangs, pre-emption (R27, R31, R77, R81 to R88, R358 to R363)
  | placement (job : Nat)
  | gangStart (job : Nat)
  | gangLaunchTimeout (job : Nat)
  | priorityAging (job : Nat)
  | shareWindowExpiry (job : Nat)
  | preemption (r : Nat)
  | preemptionRwaitExpiry (r : Nat)
  | contextSwap (r : Nat)
  | resume (r : Nat)
  | relaunch (r : Nat)
  | capacityReduction (die cls : Nat)
  | shrink (r : Nat)
  | grow (r : Nat)
  | gangMemberFailure (job : Nat)
  | gangRelaunchTimeout (job : Nat)
  -- Derrick (R56, R58, R60, R71, R72, R211, R346)
  | heartbeat
  | missedHeartbeat
  | takeover
  | lockstepMismatch (die pair : Nat)
  | standbyReturn (die : Nat)
  | keyInstallation (q : Nat) (key : BitVec 256) (lastSeq : BitVec 48)
  | translationInvalidation (job : Nat)
  | delegationChange (job : Nat) (code : BitVec 8) (level : Fin 4)
  | supervisorStateWrite (w : SupWrite)
  -- errors, retirement, migration (R224 to R233, R354, R364, R365)
  | retirementCommand (die : Nat) (u : HwUnit)
  | ceWindowStart (die : Nat)
  | correctableError (die : Nat) (u : HwUnit)
  | uncorrectableError (site : ErrSite)
  | evacuationLineCopy (die : Nat) (u : HwUnit)
  | evacuationComplete (die : Nat) (u : HwUnit)
  | oldBankRetirement (die : Nat) (u : HwUnit)
  | laneRemap (die segment : Nat)
  | scrub
  | linkFailure (die link : Nat)
  | migrationExamination (die : Nat)
  | migration (job va frame : Nat)
  -- peers and engines (R227, R228, R315, R319)
  | peerTransferArrival (x : PeerXfer)
  | flagAdd (job addr : Nat)
  | engineCommandStart (die idx : Nat)
  | engineCommandComplete (die idx : Nat) (reply : Option PeerReply)
  -- package (R11, R415 to R421)
  | coldStart
  | powerLoss
  | readResidency
  | readCapacity
  | readPower
  | attest (nonce : BitVec 256)
  | installKey (q : Nat) (key : BitVec 256) (lastSeq : BitVec 48)
  | coldReset
  | writeChipNumber (n : BitVec 22)
  | debugUnlock (token : Nat)
  | debugHalt (r : Nat)
  | debugStep (r : Nat)
  | debugReadRegisters (r : Nat)
  | debugResume (r : Nat)
  | powerSample (microwatts : Nat) (temps : List Nat)
  | shrinkRwaitExpiry (r : Nat)
  | memoryRequestPerformed (r b s : Nat)
  | collectiveMessageArrival (m : CollMsg)
  | gangMemberReportArrival (job : Nat) (gindex : Nat) (m : GangReport)
  deriving DecidableEq, Repr

end Sys2Proof
end

