-- ==== Sys2Proof/Config.lean ====
section
/-! DEFINITION. What the manual leaves open (log entries 1, 5, 6, 8 and 9): values with no body, so
that nothing proved of the model rests on a choice of one. -/

namespace Sys2Proof.Config

/-- Cycles until a line of the block cache arrives after a miss (R92: no latency is stated). Applied to a ticket. -/
opaque fillLatency : Nat → Nat
/-- Cycles until a memory-port access is performed and its reply lands (R213, R259: no fixed latency). -/
opaque portLatency : Nat → Nat
/-- Cycles until Derrick, M or S acts on what reaches it (R62, R65, R73, R215). -/
opaque derrickLatency : Nat → Nat
/-- Cycles between the start and the end of a stream engine command (R319). -/
opaque engineLatency : Nat → Nat
/-- Cycles until a token injected by the sequencer is readable (R108: no fixed cycle). -/
opaque injectLatency : Nat → Nat
/-- Cycles a message of a link needs (R320, R27). -/
opaque linkLatency : Nat → Nat
/-- Which of the candidate dies a region takes first (R76: the order is Derrick's). -/
opaque diePreference : Nat → Nat
/-- The pseudo-channel of its die that holds a byte of HBM4E (R229 names the units; no rule maps addresses to them). -/
opaque pseudoChannel : Nat → Nat
/-- Device memory in MiB that S keeps for itself (R58: its size is not stated), which FREEMEM does not count (R70). -/
opaque supervisorMiB : Nat → Nat
/-- The last report before a failover is sent a second time (R72 allows both). -/
opaque sentAgain : Nat → Bool
/-- The frame that S moves a page to, by ticket and die, in units of the page (R225: the choice is S's). -/
opaque freeFrame : Nat → Nat → Nat
/-- Power that the package would draw at a higher clock step, in microwatts (R419: an estimate). -/
opaque drawEstimate : (samples : List Nat) → (clk : Nat) → Nat
/-- Thermal limit of a die, as M compares it with a temperature (R419: no value is stated). -/
opaque thermalLimit : Nat → Nat
/-- The signature of an attestation report: XMSS is named and not laid down (R417, R418). -/
opaque xmssSign : (message : List Byte) → (state : Nat) → List Byte
/-- Whether an unlock token is a signature by the key of R421 over a chip number and an unlock count. -/
opaque xmssUnlockOk : (token chip count : Nat) → Bool
/-- The measurements of the running M firmware and S code (R418), for the boot slot in use. -/
opaque measures : (slotB : Bool) → List Byte
/-- The units a self-test at power-on finds failing (R415), for the n-th cold start. -/
opaque selfTestFails : (coldStarts die : Nat) → List HwUnit

end Sys2Proof.Config
end

