-- ==== Sys2Proof/WellFormed.lean ====
section
/-! DEFINITION. Which instructions have a word: the reserved values of 07 (R112, R115, R116, R119,
R123), 10, 12 and 13 that a constructor's arguments could still name. -/

namespace Sys2Proof

/-- A scope that an atomic or a MORD may name: region, die, package or system (R116, R245). -/
def Scope.agents : Scope → Bool
  | .element => false
  | _ => true

/-- The formats a CVT may name (R190): 0x0 to 0x9 and 0xC. -/
def Fmt.cvtable : Fmt → Bool
  | .i4 | .i4x | .cs | .raw => false
  | _ => true

/-- A floating-point format (R190). -/
def Fmt.isFloat : Fmt → Bool
  | .f32 | .f16 | .bf16 | .e4m3 | .e5m2 => true
  | _ => false

/-- The format pairs of CVT that are no reserved values (R190). -/
def cvtPair (sf df : Fmt) : Bool :=
  sf.cvtable && df.cvtable && (df != .e8m0 || sf.isFloat) && (sf != .e8m0 || df == .f32)

/-- The formats of QNT and DQNT (R191, R192). -/
def Fmt.quant : Fmt → Bool
  | .e4m3 | .e5m2 | .i8 | .n8 | .i4 | .i4x => true
  | _ => false

/-- PART of a DQNT: formats of 64 values a payload stop at 3 (R192). -/
def dqntPart (sf : Fmt) (part : Fin 8) : Bool :=
  match sf with
  | .i4 | .i4x => true
  | _ => part.val ≤ 3

/-- A shift amount given by an immediate is at most 31 (R123). -/
def IArg.shiftOk : IArg → Bool
  | .opnd _ => true
  | .imm i => i.toNat ≤ 31

/-- A condition that an integer FCMP may name (R187). -/
def fcmpPair (c : FCond) (t : LType) : Bool :=
  match c, t with
  | .un, .i | .un, .n | .ord, .i | .ord, .n => false
  | _, _ => true

/-- SCALE register of a DQNT is zero when the source is a channel (R192). -/
def dqntSreg (sreg : Fin 16) : Opnd → Bool
  | .v _ => true
  | .ch _ => sreg == 0

/-- The instruction has a legal word, or is a step of the device and has none. -/
def Instr.wf : Instr → Bool
  | .blk _ _ s f => !f || s == 0
  | .exit s q _ _ | .exitr s q _ _ | .call s q _ _ | .ret s q _ _ => !s || q != 0
  | .ldSigned _ _ z _ => z != .d
  | .ldver _ _ _ g z => !g || z != .d
  | .aadd _ _ _ _ c _ | .aadds _ _ _ _ c _ | .amin _ _ _ _ c _ | .amax _ _ _ _ c _
  | .aand _ _ _ _ c _ | .aor _ _ _ _ c _ | .axor _ _ _ _ c _ | .axch _ _ _ _ c _
  | .acas _ _ _ _ c _ | .afadd _ _ _ c _ => c.agents
  | .fcmp c t md _ _ _ => fcmpPair c t && md != 0
  | .eShl _ _ b _ | .eShr _ _ b _ | .eSra _ _ b _ => b.shiftOk
  | .cvt sf df _ _ _ _ _ => cvtPair sf df
  | .qnt df _ _ _ _ _ _ _ => df.quant
  | .dqnt sf sreg part _ a _ => sf.quant && dqntPart sf part && dqntSreg sreg a
  | .gsum _ t sat _ _ _ | .gscan _ t sat _ _ _ => !sat || t != .f
  | .mord c _ _ => c.agents
  | .rmw op dbl _ _ _ => op != .fadd || !dbl
  | .red op t _ _ _ _ => t != .cs || op == .sum
  | _ => true

end Sys2Proof
end

