-- ==== Sys2Proof/Decode.lean ====
section
/-! DEFINITION. Decoding of S words, E words and V words (07), total and rejecting by name, and the
encoder written from the same tables. -/

namespace Sys2Proof

/-- Why a word is no instruction. The first four are the reasons of R120 for an S word; the last
three are the loader's checks of R125 and R128 for an E word or a V word. -/
inductive Reject where
  | unassignedMajor | unassignedFn | reservedField | reservedValue
  | check5 | check6 | check11
  deriving DecidableEq, Repr

/-- The reason number of R120, and zero for the loader's checks. -/
def Reject.reason : Reject → Nat
  | .unassignedMajor => 1
  | .unassignedFn => 2
  | .reservedField => 3
  | .reservedValue => 4
  | _ => 0

/-- What a word decodes to. -/
inductive Decoded where
  | instr (i : Instr)
  | bad (r : Reject)
  deriving DecidableEq, Repr

/-- The instruction, when the word is one. -/
def Decoded.toOption : Decoded → Option Instr
  | .instr i => some i
  | .bad _ => none

/-- The instruction, unless the given fields that have to be zero are not, or a value is reserved:
the lower reason is recorded (R120). -/
def Decoded.guard (zeroOk valueOk : Bool) (i : Instr) : Decoded :=
  if zeroOk then (if valueOk then .instr i else .bad .reservedValue) else .bad .reservedField

/-! ### Fields -/

/-- Bits `lo + len - 1` to `lo` of a word. -/
def fld (w lo len : Nat) : Nat := w / 2 ^ lo % 2 ^ len

/-- The general register in bits `lo + 5` to `lo`. -/
def gfld (w lo : Nat) : GReg := Fin.ofNat 64 (w / 2 ^ lo)
/-- The predicate register in bits `lo + 2` to `lo`. -/
def pfld (w lo : Nat) : PReg := Fin.ofNat 8 (w / 2 ^ lo)
/-- Bit `lo`. -/
def bfld (w lo : Nat) : Bool := w / 2 ^ lo % 2 == 1

/-- The size code of R115. -/
def Size.ofCode (n : Nat) : Size :=
  match n with
  | 0 => .b
  | 1 => .h
  | 2 => .w
  | _ => .d

def Size.code : Size → Nat
  | .b => 0
  | .h => 1
  | .w => 2
  | .d => 3

/-- The scope code of an atomic or a MORD: 0 region, 1 die, 2 package, 3 system (R116, R245). -/
def Scope.ofCode (n : Nat) : Scope :=
  match n with
  | 0 => .region
  | 1 => .die
  | 2 => .package
  | _ => .system

def Scope.code : Scope → Nat
  | .element => 0
  | .region => 0
  | .die => 1
  | .package => 2
  | .system => 3

/-- The scope code of a FENCE (R116). -/
def Scope.ofFence (n : Nat) : Scope :=
  match n with
  | 0 => .element
  | 1 => .region
  | 2 => .die
  | 3 => .package
  | _ => .system

def Scope.fenceCode : Scope → Nat
  | .element => 0
  | .region => 1
  | .die => 2
  | .package => 3
  | .system => 4

def FenceOrder.ofCode (n : Nat) : FenceOrder :=
  match n with
  | 0 => .acquire
  | 1 => .release
  | 2 => .acqRel
  | _ => .seqCst

def FenceOrder.code : FenceOrder → Nat
  | .acquire => 0
  | .release => 1
  | .acqRel => 2
  | .seqCst => 3

/-! ### S words, by major opcode (R113) -/

/-- The block header (R119). -/
def decodeBlk (w : Nat) : Decoded :=
  .guard (fld w 0 11 == 0) (!bfld w 11 || fld w 12 5 == 0)
    (.blk (Fin.ofNat 128 (w / 2 ^ 19)) (Fin.ofNat 4 (w / 2 ^ 17)) (Fin.ofNat 32 (w / 2 ^ 12)) (bfld w 11))

/-- The forms of major 0x01 with three registers, by fn (R114). -/
def aluForm (fn : Nat) : Option (GReg → GReg → GReg → Instr) :=
  match fn with
  | 0x00 => some .add
  | 0x01 => some .sub
  | 0x02 => some .and
  | 0x03 => some .or
  | 0x04 => some .xor
  | 0x05 => some .andn
  | 0x06 => some .shl
  | 0x07 => some .shr
  | 0x08 => some .sra
  | 0x09 => some .fshl
  | 0x0A => some .fshr
  | 0x0B => some .min
  | 0x0C => some .max
  | 0x0D => some .minn
  | 0x0E => some .maxn
  | 0x12 => some .mul
  | 0x13 => some .mulh
  | 0x14 => some .mulhn
  | 0x15 => some .div
  | 0x16 => some .divn
  | 0x17 => some .rem
  | 0x18 => some .remn
  | _ => none

/-- The forms of major 0x01 with one source, by fn (R114). -/
def aluForm1 (fn : Nat) : Option (GReg → GReg → Instr) :=
  match fn with
  | 0x0F => some .clz
  | 0x10 => some .ctz
  | 0x11 => some .popc
  | _ => none

/-- Major 0x01 (R114). -/
def decodeAlu (w : Nat) : Decoded :=
  let d := gfld w 20
  let a := gfld w 14
  let b := gfld w 8
  let fn := fld w 0 8
  match aluForm fn with
  | some f => .instr (f d a b)
  | none =>
    match aluForm1 fn with
    | some f => .guard (fld w 8 6 == 0) true (f d a)
    | none =>
      if fn / 8 = 4 then .instr (.sel d a b (pfld w 0))
      else if fn / 4 = 12 then .instr (.addx d a b (Fin.ofNat 4 w))
      else .bad .unassignedFn

/-- Major 0x06 (R115): values of bits 13-12 that the table leaves out are reserved values. -/
def decodeShiftImm (w : Nat) : Decoded :=
  let d := gfld w 20
  let a := gfld w 14
  let n : Fin 64 := Fin.ofNat 64 w
  let z := fld w 6 6 == 0
  match fld w 12 2 with
  | 0 => .guard z true (.shli d a n)
  | 1 => .guard z true (.shri d a n)
  | 2 => .guard z true (.srai d a n)
  | _ => .guard z false (.shli d a n)

/-- Major 0x07 (R112, R115). -/
def decodeCmp (w : Nat) : Decoded :=
  let p := pfld w 20
  let a := gfld w 14
  let b := gfld w 8
  let z := fld w 23 3 == 0
  match fld w 0 8 with
  | 0 => .guard z true (.cmpeq p a b)
  | 1 => .guard z true (.cmpne p a b)
  | 2 => .guard z true (.cmplt p a b)
  | 3 => .guard z true (.cmpltn p a b)
  | 4 => .guard z true (.cmple p a b)
  | 5 => .guard z true (.cmplen p a b)
  | _ => .bad .unassignedFn

/-- Major 0x08 (R115): bits 25-23 above 5 are reserved values. -/
def decodeCmpImm (w : Nat) : Decoded :=
  let p := pfld w 20
  let a := gfld w 14
  let i := BitVec.ofNat 14 w
  match fld w 23 3 with
  | 0 => .instr (.cmpeqImm p a i)
  | 1 => .instr (.cmpneImm p a i)
  | 2 => .instr (.cmpltImm p a i)
  | 3 => .instr (.cmpltnImm p a i)
  | 4 => .instr (.cmpleImm p a i)
  | 5 => .instr (.cmplenImm p a i)
  | _ => .bad .reservedValue

/-- Major 0x0B (R112, R115). -/
def decodePred (w : Nat) : Decoded :=
  let p := pfld w 20
  let a := pfld w 14
  let b := pfld w 8
  let zp := fld w 23 3 == 0
  let za := fld w 17 3 == 0
  let zb := fld w 11 3 == 0
  match fld w 0 8 with
  | 0 => .guard (zp && za && zb) true (.pand p a b)
  | 1 => .guard (zp && za && zb) true (.por p a b)
  | 2 => .guard (zp && za && zb) true (.pxor p a b)
  | 3 => .guard (zp && za && fld w 8 6 == 0) true (.pnot p a)
  | 4 => .guard (zp && fld w 14 6 == 0 && fld w 9 5 == 0) true (.pset p (bfld w 8))
  | _ => .bad .unassignedFn

/-- An exit's predicate p0 with sense 1 is a reserved value (R112). -/
def exitValueOk (w : Nat) : Bool := !bfld w 25 || pfld w 22 != 0

/-- Majors 0x10 and 0x12 (R112). -/
def decodeExit (mk : Bool → PReg → Fin 4 → BitVec 20 → Instr) (w : Nat) : Decoded :=
  .guard true (exitValueOk w) (mk (bfld w 25) (pfld w 22) (Fin.ofNat 4 (w / 2 ^ 20)) (BitVec.ofNat 20 w))

/-- Majors 0x11 and 0x13 (R111, R112). -/
def decodeExitR (mk : Bool → PReg → Fin 4 → GReg → Instr) (w : Nat) : Decoded :=
  .guard (fld w 0 14 == 0) (exitValueOk w) (mk (bfld w 25) (pfld w 22) (Fin.ofNat 4 (w / 2 ^ 20)) (gfld w 14))

/-- Major 0x18 (R115): the flag with size 3 is a reserved value. -/
def decodeLd (w : Nat) : Decoded :=
  let d := gfld w 20
  let a := gfld w 14
  let z := Size.ofCode (fld w 12 2)
  let o := BitVec.ofNat 11 w
  if bfld w 11 then .guard true (z != .d) (.ldSigned d a z o) else .instr (.ld d a z o)

/-- Majors 0x19 and 0x1B (R115): the flag is reserved. -/
def decodeSt (mk : GReg → GReg → Size → BitVec 11 → Instr) (w : Nat) : Decoded :=
  .guard (!bfld w 11) true (mk (gfld w 20) (gfld w 14) (Size.ofCode (fld w 12 2)) (BitVec.ofNat 11 w))

/-- Major 0x1A (R115). -/
def decodeLdver (w : Nat) : Decoded :=
  let z := Size.ofCode (fld w 0 2)
  .guard (fld w 3 5 == 0) (!bfld w 2 || z != .d) (.ldver (gfld w 20) (gfld w 14) (gfld w 8) (bfld w 2) z)

/-- Major 0x1C (R115). -/
def decodeReclaim (w : Nat) : Decoded :=
  .guard (fld w 20 6 == 0 && fld w 0 8 == 0) true (.reclaim (gfld w 14) (gfld w 8))

/-- The operations of an atomic but AFADD (R116). -/
def atomicForm (op : Nat) : Option (GReg → GReg → GReg → Bool → Scope → Bool → Instr) :=
  match op with
  | 0 => some .aadd
  | 1 => some .aadds
  | 2 => some .amin
  | 3 => some .amax
  | 4 => some .aand
  | 5 => some .aor
  | 6 => some .axor
  | 7 => some .axch
  | 8 => some .acas
  | _ => none

/-- Major 0x1D (R116): AFADD with size 1 is a reserved value. -/
def decodeAtomic (w : Nat) : Decoded :=
  let d := gfld w 20
  let a := gfld w 14
  let b := gfld w 8
  let c := Scope.ofCode (fld w 1 2)
  match atomicForm (fld w 4 4) with
  | some f => .instr (f d a b (bfld w 3) c (bfld w 0))
  | none =>
    if fld w 4 4 = 9 then .guard true (!bfld w 3) (.afadd d a b c (bfld w 0))
    else .bad .unassignedFn

/-- Major 0x1E (R116): scope values 5 to 7 are reserved. -/
def decodeFence (w : Nat) : Decoded :=
  .guard (fld w 14 12 == 0 && fld w 5 9 == 0) (fld w 0 3 ≤ 4)
    (.fence (FenceOrder.ofCode (fld w 3 2)) (Scope.ofFence (fld w 0 3)))

/-- The commands of major 0x20 but SQUERY (R117). -/
def engineForm (cmd : Nat) : Option (GReg → GReg → GReg → Instr) :=
  match cmd with
  | 1 => some .scopy
  | 2 => some .sload
  | 3 => some .sstore
  | 4 => some .sgath
  | 5 => some .sscat
  | 6 => some .sprobe
  | 7 => some .speer
  | 8 => some .scoll
  | _ => none

/-- Major 0x20 (R117). -/
def decodeEngine (w : Nat) : Decoded :=
  let d := gfld w 20
  let a := gfld w 14
  match engineForm (fld w 0 8) with
  | some f => .instr (f d a (gfld w 8))
  | none =>
    if fld w 0 8 = 9 then .guard (fld w 8 6 == 0) true (.squery d a) else .bad .unassignedFn

/-- Major 0x24 (R117, R322 to R329). -/
def decodeFabric (w : Nat) : Decoded :=
  let d := gfld w 20
  let a := gfld w 14
  let b := gfld w 8
  let zd := fld w 20 6 == 0
  let za := fld w 14 6 == 0
  let zb := fld w 8 6 == 0
  match fld w 0 8 with
  | 1 => .guard zd true (.fload a b)
  | 2 => .guard (zd && za && zb) true .fswitch
  | 3 => .guard (zd && zb) true (.fshrink a)
  | 4 => .guard (zd && za && zb) true .fgrow
  | 5 => .guard (zd && za && zb) true .frun
  | 6 => .guard (zd && za && zb) true .fstop
  | 7 => .guard za true (.fdrain d b)
  | 8 => .guard zb true (.fstat d a)
  | 9 => .guard zd true (.finj a b)
  | 10 => .guard zb true (.fext d a)
  | _ => .bad .unassignedFn

/-- Major 0x28 (R117, R330 to R332). -/
def decodeVat (w : Nat) : Decoded :=
  let zd := fld w 20 6 == 0
  let zb := fld w 8 6 == 0
  match fld w 0 8 with
  | 1 => .guard (zd && zb) true (.vgo (gfld w 14))
  | 2 => .guard zd true (.vmap (gfld w 14) (gfld w 8))
  | 3 => .guard zb true (.vstat (gfld w 20) (gfld w 14))
  | 4 => .guard (zd && zb) true (.vquiesce (gfld w 14))
  | _ => .bad .unassignedFn

/-- Major 0x2C (R117, R333 to R337). -/
def decodeSync (w : Nat) : Decoded :=
  let d := gfld w 20
  let a := gfld w 14
  let b := gfld w 8
  let zd := fld w 20 6 == 0
  let zb := fld w 8 6 == 0
  match fld w 0 8 with
  | 1 => .guard (zd && zb) true (.rndend a)
  | 2 => .instr (.rndwait d a b)
  | 3 => .guard zd true (.bararr a b)
  | 4 => .instr (.barwait d a b)
  | 5 => .guard zb true (.barstat d a)
  | 6 => .guard zd true (.notify a b)
  | 7 => .instr (.flagwait d a b)
  | _ => .bad .unassignedFn

/-- Major 0x30 (R112, R117, R338 to R343). -/
def decodeSystem (w : Nat) : Decoded :=
  let d := gfld w 20
  let n : Fin 64 := Fin.ofNat 64 (w / 2 ^ 20)
  let k := BitVec.ofNat 12 (w / 2 ^ 8)
  let z := fld w 8 18 == 0
  match fld w 0 8 with
  | 0x01 => .instr (.csrr d k)
  | 0x02 => .instr (.csrw d k)
  | 0x03 => .instr (.csrs d k)
  | 0x04 => .instr (.csrc d k)
  | 0x08 => .instr (.caprd d (gfld w 14) (gfld w 8))
  | 0x09 => .guard (fld w 8 12 == 0) true (.bmaprd d)
  | 0x10 => .instr (.svc n k)
  | 0x11 => .instr (.trap n k)
  | 0x12 => .guard z true .tret
  | 0x13 => .instr (.brk n k)
  | 0x18 => .guard z true .yield
  | 0x19 => .instr (.hint n k)
  | 0x1A => .guard z true .nop
  | _ => .bad .unassignedFn

/-- An S word, read through its major opcode (R110, R113). -/
def decodeSNat (w : Nat) : Decoded :=
  match fld w 26 6 with
  | 0x00 => decodeBlk w
  | 0x01 => decodeAlu w
  | 0x02 => .instr (.addi (gfld w 20) (gfld w 14) (BitVec.ofNat 14 w))
  | 0x03 => .instr (.andi (gfld w 20) (gfld w 14) (BitVec.ofNat 14 w))
  | 0x04 => .instr (.ori (gfld w 20) (gfld w 14) (BitVec.ofNat 14 w))
  | 0x05 => .instr (.xori (gfld w 20) (gfld w 14) (BitVec.ofNat 14 w))
  | 0x06 => decodeShiftImm w
  | 0x07 => decodeCmp w
  | 0x08 => decodeCmpImm w
  | 0x09 => .instr (.limm (gfld w 20) (BitVec.ofNat 20 w))
  | 0x0A => .instr (.limh (gfld w 20) (BitVec.ofNat 20 w))
  | 0x0B => decodePred w
  | 0x10 => decodeExit .exit w
  | 0x11 => decodeExitR .exitr w
  | 0x12 => decodeExit .call w
  | 0x13 => decodeExitR .ret w
  | 0x18 => decodeLd w
  | 0x19 => decodeSt .st w
  | 0x1A => decodeLdver w
  | 0x1B => decodeSt .stver w
  | 0x1C => decodeReclaim w
  | 0x1D => decodeAtomic w
  | 0x1E => decodeFence w
  | 0x20 => decodeEngine w
  | 0x24 => decodeFabric w
  | 0x28 => decodeVat w
  | 0x2C => decodeSync w
  | 0x30 => decodeSystem w
  | _ => .bad .unassignedMajor

/-- An S word of 32 bits. -/
def decodeS (w : Word) : Decoded := decodeSNat w.toNat

/-! ### E words (R122 to R125) -/

/-- An operand code: 0 to 31 a register, 32 to 63 a channel (R122). -/
def Opnd.ofCode (c : Nat) : Opnd := if c % 64 < 32 then .v (Fin.ofNat 32 c) else .ch (Fin.ofNat 32 c)

def Opnd.code : Opnd → Nat
  | .v n => n.val
  | .ch n => 32 + n.val

def Fmt.ofCode (n : Nat) : Option Fmt :=
  match n with
  | 0x0 => some .f32
  | 0x1 => some .f16
  | 0x2 => some .bf16
  | 0x3 => some .e4m3
  | 0x4 => some .e5m2
  | 0x5 => some .i32
  | 0x6 => some .n32
  | 0x7 => some .i16
  | 0x8 => some .i8
  | 0x9 => some .n8
  | 0xA => some .i4
  | 0xB => some .i4x
  | 0xC => some .e8m0
  | 0xD => some .cs
  | 0xE => some .raw
  | _ => none

def Fmt.code : Fmt → Nat
  | .f32 => 0x0
  | .f16 => 0x1
  | .bf16 => 0x2
  | .e4m3 => 0x3
  | .e5m2 => 0x4
  | .i32 => 0x5
  | .n32 => 0x6
  | .i16 => 0x7
  | .i8 => 0x8
  | .n8 => 0x9
  | .i4 => 0xA
  | .i4x => 0xB
  | .e8m0 => 0xC
  | .cs => 0xD
  | .raw => 0xE

def RMode.ofCode (n : Nat) : RMode :=
  match n with
  | 0 => .rne
  | 1 => .rtz
  | 2 => .rdn
  | _ => .rup

def RMode.code : RMode → Nat
  | .rne => 0
  | .rtz => 1
  | .rdn => 2
  | .rup => 3

def FCond.ofCode (n : Nat) : Option FCond :=
  match n with
  | 0 => some .eq
  | 1 => some .ne
  | 2 => some .lt
  | 3 => some .le
  | 4 => some .un
  | 5 => some .ord
  | _ => none

def FCond.code : FCond → Nat
  | .eq => 0
  | .ne => 1
  | .lt => 2
  | .le => 3
  | .un => 4
  | .ord => 5

def LType.ofCode (n : Nat) : Option LType :=
  match n with
  | 0 => some .f
  | 1 => some .i
  | 2 => some .n
  | _ => none

def LType.code : LType → Nat
  | .f => 0
  | .i => 1
  | .n => 2

def ESize.ofCode (n : Nat) : Option ESize :=
  match n with
  | 0 => some .b
  | 1 => some .h
  | 2 => some .w
  | _ => none

def ESize.code : ESize → Nat
  | .b => 0
  | .h => 1
  | .w => 2

def BadMode.ofCode (n : Nat) : Option BadMode :=
  match n with
  | 0 => some .trap
  | 1 => some .skip
  | 2 => some .zero
  | _ => none

def BadMode.code : BadMode → Nat
  | .trap => 0
  | .skip => 1
  | .zero => 2

def RmwOp.ofCode (n : Nat) : Option RmwOp :=
  match n with
  | 0 => some .add
  | 1 => some .and
  | 2 => some .or
  | 3 => some .xor
  | 4 => some .min
  | 5 => some .max
  | 6 => some .minn
  | 7 => some .maxn
  | 8 => some .adds
  | 9 => some .addsn
  | 10 => some .fadd
  | 11 => some .xch
  | 12 => some .csadd
  | _ => none

def RmwOp.code : RmwOp → Nat
  | .add => 0
  | .and => 1
  | .or => 2
  | .xor => 3
  | .min => 4
  | .max => 5
  | .minn => 6
  | .maxn => 7
  | .adds => 8
  | .addsn => 9
  | .fadd => 10
  | .xch => 11
  | .csadd => 12

def RedOp.ofCode (n : Nat) : Option RedOp :=
  match n with
  | 0 => some .sum
  | 1 => some .max
  | 2 => some .min
  | _ => none

def RedOp.code : RedOp → Nat
  | .sum => 0
  | .max => 1
  | .min => 2

def RedType.ofCode (n : Nat) : Option RedType :=
  match n with
  | 0 => some .f
  | 1 => some .i
  | 2 => some .is
  | 3 => some .ns
  | 4 => some .cs
  | _ => none

def RedType.code : RedType → Nat
  | .f => 0
  | .i => 1
  | .is => 2
  | .ns => 3
  | .cs => 4

def ShufKind.ofCode (kind k : Nat) : Option ShufKind :=
  match kind with
  | 0 => some (.rot (Fin.ofNat 32 k))
  | 1 => some .perm
  | 2 => some .zlo
  | 3 => some .zhi
  | 4 => some .uze
  | 5 => some .uzo
  | _ => none

def ShufKind.code : ShufKind → Nat
  | .rot k => k.val
  | .perm => 0x100
  | .zlo => 0x200
  | .zhi => 0x300
  | .uze => 0x400
  | .uzo => 0x500

/-- The raw fields of an E word (R122). -/
structure EFields where
  op : Nat
  dst : Nat
  a : Nat
  b : Nat
  m : Nat
  fn : Nat
  deriving DecidableEq, Repr

def eFields (w : Nat) : EFields :=
  ⟨fld w 32 8, fld w 26 6, fld w 20 6, fld w 14 6, fld w 11 3, fld w 0 11⟩

/-- An operation whose fields that have to be zero are zero: otherwise check 5 fails (R125). A
reserved value, given as no instruction, fails check 6. -/
def Decoded.eguard (zeroOk : Bool) (i : Option Instr) : Decoded :=
  if zeroOk then
    match i with
    | some i => .instr i
    | none => .bad .check6
  else .bad .check5

/-- The instruction when its arguments name no reserved value. -/
def Instr.ifWf (i : Instr) : Option Instr := if i.wf then some i else none

/-- Floating-point operations with two sources, by op byte (R185). -/
def fp2Form (op : Nat) : Option (Opnd → Opnd → Opnd → LMask → Instr) :=
  match op with
  | 0x00 => some .fadd
  | 0x01 => some .fsub
  | 0x02 => some .fmul
  | 0x03 => some .fma
  | 0x04 => some .fmax
  | 0x05 => some .fmin
  | _ => none

/-- Floating-point operations with one source (R185, R186). -/
def fp1Form (op : Nat) : Option (Opnd → Opnd → LMask → Instr) :=
  match op with
  | 0x06 => some .fabs
  | 0x07 => some .fneg
  | 0x08 => some .frcp
  | 0x09 => some .frsq
  | 0x0A => some .fexp2
  | 0x0B => some .flog2
  | _ => none

/-- Integer operations for which N is reserved (R123, R188). -/
def int2Form (op : Nat) : Option (Opnd → Opnd → IArg → LMask → Instr) :=
  match op with
  | 0x40 => some .iadd
  | 0x41 => some .isub
  | 0x44 => some .imul
  | 0x49 => some .eAnd
  | 0x4A => some .eOr
  | 0x4B => some .eXor
  | 0x4C => some .eAndn
  | 0x4D => some .eShl
  | 0x4E => some .eShr
  | 0x4F => some .eSra
  | _ => none

/-- Integer operations with an unsigned form (R123, R188). -/
def intNForm (op : Nat) : Option (Bool → Opnd → Opnd → IArg → LMask → Instr) :=
  match op with
  | 0x42 => some .iadds
  | 0x43 => some .isubs
  | 0x45 => some .imulh
  | 0x46 => some .imin
  | 0x47 => some .imax
  | _ => none

/-- Integer operations with one source (R188). -/
def int1Form (op : Nat) : Option (Opnd → Opnd → LMask → Instr) :=
  match op with
  | 0x48 => some .iabs
  | 0x51 => some .eClz
  | 0x52 => some .ePopc
  | _ => none

/-- Source b of R123, and whether the fields that its I bit leaves unused are zero. -/
def iarg (f : EFields) : IArg × Bool :=
  if fld f.fn 10 1 = 1 then (.imm (BitVec.ofNat 9 f.fn), f.b == 0)
  else (.opnd (.ofCode f.b), fld f.fn 0 9 == 0)

/-- The field argument of BEXT and BDEP (R189). -/
def fieldArg (f : EFields) : FieldArg × Bool :=
  if fld f.fn 10 1 = 1 then (.imm (Fin.ofNat 32 (f.fn / 2 ^ 5)) (Fin.ofNat 32 f.fn), f.b == 0)
  else (.opnd (.ofCode f.b), fld f.fn 0 10 == 0)

/-- Op bytes 0x00 to 0x0C: floating point (R185 to R187). -/
def decodeFp (f : EFields) : Decoded :=
  let d := Opnd.ofCode f.dst
  let a := Opnd.ofCode f.a
  let b := Opnd.ofCode f.b
  let m : LMask := Fin.ofNat 8 f.m
  match fp2Form f.op with
  | some mk => .eguard (f.fn == 0) (some (mk d a b m))
  | none =>
    match fp1Form f.op with
    | some mk => .eguard (f.fn == 0 && f.b == 0) (some (mk d a m))
    | none =>
      .eguard (f.dst / 8 == 0 && f.fn / 32 == 0)
        (match FCond.ofCode (fld f.fn 0 3), LType.ofCode (fld f.fn 3 2) with
         | some c, some t => (Instr.fcmp c t (Fin.ofNat 8 f.dst) a b m).ifWf
         | _, _ => none)

/-- Op bytes 0x40 to 0x54: integer and bit operations (R188, R189). -/
def decodeInt (f : EFields) : Decoded :=
  let d := Opnd.ofCode f.dst
  let a := Opnd.ofCode f.a
  let b := Opnd.ofCode f.b
  let m : LMask := Fin.ofNat 8 f.m
  let n := fld f.fn 9 1 == 1
  let i := fld f.fn 10 1 == 1
  match int2Form f.op with
  | some mk => .eguard (iarg f).2 (if n then none else (mk d a (iarg f).1 m).ifWf)
  | none =>
    match intNForm f.op with
    | some mk => .eguard (iarg f).2 (some (mk n d a (iarg f).1 m))
    | none =>
      match int1Form f.op with
      | some mk => .eguard (f.b == 0 && (i || fld f.fn 0 9 == 0)) (if n || i then none else some (mk d a m))
      | none =>
        match f.op with
        | 0x50 =>
          .eguard (fld f.fn 5 4 == 0 && (i || fld f.fn 0 5 == 0))
            (some ((if n then Instr.eFshl else Instr.eFshr) d a b (if i then some (Fin.ofNat 32 f.fn) else none) m))
        | 0x53 => .eguard (fieldArg f).2 (some (.bext d a (fieldArg f).1 m))
        | _ => .eguard (fieldArg f).2 (some (.bdep d a (fieldArg f).1 m))

/-- Op bytes 0x80 to 0x8A: conversion, lane groups and movement (R190 to R196). -/
def decodeConv (f : EFields) : Decoded :=
  let d := Opnd.ofCode f.dst
  let a := Opnd.ofCode f.a
  let b := Opnd.ofCode f.b
  let m : LMask := Fin.ofNat 8 f.m
  let sreg : Fin 16 := Fin.ofNat 16 (f.fn / 8)
  let rm := RMode.ofCode (fld f.fn 0 2)
  let sat := fld f.fn 2 1 == 1
  let n : Fin 4 := Fin.ofNat 4 f.fn
  let gsat := fld f.fn 4 1 == 1
  let gz := f.b == 0 && f.fn / 32 == 0
  match f.op with
  | 0x80 =>
    .eguard (f.b == 0)
      (match Fmt.ofCode (fld f.fn 7 4), Fmt.ofCode (fld f.fn 3 4) with
       | some sf, some df => (Instr.cvt sf df sat rm d a m).ifWf
       | _, _ => none)
  | 0x81 =>
    .eguard true
      (match Fmt.ofCode (fld f.fn 7 4) with
       | some df => (Instr.qnt df sreg sat rm d a b m).ifWf
       | none => none)
  | 0x82 =>
    .eguard (f.b == 0 && dqntSreg sreg a)
      (match Fmt.ofCode (fld f.fn 7 4) with
       | some sf => (Instr.dqnt sf sreg (Fin.ofNat 8 f.fn) d a m).ifWf
       | none => none)
  | 0x83 => .eguard (f.b == 0 && f.fn == 0) (some (.outl d a m))
  | 0x84 =>
    .eguard gz (match LType.ofCode (fld f.fn 2 2) with
      | some t => if gsat then none else some (.gmax n t d a m)
      | none => none)
  | 0x85 =>
    .eguard gz (match LType.ofCode (fld f.fn 2 2) with
      | some t => if gsat then none else some (.gmin n t d a m)
      | none => none)
  | 0x86 =>
    .eguard gz (match LType.ofCode (fld f.fn 2 2) with
      | some t => (Instr.gsum n t gsat d a m).ifWf
      | none => none)
  | 0x87 =>
    .eguard gz (match LType.ofCode (fld f.fn 2 2) with
      | some t => (Instr.gscan n t gsat d a m).ifWf
      | none => none)
  | 0x88 =>
    .eguard (fld f.fn 5 3 == 0 && (fld f.fn 8 3 == 0 || fld f.fn 0 5 == 0))
      (match ShufKind.ofCode (fld f.fn 8 3) (fld f.fn 0 5) with
       | some k => some (.shuf k d a b m)
       | none => none)
  | 0x89 =>
    if fld f.fn 10 1 = 1 then .eguard (f.a == 0 && f.b == 0) (some (.splat d (.imm (BitVec.ofNat 10 f.fn)) m))
    else .eguard (f.b == 0 && fld f.fn 4 6 == 0) (some (.splat d (.lane a (Fin.ofNat 16 f.fn)) m))
  | _ => .eguard (f.fn / 8 == 0) (some (.eSel (Fin.ofNat 8 f.fn) d a b m))

/-- Op bytes 0xA0 to 0xA9: token operations (R197). -/
def decodeToken (f : EFields) : Decoded :=
  let d := Opnd.ofCode f.dst
  let a := Opnd.ofCode f.a
  let b := Opnd.ofCode f.b
  let m : LMask := Fin.ofNat 8 f.m
  let c : Fin 32 := Fin.ofNat 32 f.fn
  let z := f.m == 0
  match f.op with
  | 0xA0 => .eguard (z && f.fn / 32 == 0) (some (.steer d c a b))
  | 0xA1 =>
    if fld f.fn 5 1 = 1 then .eguard (z && f.fn / 64 == 0) (some (.mergeC d a b c))
    else .eguard (z && f.fn == 0) (some (.mergeT d a b))
  | 0xA2 => .eguard (z && f.fn / 2 == 0) (some (.join (f.fn % 2 == 1) d a b))
  | 0xA3 => .eguard (z && f.b == 0 && f.fn / 32 == 0) (some (.fork d c a))
  | 0xA4 => .eguard (z && f.fn / 2 == 0) (some (.gate (f.fn % 2 == 1) d a b))
  | 0xA5 => .eguard (z && f.fn == 0) (some (.mark d a b))
  | 0xA6 => .eguard (f.a == 0 && f.b == 0 && f.fn == 0) (some (.taggen d m))
  | 0xA7 => .eguard (f.fn / 8 == 0) (some (.cnt (Fin.ofNat 8 f.fn) d a b m))
  | 0xA8 => .eguard (z && f.b == 0 && f.fn == 0) (some (.ctltok d a))
  | _ => .eguard (f.b == 0 && f.fn == 0) (some (.mov d a m))

/-- Op bytes 0xC0 to 0xC4: stream generators (R240). -/
def decodeGen (f : EFields) : Decoded :=
  let d := Opnd.ofCode f.dst
  let a := Opnd.ofCode f.a
  let g : Fin 4 := Fin.ofNat 4 f.fn
  let z := f.m == 0 && f.b == 0
  match f.op with
  | 0xC0 => .eguard (z && f.a == 0 && f.fn / 4 == 0) (some (.agen d g))
  | 0xC1 => .eguard (z && f.a == 0 && f.fn / 4 == 0) (some (.agwin d g))
  | 0xC2 => .eguard (z && f.dst == 0 && f.fn / 4 == 0) (some (.agpad g a))
  | 0xC3 =>
    if fld f.fn 10 1 = 1 then
      .eguard (z && f.dst == 0 && f.a == 0) (some (.agstep g (.imm (Fin.ofNat 256 (f.fn / 4)))))
    else .eguard (z && f.dst == 0 && f.fn / 4 == 0) (some (.agstep g (.opnd a)))
  | _ => .eguard (z && f.dst == 0 && f.fn / 8 == 0) (some (.agrw g (fld f.fn 2 1 == 1) a))

/-- Op bytes 0xC5 to 0xCE: memory port and local memory (R243 to R248). -/
def decodePort (f : EFields) : Decoded :=
  let d := Opnd.ofCode f.dst
  let a := Opnd.ofCode f.a
  let b := Opnd.ofCode f.b
  let m : LMask := Fin.ofNat 8 f.m
  let s : Fin 16 := Fin.ofNat 16 f.fn
  let sgn := fld f.fn 8 1 == 1
  let off := BitVec.ofNat 10 f.fn
  match f.op with
  | 0xC5 =>
    let nr := fld f.fn 4 1 == 1
    .eguard (f.m == 0 && f.dst == 0 && f.b == 0 && f.fn / 256 == 0 && (nr || fld f.fn 5 3 == 0))
      (some (.mld s a (if nr then some (Fin.ofNat 8 (f.fn / 2 ^ 5)) else none)))
  | 0xC6 => .eguard (f.dst == 0 && f.fn / 16 == 0) (some (.mst s a b m))
  | 0xC7 => .eguard (f.dst == 0 && f.fn / 16 == 0) (some (.mstm s a b m))
  | 0xC8 =>
    .eguard (f.dst == 0 && f.fn / 512 == 0)
      (match ESize.ofCode (fld f.fn 4 2), BadMode.ofCode (fld f.fn 6 2) with
       | some z, some bad => some (.mgath s z bad sgn a b m)
       | _, _ => none)
  | 0xC9 =>
    .eguard (f.fn / 512 == 0)
      (match ESize.ofCode (fld f.fn 4 2), BadMode.ofCode (fld f.fn 6 2) with
       | some z, some bad => some (.mscat s z bad sgn d a b m)
       | _, _ => none)
  | 0xCA =>
    let wait := fld f.fn 0 1 == 1
    let emit := fld f.fn 1 1 == 1
    .eguard (f.m == 0 && f.b == 0 && f.fn / 16 == 0 && (wait || f.a == 0) && (emit || f.dst == 0))
      (some (.mord (Scope.ofCode (fld f.fn 2 2)) (if emit then some d else none) (if wait then some a else none)))
  | 0xCB =>
    .eguard (f.fn / 512 == 0 && fld f.fn 0 4 == 0 && fld f.fn 6 2 == 0)
      (match ESize.ofCode (fld f.fn 4 2) with
       | some z => some (.mprobe z sgn d a b m)
       | none => none)
  | 0xCC => .eguard (f.b == 0) (some (.lld (fld f.fn 10 1 == 1) off d a m))
  | 0xCD => .eguard (f.dst == 0 && fld f.fn 10 1 == 0) (some (.lst off a b m))
  | _ => .eguard (f.dst == 0 && fld f.fn 10 1 == 0) (some (.lstm off a b m))

/-- Op bytes 0xE0 to 0xE7: special nodes (R249 to R257). -/
def decodeNode (f : EFields) : Decoded :=
  let d := Opnd.ofCode f.dst
  let a := Opnd.ofCode f.a
  let b := Opnd.ofCode f.b
  let m : LMask := Fin.ofNat 8 f.m
  let z := f.m == 0
  match f.op with
  | 0xE0 => .eguard (z && f.b == 0 && f.fn / 2 == 0) (some (.sphdr (f.fn % 2 == 1) d a))
  | 0xE1 => .eguard (z && f.b == 0 && f.fn / 2 == 0) (some (.sptree (f.fn % 2 == 1) d a))
  | 0xE2 =>
    let ret := fld f.fn 5 1 == 1
    .eguard (z && f.fn / 64 == 0 && (ret || f.dst == 0))
      (match RmwOp.ofCode (fld f.fn 0 4) with
       | some op => (Instr.rmw op (fld f.fn 4 1 == 1) (if ret then some d else none) a b).ifWf
       | none => none)
  | 0xE3 => .eguard (z && f.fn / 32 == 0) (some (.vote d a b (Fin.ofNat 32 f.fn)))
  | 0xE4 => .eguard (z && f.fn / 4 == 0) (some (.csacc (Fin.ofNat 4 f.fn) d a b))
  | 0xE5 => .eguard (f.b == 0 && f.fn / 8 == 0)
      (some (.csnorm (fld f.fn 2 1 == 1) (RMode.ofCode (fld f.fn 0 2)) d a m))
  | 0xE6 =>
    .eguard (f.fn / 32 == 0)
      (match RedOp.ofCode (fld f.fn 0 2), RedType.ofCode (fld f.fn 2 3) with
       | some op, some t => (Instr.red op t d a b m).ifWf
       | _, _ => none)
  | _ =>
    let fwd := fld f.fn 4 1 == 1
    .eguard (z && f.b == 0 && f.fn / 32 == 0 && (fwd || f.dst == 0))
      (some (.rtag (Fin.ofNat 16 f.fn) (if fwd then some d else none) a))

/-- An E word, read through its op byte (R124). A reserved op byte fails check 6. -/
def decodeENat (w : Nat) : Decoded :=
  let f := eFields w
  if f.op ≤ 0x0C then decodeFp f
  else if 0x40 ≤ f.op ∧ f.op ≤ 0x54 then decodeInt f
  else if 0x80 ≤ f.op ∧ f.op ≤ 0x8A then decodeConv f
  else if 0xA0 ≤ f.op ∧ f.op ≤ 0xA9 then decodeToken f
  else if 0xC0 ≤ f.op ∧ f.op ≤ 0xC4 then decodeGen f
  else if 0xC5 ≤ f.op ∧ f.op ≤ 0xCE then decodePort f
  else if 0xE0 ≤ f.op ∧ f.op ≤ 0xE7 then decodeNode f
  else .bad .check6

/-- An E word of 40 bits. -/
def decodeE (w : BitVec 40) : Decoded := decodeENat w.toNat

/-! ### V words (R127, R128) -/

def Adv.ofCode (n : Nat) : Option Adv :=
  match n with
  | 0 => some .keep
  | 1 => some .advance
  | 2 => some .reset
  | _ => none

def Adv.code : Adv → Nat
  | .keep => 0
  | .advance => 1
  | .reset => 2

def ChainDir.ofCode (n : Nat) : Option ChainDir :=
  match n with
  | 0 => some .here
  | 1 => some .east
  | 2 => some .west
  | _ => none

def ChainDir.code : ChainDir → Nat
  | .here => 0
  | .east => 1
  | .west => 2

/-- A schedule word whose reserved fields are zero; a reserved argument value fails check 11 (R266). -/
def Decoded.vguard (zeroOk : Bool) (i : Option Instr) : Decoded :=
  if zeroOk then
    match i with
    | some i => .instr i
    | none => .bad .check11
  else .bad .check5

/-- A V word (R127). -/
def decodeVNat (w : Nat) : Decoded :=
  let slot : Fin 64 := Fin.ofNat 64 (w / 2 ^ 29)
  let s : Fin 128 := Fin.ofNat 128 (w / 2 ^ 22)
  let ga : Fin 64 := Fin.ofNat 64 (w / 2 ^ 16)
  let gb : Fin 64 := Fin.ofNat 64 (w / 2 ^ 10)
  let zs := fld w 22 7 == 0
  let za := fld w 16 6 == 0
  let zb := fld w 10 6 == 0
  let args := fld w 0 10
  let chunk : Fin 128 := Fin.ofNat 128 w
  match fld w 35 5 with
  | 0x00 => .vguard (zs && za && zb && args == 0) (some (.vnop slot))
  | 0x01 => .vguard (zb && fld w 9 1 == 0)
      (match Adv.ofCode (fld w 7 2) with
       | some v => some (.vlda slot s ga v chunk)
       | none => none)
  | 0x02 => .vguard za
      (match Adv.ofCode (fld w 7 2) with
       | some v => some (.vldb slot s gb (bfld w 9) v chunk)
       | none => none)
  | 0x03 => .vguard true
      (match Adv.ofCode (fld w 7 2) with
       | some v => some (.vmac slot s ga gb (bfld w 9) v chunk)
       | none => none)
  | 0x04 => .vguard zb (some (.vspmeta slot s ga (Fin.ofNat 4 (w / 2 ^ 8)) (bfld w 7) chunk))
  | 0x05 => .vguard (za && zb && fld w 6 4 == 0)
      (some (.vdrain slot s (Fin.ofNat 4 (w / 2 ^ 4)) (bfld w 3) (bfld w 2) (Fin.ofNat 4 w)))
  | 0x06 => .vguard (za && zb && args == 0) (some (.vzero slot s))
  | 0x07 => .vguard (za && zb && fld w 9 1 == 0)
      (match ChainDir.ofCode (fld w 0 2) with
       | some dir => some (.vchain slot s (Fin.ofNat 128 (w / 2 ^ 2)) dir)
       | none => none)
  | 0x08 => .vguard (zs && za && zb && fld w 5 5 == 0) (some (.vwait slot (Fin.ofNat 32 w)))
  | 0x09 => .vguard (zs && za && zb && args == 0) (some (.vend slot))
  | 0x0A => .vguard (za && zb && fld w 8 2 == 0)
      (some (.vscale slot s (Fin.ofNat 128 (w / 2)) (bfld w 0)))
  | _ => .bad .check6

/-- A V word of 40 bits. -/
def decodeV (w : BitVec 40) : Decoded := decodeVNat w.toNat

/-- The decoding of an instruction numbered as the opcode table numbers it: 32 bits are an S word,
40 bits an E word. The table gives no row any other length. -/
def decodeTableWord (nbits w : Nat) : Option Instr :=
  if nbits = 32 then (decodeS (BitVec.ofNat 32 w)).toOption
  else if nbits = 40 then (decodeE (BitVec.ofNat 40 w)).toOption
  else none

/-! ### The encoder, from the same tables -/

/-- A word of one of the three encodings, or none for a step of the device. -/
inductive Encoded where
  | s (w : Word)
  | e (w : BitVec 40)
  | v (w : BitVec 40)
  | step
  deriving DecidableEq, Repr

/-- What an encoded word decodes to. -/
def Encoded.decode : Encoded → Option Instr
  | .s w => (decodeS w).toOption
  | .e w => (decodeE w).toOption
  | .v w => (decodeV w).toOption
  | .step => none

/-- SR and SC layout (R111): major, bits 25-20, 19-14, 13-8, 7-0. -/
def encSR (major d a b fn : Nat) : Encoded :=
  .s (BitVec.ofNat 32 (major * 2 ^ 26 + d * 2 ^ 20 + a * 2 ^ 14 + b * 2 ^ 8 + fn))

/-- SI layout (R111). -/
def encSI (major d a imm : Nat) : Encoded :=
  .s (BitVec.ofNat 32 (major * 2 ^ 26 + d * 2 ^ 20 + a * 2 ^ 14 + imm))

/-- SU layout (R111). -/
def encSU (major d imm : Nat) : Encoded :=
  .s (BitVec.ofNat 32 (major * 2 ^ 26 + d * 2 ^ 20 + imm))

/-- SX and SXR layouts (R111): sense, predicate, exit index, and bits 19-0. -/
def encSX (major : Nat) (s : Bool) (q : PReg) (x : Fin 4) (low : Nat) : Encoded :=
  .s (BitVec.ofNat 32 (major * 2 ^ 26 + s.toNat * 2 ^ 25 + q.val * 2 ^ 22 + x.val * 2 ^ 20 + low))

/-- SM layout (R111). -/
def encSM (major d a : Nat) (z : Size) (flag : Bool) (o : BitVec 11) : Encoded :=
  .s (BitVec.ofNat 32 (major * 2 ^ 26 + d * 2 ^ 20 + a * 2 ^ 14 + z.code * 2 ^ 12 + flag.toNat * 2 ^ 11 + o.toNat))

/-- An atomic (R116). -/
def encAtomic (op : Nat) (d a b : GReg) (z : Bool) (c : Scope) (r : Bool) : Encoded :=
  encSR 0x1D d a b (op * 2 ^ 4 + z.toNat * 2 ^ 3 + c.code * 2 + r.toNat)

/-- SY layout (R111). -/
def encSY (d k cmd : Nat) : Encoded :=
  .s (BitVec.ofNat 32 (0x30 * 2 ^ 26 + d * 2 ^ 20 + k * 2 ^ 8 + cmd))

/-- E layout (R122). -/
def encE (op dst a b m fn : Nat) : Encoded :=
  .e (BitVec.ofNat 40 (op * 2 ^ 32 + dst * 2 ^ 26 + a * 2 ^ 20 + b * 2 ^ 14 + m * 2 ^ 11 + fn))

/-- An integer operation (R123). -/
def encInt (op : Nat) (n : Bool) (d a : Opnd) (b : IArg) (m : LMask) : Encoded :=
  match b with
  | .opnd o => encE op d.code a.code o.code m.val (n.toNat * 2 ^ 9)
  | .imm i => encE op d.code a.code 0 m.val (2 ^ 10 + n.toNat * 2 ^ 9 + i.toNat)

/-- BEXT and BDEP (R189). -/
def encField (op : Nat) (d a : Opnd) (f : FieldArg) (m : LMask) : Encoded :=
  match f with
  | .opnd o => encE op d.code a.code o.code m.val 0
  | .imm len1 pos => encE op d.code a.code 0 m.val (2 ^ 10 + len1.val * 2 ^ 5 + pos.val)

/-- FSHR and FSHL (R189). -/
def encFsh (dir : Nat) (d a b : Opnd) (n : Option (Fin 32)) (m : LMask) : Encoded :=
  match n with
  | none => encE 0x50 d.code a.code b.code m.val (dir * 2 ^ 9)
  | some k => encE 0x50 d.code a.code b.code m.val (2 ^ 10 + dir * 2 ^ 9 + k.val)

/-- V layout (R127). -/
def encV (vop slot s ga gb args : Nat) : Encoded :=
  .v (BitVec.ofNat 40 (vop * 2 ^ 35 + slot * 2 ^ 29 + s * 2 ^ 22 + ga * 2 ^ 16 + gb * 2 ^ 10 + args))

/-- The operand code of an optional operand: 0 when it is absent. -/
def optCode : Option Opnd → Nat
  | none => 0
  | some o => o.code

/-- 1 when an optional operand is present. -/
def optBit : Option Opnd → Nat
  | none => 0
  | some _ => 1

/-- The encoding of an instruction: the word its table gives it, or that it is a step of the device. -/
def encode : Instr → Encoded
  | .blk l x s f => .s (BitVec.ofNat 32 (l.val * 2 ^ 19 + x.val * 2 ^ 17 + s.val * 2 ^ 12 + f.toNat * 2 ^ 11))
  | .add d a b => encSR 0x01 d a b 0x00
  | .sub d a b => encSR 0x01 d a b 0x01
  | .and d a b => encSR 0x01 d a b 0x02
  | .or d a b => encSR 0x01 d a b 0x03
  | .xor d a b => encSR 0x01 d a b 0x04
  | .andn d a b => encSR 0x01 d a b 0x05
  | .shl d a b => encSR 0x01 d a b 0x06
  | .shr d a b => encSR 0x01 d a b 0x07
  | .sra d a b => encSR 0x01 d a b 0x08
  | .fshl d a b => encSR 0x01 d a b 0x09
  | .fshr d a b => encSR 0x01 d a b 0x0a
  | .min d a b => encSR 0x01 d a b 0x0b
  | .max d a b => encSR 0x01 d a b 0x0c
  | .minn d a b => encSR 0x01 d a b 0x0d
  | .maxn d a b => encSR 0x01 d a b 0x0e
  | .mul d a b => encSR 0x01 d a b 0x12
  | .mulh d a b => encSR 0x01 d a b 0x13
  | .mulhn d a b => encSR 0x01 d a b 0x14
  | .div d a b => encSR 0x01 d a b 0x15
  | .divn d a b => encSR 0x01 d a b 0x16
  | .rem d a b => encSR 0x01 d a b 0x17
  | .remn d a b => encSR 0x01 d a b 0x18
  | .clz d a => encSR 0x01 d a 0 0x0f
  | .ctz d a => encSR 0x01 d a 0 0x10
  | .popc d a => encSR 0x01 d a 0 0x11
  | .sel d a b p => encSR 0x01 d a b (0x20 + p.val)
  | .addx d a b k => encSR 0x01 d a b (0x30 + k.val)
  | .addi d a i => encSI 0x02 d a i.toNat
  | .andi d a i => encSI 0x03 d a i.toNat
  | .ori d a i => encSI 0x04 d a i.toNat
  | .xori d a i => encSI 0x05 d a i.toNat
  | .shli d a n => encSI 0x06 d a (0 * 2 ^ 12 + n.val)
  | .shri d a n => encSI 0x06 d a (1 * 2 ^ 12 + n.val)
  | .srai d a n => encSI 0x06 d a (2 * 2 ^ 12 + n.val)
  | .cmpeq p a b => encSR 0x07 p a b 0
  | .cmpne p a b => encSR 0x07 p a b 1
  | .cmplt p a b => encSR 0x07 p a b 2
  | .cmpltn p a b => encSR 0x07 p a b 3
  | .cmple p a b => encSR 0x07 p a b 4
  | .cmplen p a b => encSR 0x07 p a b 5
  | .cmpeqImm p a i => encSI 0x08 (0 * 2 ^ 3 + p.val) a i.toNat
  | .cmpneImm p a i => encSI 0x08 (1 * 2 ^ 3 + p.val) a i.toNat
  | .cmpltImm p a i => encSI 0x08 (2 * 2 ^ 3 + p.val) a i.toNat
  | .cmpltnImm p a i => encSI 0x08 (3 * 2 ^ 3 + p.val) a i.toNat
  | .cmpleImm p a i => encSI 0x08 (4 * 2 ^ 3 + p.val) a i.toNat
  | .cmplenImm p a i => encSI 0x08 (5 * 2 ^ 3 + p.val) a i.toNat
  | .limm d i => encSU 0x09 d i.toNat
  | .limh d i => encSU 0x0A d i.toNat
  | .pand p a b => encSR 0x0B p a b 0
  | .por p a b => encSR 0x0B p a b 1
  | .pxor p a b => encSR 0x0B p a b 2
  | .pnot p a => encSR 0x0B p a 0 3
  | .pset p v => encSR 0x0B p 0 v.toNat 4
  | .exit s q x o => encSX 0x10 s q x o.toNat
  | .exitr s q x a => encSX 0x11 s q x (a.val * 2 ^ 14)
  | .call s q x o => encSX 0x12 s q x o.toNat
  | .ret s q x a => encSX 0x13 s q x (a.val * 2 ^ 14)
  | .ld d a z o => encSM 0x18 d a z false o
  | .ldSigned d a z o => encSM 0x18 d a z true o
  | .st s a z o => encSM 0x19 s a z false o
  | .ldver d a b g z => encSR 0x1A d a b (g.toNat * 2 ^ 2 + z.code)
  | .stver s a z o => encSM 0x1B s a z false o
  | .reclaim a b => encSR 0x1C 0 a b 0
  | .aadd d a b z c r => encAtomic 0 d a b z c r
  | .aadds d a b z c r => encAtomic 1 d a b z c r
  | .amin d a b z c r => encAtomic 2 d a b z c r
  | .amax d a b z c r => encAtomic 3 d a b z c r
  | .aand d a b z c r => encAtomic 4 d a b z c r
  | .aor d a b z c r => encAtomic 5 d a b z c r
  | .axor d a b z c r => encAtomic 6 d a b z c r
  | .axch d a b z c r => encAtomic 7 d a b z c r
  | .acas d a b z c r => encAtomic 8 d a b z c r
  | .afadd d a b c r => encAtomic 9 d a b false c r
  | .fence o s => encSI 0x1E 0 0 (o.code * 2 ^ 3 + s.fenceCode)
  | .scopy d a b => encSR 0x20 d a b 1
  | .sload d a b => encSR 0x20 d a b 2
  | .sstore d a b => encSR 0x20 d a b 3
  | .sgath d a b => encSR 0x20 d a b 4
  | .sscat d a b => encSR 0x20 d a b 5
  | .sprobe d a b => encSR 0x20 d a b 6
  | .speer d a b => encSR 0x20 d a b 7
  | .scoll d a b => encSR 0x20 d a b 8
  | .squery d a => encSR 0x20 d a 0 9
  | .fload a b => encSR 0x24 0 a b 1
  | .fswitch => encSR 0x24 0 0 0 2
  | .fshrink a => encSR 0x24 0 a 0 3
  | .fgrow => encSR 0x24 0 0 0 4
  | .frun => encSR 0x24 0 0 0 5
  | .fstop => encSR 0x24 0 0 0 6
  | .fdrain d b => encSR 0x24 d 0 b 7
  | .fstat d a => encSR 0x24 d a 0 8
  | .finj a b => encSR 0x24 0 a b 9
  | .fext d a => encSR 0x24 d a 0 10
  | .vgo a => encSR 0x28 0 a 0 1
  | .vmap a b => encSR 0x28 0 a b 2
  | .vstat d a => encSR 0x28 d a 0 3
  | .vquiesce a => encSR 0x28 0 a 0 4
  | .rndend a => encSR 0x2C 0 a 0 1
  | .rndwait d a b => encSR 0x2C d a b 2
  | .bararr a b => encSR 0x2C 0 a b 3
  | .barwait d a b => encSR 0x2C d a b 4
  | .barstat d a => encSR 0x2C d a 0 5
  | .notify a b => encSR 0x2C 0 a b 6
  | .flagwait d a b => encSR 0x2C d a b 7
  | .csrr d k => encSY d k.toNat 1
  | .csrw d k => encSY d k.toNat 2
  | .csrs d k => encSY d k.toNat 3
  | .csrc d k => encSY d k.toNat 4
  | .caprd d a b => encSR 0x30 d a b 0x08
  | .bmaprd d => encSY d 0 0x09
  | .svc n k => encSY n k.toNat 0x10
  | .trap n k => encSY n k.toNat 0x11
  | .brk n k => encSY n k.toNat 0x13
  | .hint n k => encSY n k.toNat 0x19
  | .tret => encSY 0 0 0x12
  | .yield => encSY 0 0 0x18
  | .nop => encSY 0 0 0x1a
  | .fadd d a b m => encE 0x00 d.code a.code b.code m.val 0
  | .fsub d a b m => encE 0x01 d.code a.code b.code m.val 0
  | .fmul d a b m => encE 0x02 d.code a.code b.code m.val 0
  | .fma d a b m => encE 0x03 d.code a.code b.code m.val 0
  | .fmax d a b m => encE 0x04 d.code a.code b.code m.val 0
  | .fmin d a b m => encE 0x05 d.code a.code b.code m.val 0
  | .fabs d a m => encE 0x06 d.code a.code 0 m.val 0
  | .fneg d a m => encE 0x07 d.code a.code 0 m.val 0
  | .frcp d a m => encE 0x08 d.code a.code 0 m.val 0
  | .frsq d a m => encE 0x09 d.code a.code 0 m.val 0
  | .fexp2 d a m => encE 0x0a d.code a.code 0 m.val 0
  | .flog2 d a m => encE 0x0b d.code a.code 0 m.val 0
  | .fcmp c t md a b m => encE 0x0C md.val a.code b.code m.val (t.code * 2 ^ 3 + c.code)
  | .iadd d a b m => encInt 0x40 false d a b m
  | .isub d a b m => encInt 0x41 false d a b m
  | .imul d a b m => encInt 0x44 false d a b m
  | .eAnd d a b m => encInt 0x49 false d a b m
  | .eOr d a b m => encInt 0x4a false d a b m
  | .eXor d a b m => encInt 0x4b false d a b m
  | .eAndn d a b m => encInt 0x4c false d a b m
  | .eShl d a b m => encInt 0x4d false d a b m
  | .eShr d a b m => encInt 0x4e false d a b m
  | .eSra d a b m => encInt 0x4f false d a b m
  | .iadds n d a b m => encInt 0x42 n d a b m
  | .isubs n d a b m => encInt 0x43 n d a b m
  | .imulh n d a b m => encInt 0x45 n d a b m
  | .imin n d a b m => encInt 0x46 n d a b m
  | .imax n d a b m => encInt 0x47 n d a b m
  | .iabs d a m => encE 0x48 d.code a.code 0 m.val 0
  | .eClz d a m => encE 0x51 d.code a.code 0 m.val 0
  | .ePopc d a m => encE 0x52 d.code a.code 0 m.val 0
  | .eFshr d a b n m => encFsh 0 d a b n m
  | .eFshl d a b n m => encFsh 1 d a b n m
  | .bext d a f m => encField 0x53 d a f m
  | .bdep d a f m => encField 0x54 d a f m
  | .cvt sf df sat rm d a m =>
    encE 0x80 d.code a.code 0 m.val (sf.code * 2 ^ 7 + df.code * 2 ^ 3 + sat.toNat * 2 ^ 2 + rm.code)
  | .qnt df sreg ws rm d a b m =>
    encE 0x81 d.code a.code b.code m.val (df.code * 2 ^ 7 + sreg.val * 2 ^ 3 + ws.toNat * 2 ^ 2 + rm.code)
  | .dqnt sf sreg part d a m => encE 0x82 d.code a.code 0 m.val (sf.code * 2 ^ 7 + sreg.val * 2 ^ 3 + part.val)
  | .outl d a m => encE 0x83 d.code a.code 0 m.val 0
  | .gmax n t d a m => encE 0x84 d.code a.code 0 m.val (t.code * 2 ^ 2 + n.val)
  | .gmin n t d a m => encE 0x85 d.code a.code 0 m.val (t.code * 2 ^ 2 + n.val)
  | .gsum n t sat d a m => encE 0x86 d.code a.code 0 m.val (sat.toNat * 2 ^ 4 + t.code * 2 ^ 2 + n.val)
  | .gscan n t sat d a m => encE 0x87 d.code a.code 0 m.val (sat.toNat * 2 ^ 4 + t.code * 2 ^ 2 + n.val)
  | .shuf k d a b m => encE 0x88 d.code a.code b.code m.val k.code
  | .splat d (.lane a l) m => encE 0x89 d.code a.code 0 m.val l.val
  | .splat d (.imm i) m => encE 0x89 d.code 0 0 m.val (2 ^ 10 + i.toNat)
  | .eSel ms d a b m => encE 0x8A d.code a.code b.code m.val ms.val
  | .steer d f a b => encE 0xA0 d.code a.code b.code 0 f.val
  | .mergeT d a b => encE 0xA1 d.code a.code b.code 0 0
  | .mergeC d a b c => encE 0xA1 d.code a.code b.code 0 (2 ^ 5 + c.val)
  | .join pick d a b => encE 0xA2 d.code a.code b.code 0 pick.toNat
  | .fork d y a => encE 0xA3 d.code a.code 0 0 y.val
  | .gate sense d a b => encE 0xA4 d.code a.code b.code 0 sense.toNat
  | .mark d a b => encE 0xA5 d.code a.code b.code 0 0
  | .taggen d m => encE 0xA6 d.code 0 0 m.val 0
  | .cnt mc d a b m => encE 0xA7 d.code a.code b.code m.val mc.val
  | .ctltok d a => encE 0xA8 d.code a.code 0 0 0
  | .mov d a m => encE 0xA9 d.code a.code 0 m.val 0
  | .agen d g => encE 0xC0 d.code 0 0 0 g.val
  | .agwin d g => encE 0xC1 d.code 0 0 0 g.val
  | .agpad g a => encE 0xC2 0 a.code 0 0 g.val
  | .agstep g (.opnd a) => encE 0xC3 0 a.code 0 0 g.val
  | .agstep g (.imm n) => encE 0xC3 0 0 0 0 (2 ^ 10 + n.val * 2 ^ 2 + g.val)
  | .agrw g win a => encE 0xC4 0 a.code 0 0 (win.toNat * 2 ^ 2 + g.val)
  | .mld s a none => encE 0xC5 0 a.code 0 0 s.val
  | .mld s a (some delta) => encE 0xC5 0 a.code 0 0 (delta.val * 2 ^ 5 + 2 ^ 4 + s.val)
  | .mst s a b m => encE 0xC6 0 a.code b.code m.val s.val
  | .mstm s a b m => encE 0xC7 0 a.code b.code m.val s.val
  | .mgath s z bad sgn a b m =>
    encE 0xC8 0 a.code b.code m.val (sgn.toNat * 2 ^ 8 + bad.code * 2 ^ 6 + z.code * 2 ^ 4 + s.val)
  | .mscat s z bad sgn d a b m =>
    encE 0xC9 d.code a.code b.code m.val (sgn.toNat * 2 ^ 8 + bad.code * 2 ^ 6 + z.code * 2 ^ 4 + s.val)
  | .mord c emit wait =>
    encE 0xCA (optCode emit) (optCode wait) 0 0 (c.code * 2 ^ 2 + optBit emit * 2 + optBit wait)
  | .mprobe z sgn d a b m => encE 0xCB d.code a.code b.code m.val (sgn.toNat * 2 ^ 8 + z.code * 2 ^ 4)
  | .lld g off d a m => encE 0xCC d.code a.code 0 m.val (g.toNat * 2 ^ 10 + off.toNat)
  | .lst off a b m => encE 0xCD 0 a.code b.code m.val off.toNat
  | .lstm off a b m => encE 0xCE 0 a.code b.code m.val off.toNat
  | .sphdr tags d a => encE 0xE0 d.code a.code 0 0 tags.toNat
  | .sptree tags d a => encE 0xE1 d.code a.code 0 0 tags.toNat
  | .rmw op dbl ret a b =>
    encE 0xE2 (optCode ret) a.code b.code 0 (optBit ret * 2 ^ 5 + dbl.toNat * 2 ^ 4 + op.code)
  | .vote d a b c => encE 0xE3 d.code a.code b.code 0 c.val
  | .csacc k d a b => encE 0xE4 d.code a.code b.code 0 k.val
  | .csnorm int rm d a m => encE 0xE5 d.code a.code 0 m.val (int.toNat * 2 ^ 2 + rm.code)
  | .red op t d a b m => encE 0xE6 d.code a.code b.code m.val (t.code * 2 ^ 2 + op.code)
  | .rtag e fwd a => encE 0xE7 (optCode fwd) a.code 0 0 (optBit fwd * 2 ^ 4 + e.val)
  | .vnop slot => encV 0x00 slot 0 0 0 0
  | .vlda slot s g adv chunk => encV 0x01 slot s g 0 (adv.code * 2 ^ 7 + chunk.val)
  | .vldb slot s g balt adv chunk => encV 0x02 slot s 0 g (balt.toNat * 2 ^ 9 + adv.code * 2 ^ 7 + chunk.val)
  | .vmac slot s ga gb balt adv chunk =>
    encV 0x03 slot s ga gb (balt.toNat * 2 ^ 9 + adv.code * 2 ^ 7 + chunk.val)
  | .vspmeta slot s g delta adv chunk =>
    encV 0x04 slot s g 0 (delta.val * 2 ^ 8 + adv.toNat * 2 ^ 7 + chunk.val)
  | .vdrain slot s bsel clr push pos =>
    encV 0x05 slot s 0 0 (bsel.val * 2 ^ 4 + clr.toNat * 2 ^ 3 + push.toNat * 2 ^ 2 + pos.val)
  | .vzero slot s => encV 0x06 slot s 0 0 0
  | .vchain slot s ts dir => encV 0x07 slot s 0 0 (ts.val * 2 ^ 2 + dir.code)
  | .vwait slot ch => encV 0x08 slot 0 0 0 ch.val
  | .vend slot => encV 0x09 slot 0 0 0 0
  | .vscale slot s chunk opB => encV 0x0A slot s 0 0 (chunk.val * 2 + opB.toNat)
  | .blockCommit .. => .step
  | .blockCacheLineFill .. => .step
  | .ownerUpdate .. => .step
  | .resultWriteback .. => .step
  | .firingMerge .. => .step
  | .drainTokenLanding .. => .step
  | .elasticTokenArrival .. => .step
  | .creditReturn .. => .step
  | .queueMemoryTransfer .. => .step
  | .controlTokenArrival .. => .step
  | .memoryReply .. => .step
  | .pageWalk .. => .step
  | .parkedAccessAdmit .. => .step
  | .parkedRetry .. => .step
  | .freezeBudgetExpiry .. => .step
  | .replayStart .. => .step
  | .roundCommit .. => .step
  | .regionRelease .. => .step
  | .barrierArrival .. => .step
  | .switch .. => .step
  | .passSwitch .. => .step
  | .fillComplete .. => .step
  | .trapEntry .. => .step
  | .trapAtS .. => .step
  | .trapResume .. => .step
  | .trapForward .. => .step
  | .trapEnd .. => .step
  | .trapRelaunch .. => .step
  | .waitTimeout .. => .step
  | .ldverVersionWaitExpiry .. => .step
  | .notifyArrival .. => .step
  | .launchPacket .. => .step
  | .cancelPacket .. => .step
  | .queryPacket .. => .step
  | .reportMessageReceived .. => .step
  | .residencyReport => .step
  | .placement .. => .step
  | .gangStart .. => .step
  | .gangLaunchTimeout .. => .step
  | .priorityAging .. => .step
  | .shareWindowExpiry .. => .step
  | .preemption .. => .step
  | .preemptionRwaitExpiry .. => .step
  | .contextSwap .. => .step
  | .resume .. => .step
  | .relaunch .. => .step
  | .capacityReduction .. => .step
  | .shrink .. => .step
  | .grow .. => .step
  | .gangMemberFailure .. => .step
  | .gangRelaunchTimeout .. => .step
  | .heartbeat => .step
  | .missedHeartbeat => .step
  | .takeover => .step
  | .lockstepMismatch .. => .step
  | .standbyReturn .. => .step
  | .keyInstallation .. => .step
  | .translationInvalidation .. => .step
  | .delegationChange .. => .step
  | .supervisorStateWrite .. => .step
  | .retirementCommand .. => .step
  | .ceWindowStart .. => .step
  | .correctableError .. => .step
  | .uncorrectableError .. => .step
  | .evacuationLineCopy .. => .step
  | .evacuationComplete .. => .step
  | .oldBankRetirement .. => .step
  | .laneRemap .. => .step
  | .scrub => .step
  | .linkFailure .. => .step
  | .migrationExamination .. => .step
  | .migration .. => .step
  | .peerTransferArrival .. => .step
  | .flagAdd .. => .step
  | .engineCommandStart .. => .step
  | .engineCommandComplete .. => .step
  | .coldStart => .step
  | .powerLoss => .step
  | .readResidency => .step
  | .readCapacity => .step
  | .readPower => .step
  | .attest .. => .step
  | .installKey .. => .step
  | .coldReset => .step
  | .writeChipNumber .. => .step
  | .debugUnlock .. => .step
  | .debugHalt .. => .step
  | .debugStep .. => .step
  | .debugReadRegisters .. => .step
  | .debugResume .. => .step
  | .powerSample .. => .step
  | .shrinkRwaitExpiry .. => .step
  | .memoryRequestPerformed .. => .step
  | .collectiveMessageArrival .. => .step
  | .gangMemberReportArrival .. => .step

end Sys2Proof
end

