-- ==== Sys2Proof/Machine/Bits.lean ====
section
/-! DEFINITION. Bit fields, lanes and byte order (R2, R3, R79, R159), shared by every unit. -/

namespace Sys2Proof.Machine

/-- `n` values of `w` bits, value 0 lowest (R159). -/
def pack (w : Nat) (f : Nat → Nat) : Nat → Nat
  | 0 => 0
  | n + 1 => pack w f n + f n % 2 ^ w * 2 ^ (w * n)

/-- Bits `lo + len - 1` to `lo` of a number. -/
def bits (x lo len : Nat) : Nat := x / 2 ^ lo % 2 ^ len

/-- Bit `i` of a number. -/
def bit (x i : Nat) : Bool := x / 2 ^ i % 2 == 1

/-- The two's complement value of the low `w` bits. -/
def sext (w x : Nat) : Int :=
  let m := x % 2 ^ w
  if 2 * m < 2 ^ w then (m : Int) else (m : Int) - (2 ^ w : Nat)

/-- A number modulo 2^w. -/
def wrapInt (w : Nat) (x : Int) : Nat := (x % ((2 ^ w : Nat) : Int)).toNat

/-- Lane `i` of a payload (R79). -/
def lane (p : Payload) (i : Nat) : Word := p.extractLsb' (32 * i) 32

/-- Value `j` of width `w` of a payload (R159). -/
def value (p : Payload) (w j : Nat) : Nat := bits p.toNat (w * j) w

/-- A payload from its 16 lanes. -/
def ofLanes (f : Nat → Word) : Payload := BitVec.ofNat 512 (pack 32 (fun i => (f i).toNat) 16)

/-- A payload from `n` values of `w` bits; values above stay zero. -/
def ofValues (w n : Nat) (f : Nat → Nat) : Payload := BitVec.ofNat 512 (pack w f n)

/-- The lane that holds value `j` of width `w`. -/
def laneOf (w j : Nat) : Nat := w * j / 32

/-- Leading zero bits of a word of `w` bits (R141, R188). -/
def clzNat (w x : Nat) : Nat := if x % 2 ^ w = 0 then w else w - 1 - Nat.log2 (x % 2 ^ w)

/-- Trailing zero bits, looking at bits `i` to `i + fuel - 1`; the width when there are none (R141). -/
def ctzFrom (x : Nat) : Nat → Nat → Nat
  | 0, i => i
  | fuel + 1, i => if bit x i then i else ctzFrom x fuel (i + 1)

/-- Trailing zero bits of a word of `w` bits. -/
def ctzNat (w x : Nat) : Nat := ctzFrom x w 0

/-- One bits of a word of `w` bits. -/
def popNat (x : Nat) : Nat → Nat
  | 0 => 0
  | w + 1 => popNat x w + (if bit x w then 1 else 0)

/-- Byte `i` of a little-endian number (R3). -/
def byteOf (x i : Nat) : Byte := BitVec.ofNat 8 (x / 2 ^ (8 * i))

/-- The little-endian number of a list of bytes (R3). -/
def leNat : List Byte → Nat
  | [] => 0
  | b :: bs => b.toNat + 256 * leNat bs

/-- The `n` bytes of a number, lowest first (R3). -/
def leBytes (x : Nat) : Nat → List Byte
  | 0 => []
  | n + 1 => BitVec.ofNat 8 x :: leBytes (x / 256) n

/-- Clamp to a range. -/
def clampInt (lo hi x : Int) : Int := if x < lo then lo else if hi < x then hi else x

/-- Least and greatest value of a signed or unsigned word of `w` bits. -/
def intMin (w : Nat) (unsigned : Bool) : Int := if unsigned then 0 else -((2 ^ (w - 1) : Nat) : Int)
def intMax (w : Nat) (unsigned : Bool) : Int :=
  if unsigned then ((2 ^ w : Nat) : Int) - 1 else ((2 ^ (w - 1) : Nat) : Int) - 1

/-- The value of a word of `w` bits, signed or unsigned. -/
def intVal (w : Nat) (unsigned : Bool) (x : Nat) : Int :=
  if unsigned then ((x % 2 ^ w : Nat) : Int) else sext w x

/-- Floor of the square root, one binary digit at a time from digit `n - 1` down. -/
def isqrtAux (x : Nat) : Nat → Nat → Nat
  | 0, r => r
  | n + 1, r => let t := r + 2 ^ n; isqrtAux x n (if t * t ≤ x then t else r)

/-- Floor of the square root of a number below 2^(2n). -/
def isqrt (n x : Nat) : Nat := isqrtAux x n 0

/-- The list 0 to n - 1. -/
def upTo (n : Nat) : List Nat := List.range n

end Sys2Proof.Machine
end

