-- ==== Sys2Proof/Machine/Flags.lean ====
section
/-! DEFINITION. The eight arithmetic flags (R171) and how a condition raises one. Which operation raises which stands
with the operations, in Fp.lean, Formats.lean and ElemCompute.lean. -/

namespace Sys2Proof.Machine

/-- The eight flags of AFLAGS. -/
abbrev Flags := BitVec 8

def fNV : Flags := 0x01#8
def fDZ : Flags := 0x02#8
def fOF : Flags := 0x04#8
def fUF : Flags := 0x08#8
def fNX : Flags := 0x10#8
def fSAT : Flags := 0x20#8
def fFMT : Flags := 0x40#8
def fNSC : Flags := 0x80#8

/-- A flag raised under a condition. -/
def flagIf (c : Bool) (f : Flags) : Flags := if c then f else 0#8

end Sys2Proof.Machine
end

