-- ==== Sys2Proof/Machine/Fp.lean ====
section
/-! DEFINITION. Floating-point arithmetic computed exactly and rounded once (R160, R161, R169 to R171,
R185, R186). -/

namespace Sys2Proof.Machine

/-! ### Values -/

/-- A floating-point format (R160): widths, bias, and whether it is E4M3, which has no infinity. -/
structure FFmt where
  ebits : Nat
  fbits : Nat
  bias : Nat
  e4m3 : Bool
  deriving DecidableEq, Repr

def fp32 : FFmt := ⟨8, 23, 127, false⟩
def fp16 : FFmt := ⟨5, 10, 15, false⟩
def bfp16 : FFmt := ⟨8, 7, 127, false⟩
def fpE4M3 : FFmt := ⟨4, 3, 7, true⟩
def fpE5M2 : FFmt := ⟨5, 2, 15, false⟩

/-- Bits of a format. -/
def FFmt.width (f : FFmt) : Nat := 1 + f.ebits + f.fbits

/-- The exponent of the least normal value. -/
def FFmt.emin (f : FFmt) : Int := 1 - (f.bias : Int)

/-- The code of the largest finite magnitude (R160). -/
def FFmt.maxFinite (f : FFmt) : Nat :=
  if f.e4m3 then 0x7E else (2 ^ f.ebits - 1) * 2 ^ f.fbits - 1

/-- The code of an infinity's magnitude; for E4M3, which has none, the NaN that stands in its place. -/
def FFmt.infCode (f : FFmt) : Nat := f.maxFinite + 1

/-- The canonical NaN (R160). -/
def FFmt.nanCode (f : FFmt) : Nat :=
  if f.e4m3 then 0x7F else (2 ^ f.ebits - 1) * 2 ^ f.fbits + 2 ^ (f.fbits - 1)

/-- A decoded value: a NaN, an infinity, or a signed magnitude mant * 2^exp. -/
inductive FVal where
  | nan
  | inf (neg : Bool)
  | fin (neg : Bool) (mant : Nat) (exp : Int)
  deriving DecidableEq, Repr

/-- The value of a code of a format (R160). -/
def FFmt.decode (f : FFmt) (x : Nat) : FVal :=
  let neg := bit x (f.ebits + f.fbits)
  let e := bits x f.fbits f.ebits
  let m := x % 2 ^ f.fbits
  let mag := x % 2 ^ (f.ebits + f.fbits)
  if f.e4m3 ∧ mag = 0x7F then .nan
  else if !f.e4m3 ∧ e = 2 ^ f.ebits - 1 then (if m = 0 then .inf neg else .nan)
  else if e = 0 then .fin neg m (f.emin - f.fbits)
  else .fin neg (2 ^ f.fbits + m) ((e : Int) - f.bias - f.fbits)

/-- A code with its sign. -/
def FFmt.signed (f : FFmt) (neg : Bool) (mag : Nat) : Nat :=
  (if neg then 2 ^ (f.ebits + f.fbits) else 0) + mag

/-- The value is a NaN. -/
def FVal.isNaN : FVal → Bool
  | .nan => true
  | _ => false

/-- The value is a zero. -/
def FVal.isZero : FVal → Bool
  | .fin _ m _ => m == 0
  | _ => false

/-- The sign of a value that is no NaN. -/
def FVal.neg : FVal → Bool
  | .nan => false
  | .inf n => n
  | .fin n _ _ => n

/-- The value with its sign inverted. -/
def FVal.negate : FVal → FVal
  | .nan => .nan
  | .inf n => .inf !n
  | .fin n m e => .fin (!n) m e

/-! ### Rounding once (R169) -/

/-- The multiple of 2^q nearest the magnitude mant * 2^exp in a mode, and whether it is inexact.
`sticky` says that the magnitude is greater than that by less than any bit given. -/
def roundAt (mode : RMode) (neg : Bool) (mant : Nat) (exp : Int) (sticky : Bool) (q : Int) : Nat × Bool :=
  let up := (exp - q).toNat
  let down := (q - exp).toNat
  let n := mant * 2 ^ up / 2 ^ down
  let r := mant * 2 ^ up % 2 ^ down
  let inexact := r != 0 || sticky
  let more :=
    match mode with
    | .rne => decide (2 ^ down < 2 * r) || (2 * r == 2 ^ down && (sticky || n % 2 == 1))
    | .rtz => false
    | .rdn => neg && inexact
    | .rup => !neg && inexact
  (if more then n + 1 else n, inexact)

/-- The exponent of the leading bit of a nonzero magnitude. -/
def leadExp (mant : Nat) (exp : Int) : Int := (Nat.log2 mant : Int) + exp

/-- Under this mode an overflow goes to an infinity (R170). -/
def overflowsToInf (mode : RMode) (neg : Bool) : Bool :=
  match mode with
  | .rne => true
  | .rtz => false
  | .rdn => neg
  | .rup => !neg

/-- A nonzero magnitude rounded once into a format: the code and the flags OF, UF, NX (R161, R170,
R171). `sat` is the saturating form of R170. -/
def FFmt.round (f : FFmt) (mode : RMode) (sat : Bool) (neg : Bool) (mant : Nat) (exp : Int) (sticky : Bool) :
    Nat × Flags :=
  if mant = 0 then (f.signed neg 0, 0#8)
  else
    let e := leadExp mant exp
    let ee := if e < f.emin then f.emin else e
    let (n, inexact) := roundAt mode neg mant exp sticky (ee - f.fbits)
    let mag := (ee - f.emin).toNat * 2 ^ f.fbits + n
    if f.maxFinite < mag then
      if sat then (f.signed neg f.maxFinite, fOF ||| fSAT ||| fNX)
      else (f.signed neg (if overflowsToInf mode neg then f.infCode else f.maxFinite), fOF ||| fNX)
    else
      let n' := (roundAt mode neg mant exp sticky (e - f.fbits)).1
      let tiny := decide (e < f.emin) && !(decide (e + 1 = f.emin) && n' == 2 ^ (f.fbits + 1))
      (f.signed neg mag, flagIf inexact fNX ||| flagIf (inexact && tiny) fUF)

/-- A value as the result of an operation that rounds once (R161). -/
def FFmt.result (f : FFmt) (mode : RMode) : FVal → Nat × Flags
  | .nan => (f.nanCode, 0#8)
  | .inf n => (f.signed n f.infCode, 0#8)
  | .fin n m e => f.round mode false n m e false

/-! ### Exact operations (R161) -/

/-- The signed integer mant * 2^(exp - base), for an exponent at or above the base. -/
def scaled (neg : Bool) (mant : Nat) (exp base : Int) : Int :=
  let x := ((mant * 2 ^ (exp - base).toNat : Nat) : Int)
  if neg then -x else x

/-- A signed integer times 2^base; an exact zero takes the given sign. -/
def ofScaled (zeroNeg : Bool) (v base : Int) : FVal :=
  if v = 0 then .fin zeroNeg 0 0 else .fin (decide (v < 0)) v.natAbs base

/-- The sum, exact, with NV for infinities of opposite signs. -/
def addVal (mode : RMode) (x y : FVal) : FVal × Flags :=
  match x, y with
  | .nan, _ | _, .nan => (.nan, 0#8)
  | .inf a, .inf b => if a = b then (.inf a, 0#8) else (.nan, fNV)
  | .inf a, _ => (.inf a, 0#8)
  | _, .inf b => (.inf b, 0#8)
  | .fin a m e, .fin b k g =>
    let base := if e < g then e else g
    let zeroNeg := if m = 0 ∧ k = 0 ∧ a = b then a else decide (mode = .rdn)
    (ofScaled zeroNeg (scaled a m e base + scaled b k g base) base, 0#8)

/-- The product, exact, with NV for 0 times an infinity. -/
def mulVal (x y : FVal) : FVal × Flags :=
  match x, y with
  | .nan, _ | _, .nan => (.nan, 0#8)
  | .inf a, .inf b => (.inf (a != b), 0#8)
  | .inf a, .fin b m _ | .fin b m _, .inf a => if m = 0 then (.nan, fNV) else (.inf (a != b), 0#8)
  | .fin a m e, .fin b k g => (.fin (a != b) (m * k) (e + g), 0#8)

/-! ### FP32 operations on lanes (R185) -/

def f32 (x : Word) : FVal := fp32.decode x.toNat

/-- Round a value into FP32, RNE, with flags already raised. -/
def f32Of (v : FVal × Flags) : Word × Flags :=
  let r := fp32.result .rne v.1
  (BitVec.ofNat 32 r.1, r.2 ||| v.2)

def faddW (a b : Word) : Word × Flags := f32Of (addVal .rne (f32 a) (f32 b))
def fsubW (a b : Word) : Word × Flags := f32Of (addVal .rne (f32 a) (f32 b).negate)
def fmulW (a b : Word) : Word × Flags := f32Of (mulVal (f32 a) (f32 b))

/-- a * b + d, rounded once; a product 0 * infinity raises NV whatever the addend (R161). -/
def fmaW (a b d : Word) : Word × Flags :=
  let p := mulVal (f32 a) (f32 b)
  let s := addVal .rne p.1 (f32 d)
  f32Of (s.1, s.2 ||| p.2)

def qNaN : Word := 0x7FC00000#32

/-- The order of R185: by value, and -0 below +0. No NaN stands here. -/
def fltTotal (a b : Word) : Bool :=
  let sa := bit a.toNat 31
  let sb := bit b.toNat 31
  let ma := a.toNat % 2 ^ 31
  let mb := b.toNat % 2 ^ 31
  match sa, sb with
  | true, false => true
  | false, true => false
  | false, false => decide (ma < mb)
  | true, true => decide (mb < ma)

/-- FMAX: one NaN operand gives the other, two give the canonical NaN (R185). -/
def fmaxW (a b : Word) : Word :=
  match (f32 a).isNaN, (f32 b).isNaN with
  | true, true => qNaN
  | true, false => b
  | false, true => a
  | false, false => if fltTotal a b then b else a

/-- FMIN, with the same rule for NaN (R185). -/
def fminW (a b : Word) : Word :=
  match (f32 a).isNaN, (f32 b).isNaN with
  | true, true => qNaN
  | true, false => b
  | false, true => a
  | false, false => if fltTotal b a then b else a

def fabsW (a : Word) : Word := if (f32 a).isNaN then qNaN else a &&& 0x7FFFFFFF#32
def fnegW (a : Word) : Word := if (f32 a).isNaN then qNaN else a ^^^ 0x80000000#32

/-! ### Special functions, correctly rounded (R186) -/

/-- Round mant * 2^exp, sticky, into FP32. -/
def f32Round (neg : Bool) (mant : Nat) (exp : Int) (sticky : Bool) : Word × Flags :=
  let r := fp32.round .rne false neg mant exp sticky
  (BitVec.ofNat 32 r.1, r.2)

def infW (neg : Bool) : Word := if neg then 0xFF800000#32 else 0x7F800000#32
def zeroW (neg : Bool) : Word := if neg then 0x80000000#32 else 0x00000000#32

def frcpW (a : Word) : Word × Flags :=
  match f32 a with
  | .nan => (qNaN, 0#8)
  | .inf n => (zeroW n, 0#8)
  | .fin n m e =>
    if m = 0 then (infW n, fDZ)
    else f32Round n (2 ^ 64 / m) (-e - 64) (2 ^ 64 % m != 0)

def frsqW (a : Word) : Word × Flags :=
  match f32 a with
  | .nan => (qNaN, 0#8)
  | .inf n => if n then (qNaN, fNV) else (zeroW false, 0#8)
  | .fin n m e =>
    if m = 0 then (infW n, 0#8)
    else if n then (qNaN, fNV)
    else
      let odd := e % 2 != 0
      let m' := if odd then 2 * m else m
      let e' := if odd then e - 1 else e
      let s := isqrt 65 (2 ^ 128 / m')
      f32Round false s (-(e' / 2) - 64) (s * s * m' != 2 ^ 128)

/-- Fraction bits of the fixed-point series below. -/
def seriesBits : Nat := 256

/-- The series z + z^3/3 + z^5/5 + ... of `n` terms, in fixed point: the inverse hyperbolic tangent. -/
def atanhSeries (z2 : Nat) : Nat → Nat → Nat → Nat
  | 0, _, _ => 0
  | n + 1, k, pow => pow / k + atanhSeries z2 n (k + 2) (pow * z2 / 2 ^ seriesBits)

/-- The inverse hyperbolic tangent of num/den, at most 1/3, in fixed point. -/
def atanhFix (num den : Nat) : Nat :=
  let z := num * 2 ^ seriesBits / den
  atanhSeries (z * z / 2 ^ seriesBits) 90 1 z

/-- The natural logarithm of 2 in fixed point. -/
def ln2Fix : Nat := 2 * atanhFix 1 3

/-- The exponential series of a fixed-point argument below 1, from term k on. -/
def expSeries (t : Nat) : Nat → Nat → Nat → Nat
  | 0, _, _ => 0
  | n + 1, k, term => term + expSeries t n (k + 1) (term * t / 2 ^ seriesBits / k)

/-- 2^f for a fixed-point fraction f, in fixed point. -/
def exp2Fix (f : Nat) : Nat := expSeries (f * ln2Fix / 2 ^ seriesBits) 70 1 (2 ^ seriesBits)

/-- 2^a, correctly rounded. At a = 128 and above it overflows; below -160 it is below half of the least subnormal. DESIGN CHOICE
(log 98): an exact subnormal power raises no flag, as R170 and R171 say of exact results. -/
def fexp2W (a : Word) : Word × Flags :=
  match f32 a with
  | .nan => (qNaN, 0#8)
  | .inf n => (if n then zeroW false else infW false, 0#8)
  | .fin n m e =>
    if m = 0 then (0x3F800000#32, 0#8)
    else if leadExp m e ≥ 8 then
      (if n then f32Round false 1 (-400) true else f32Round false 1 400 true)
    else
      let v := scaled n m (e + seriesBits) 0
      let k := v / ((2 ^ seriesBits : Nat) : Int)
      let f := (v % ((2 ^ seriesBits : Nat) : Int)).toNat
      f32Round false (exp2Fix f) (k - seriesBits) (f != 0)

/-- log2 a, correctly rounded; exact for a power of two. -/
def flog2W (a : Word) : Word × Flags :=
  match f32 a with
  | .nan => (qNaN, 0#8)
  | .inf n => if n then (qNaN, fNV) else (infW false, 0#8)
  | .fin n m e =>
    if m = 0 then (infW true, fDZ)
    else if n then (qNaN, fNV)
    else
      let k := leadExp m e
      let p := 2 ^ Nat.log2 m
      if m = p then f32Round (decide (k < 0)) k.natAbs 0 false
      else
        let l := 2 * atanhFix (m - p) (m + p) * 2 ^ seriesBits / ln2Fix
        let v := k * ((2 ^ seriesBits : Nat) : Int) + l
        f32Round (decide (v < 0)) (if v < 0 then v.natAbs - 1 else v.natAbs) (-(seriesBits : Int)) true

/-! ### Compare (R187) -/

/-- The value order of two FP32 lanes that are no NaN; -0 equals +0. -/
def fltW (a b : Word) : Bool :=
  if a.toNat % 2 ^ 31 = 0 ∧ b.toNat % 2 ^ 31 = 0 then false else fltTotal a b

def feqW (a b : Word) : Bool :=
  a == b || (a.toNat % 2 ^ 31 == 0 && b.toNat % 2 ^ 31 == 0)

def fcmpW (c : FCond) (a b : Word) : Bool :=
  let un := (f32 a).isNaN || (f32 b).isNaN
  match c with
  | .eq => !un && feqW a b
  | .ne => un || !feqW a b
  | .lt => !un && fltW a b
  | .le => !un && (fltW a b || feqW a b)
  | .un => un
  | .ord => !un

/-! ### Exact sums of a group (R194) -/

/-- The exact sum of the finite terms at a base exponent of -149, in FP32 units. -/
def sumUnits : List Word → Int
  | [] => 0
  | w :: ws =>
    (match f32 w with
     | .fin n m e => scaled n m e (-149)
     | _ => 0) + sumUnits ws

/-- An FP32 sum: exact, rounded once; any NaN gives NaN, both infinities NaN with NV; an exact zero is
+0 unless every term is -0. -/
def fsumW (ws : List Word) : Word × Flags :=
  let vs := ws.map f32
  if vs.any FVal.isNaN then (qNaN, 0#8)
  else if vs.any (· == .inf false) && vs.any (· == .inf true) then (qNaN, fNV)
  else if vs.any (· == .inf false) then (infW false, 0#8)
  else if vs.any (· == .inf true) then (infW true, 0#8)
  else
    f32Of (ofScaled (!ws.isEmpty && ws.all (· == 0x80000000#32)) (sumUnits ws) (-149), 0#8)

end Sys2Proof.Machine
end

