-- ==== Sys2Proof/Machine/Formats.lean ====
section
/-! DEFINITION. Number formats, conversions, group quantisation and I4X words (R159 to R170, R190 to R193). -/

namespace Sys2Proof.Machine

/-- How a format holds a value. -/
inductive FmtKind where
  | float (f : FFmt)
  | int (w : Nat) (unsigned : Bool)
  | scale
  | other
  deriving DecidableEq, Repr

end Sys2Proof.Machine

namespace Sys2Proof

open Sys2Proof.Machine

/-- The kind of a format (R160, R162, R163). -/
def Fmt.kind : Fmt → FmtKind
  | .f32 => .float fp32
  | .f16 => .float fp16
  | .bf16 => .float bfp16
  | .e4m3 => .float fpE4M3
  | .e5m2 => .float fpE5M2
  | .i32 => .int 32 false
  | .n32 => .int 32 true
  | .i16 => .int 16 false
  | .i8 => .int 8 false
  | .n8 => .int 8 true
  | .i4 => .int 4 false
  | .e8m0 => .scale
  | .i4x | .cs | .raw => .other

/-- Bits of one value of a format (R159). A carry-save token spans 128 bits, a raw payload 512. -/
def Fmt.bits : Fmt → Nat
  | .f32 | .i32 | .n32 => 32
  | .f16 | .bf16 | .i16 => 16
  | .e4m3 | .e5m2 | .i8 | .n8 | .e8m0 => 8
  | .i4 | .i4x => 4
  | .cs => 128
  | .raw => 512

end Sys2Proof

namespace Sys2Proof.Machine

/-! ### Conversions (R170) -/

/-- Float to float. -/
def cvtFF (df : FFmt) (sat : Bool) (mode : RMode) : FVal → Nat × Flags
  | .nan => (df.nanCode, 0#8)
  | .inf n =>
    if sat then (df.signed n df.maxFinite, fSAT)
    else (df.signed n df.infCode, flagIf df.e4m3 fNV)
  | .fin n m e => df.round mode sat n m e false

/-- Float to an integer of w bits: clamped with NV, a NaN gives 0 with NV. DESIGN CHOICE (log 98): a clamped value raises NV alone,
and not NX. -/
def cvtFI (w : Nat) (unsigned : Bool) (mode : RMode) : FVal → Nat × Flags
  | .nan => (0, fNV)
  | .inf n => (wrapInt w (if n then intMin w unsigned else intMax w unsigned), fNV)
  | .fin n m e =>
    let r := roundAt mode n m e false 0
    let v : Int := if n then -(r.1 : Int) else r.1
    if v < intMin w unsigned ∨ intMax w unsigned < v then
      (wrapInt w (clampInt (intMin w unsigned) (intMax w unsigned) v), fNV)
    else (wrapInt w v, flagIf r.2 fNX)

/-- Integer to integer: the low bits, or clamped with SAT. -/
def cvtII (w : Nat) (unsigned : Bool) (sat : Bool) (v : Int) : Nat × Flags :=
  if sat then
    let c := clampInt (intMin w unsigned) (intMax w unsigned) v
    (wrapInt w c, flagIf (c != v) fSAT)
  else (wrapInt w v, 0#8)

/-- Float to E8M0: the floor of log2 of the magnitude. -/
def cvtFE : FVal → Nat × Flags
  | .nan => (0xFF, 0#8)
  | .inf _ => (0xFE, fOF)
  | .fin _ m e =>
    if m = 0 then (0, fUF)
    else
      let l := leadExp m e
      if l < -127 then (0, fUF ||| fNX)
      else if 127 < l then (0xFE, fOF)
      else ((l + 127).toNat, flagIf (m != 2 ^ Nat.log2 m) fNX)

/-- An E8M0 scale as the exponent of a power of two; none for NaN (R163). -/
def scaleExp (e : Nat) : Option Int := if e % 256 = 0xFF then none else some ((e % 256 : Nat) - 127 : Int)

/-- A conversion of one value (R170, R190). -/
def convert (sf df : Fmt) (sat : Bool) (mode : RMode) (x : Nat) : Nat × Flags :=
  match sf.kind, df.kind with
  | .float s, .float d => cvtFF d sat mode (s.decode x)
  | .float s, .int w u => cvtFI w u mode (s.decode x)
  | .float s, .scale => cvtFE (s.decode x)
  | .int w u, .float d =>
    let v := intVal w u x
    d.round mode sat (decide (v < 0)) v.natAbs 0 false
  | .int w u, .int w' u' => cvtII w' u' sat (intVal w u x)
  | .scale, .float d =>
    match scaleExp x with
    | none => (d.nanCode, 0#8)
    | some e => d.round mode sat false 1 e false
  | _, _ => (0, 0#8)

/-! ### I4X (R164, R165) -/

/-- A decoded I4X word: its elements before scaling, whether it is ill-formed, and its consumed markers. -/
structure I4xWord where
  bad : Bool
  elems : List FVal
  markers : Nat
  count : Nat
  deriving DecidableEq, Repr

/-- The decode of R164 from slot j on, with n outliers so far. -/
def i4xFrom (w : Nat) : Nat → Nat → Nat → I4xWord
  | 0, _, n => ⟨false, [], 0, n⟩
  | fuel + 1, j, n =>
    if 8 ≤ j then ⟨false, [], 0, n⟩
    else
      let s := bits w (4 * j) 4
      if s = 8 then
        if 5 < j ∨ n = 2 then ⟨true, [], 0, n⟩
        else
          let v := fpE4M3.decode (bits w (4 * j + 4) 4 * 16 + bits w (4 * j + 8) 4)
          let r := i4xFrom w fuel (j + 3) (n + 1)
          ⟨r.bad, v :: .fin false 0 0 :: .fin false 0 0 :: r.elems, r.markers + 2 ^ j, r.count⟩
      else
        let v := sext 4 s
        let r := i4xFrom w fuel (j + 1) n
        ⟨r.bad, .fin (decide (v < 0)) v.natAbs 0 :: r.elems, r.markers, r.count⟩

/-- An I4X word, decoded (R164). -/
def i4xDecode (w : Nat) : I4xWord := i4xFrom w 8 0 0

/-- Element j of a word; every element of an ill-formed word is NaN (R165). -/
def I4xWord.elem (x : I4xWord) (j : Nat) : FVal := if x.bad then .nan else x.elems.getD j .nan

/-- A value times a scale; a NaN scale makes it NaN, even zero (R166). -/
def scaleVal (scale : Nat) (v : FVal) : FVal :=
  match scaleExp scale, v with
  | none, _ => .nan
  | some s, .fin n m e => .fin n m (e + s)
  | some _, v => v

/-- Element k of a payload in a format that QNT or the Vat reads, before scaling, and whether an
ill-formed word was consulted. -/
def elemVal (f : Fmt) (p : Nat) (k : Nat) : FVal × Bool :=
  match f.kind with
  | .float d => (d.decode (bits p (d.width * k) d.width), false)
  | .int w u =>
    let v := intVal w u (bits p (w * k) w)
    (.fin (decide (v < 0)) v.natAbs 0, false)
  | .scale => (.nan, false)
  | .other =>
    let w := i4xDecode (bits p (32 * (k / 8)) 32)
    (w.elem (k % 8), w.bad)

/-! ### QNT (R191) -/

/-- QMAX of a destination format. -/
def qmax : Fmt → Nat
  | .e4m3 => 448
  | .e5m2 => 57344
  | .i8 => 127
  | .n8 => 255
  | _ => 7

/-- The magnitude order of R191: a non-finite element counts as largest. -/
def magLt : FVal → FVal → Bool
  | .fin _ m e, .fin _ k g =>
    let base := if e < g then e else g
    decide (scaled false m e base < scaled false k g base)
  | .fin _ _ _, _ => true
  | _, _ => false

/-- The greatest magnitude of a list of finite values; zero when there is none. -/
def maxMag : List FVal → FVal
  | [] => .fin false 0 0
  | v :: vs => let r := maxMag vs; if magLt r v then v else r

/-- Remove the element of largest magnitude, the first on a tie. -/
def dropLargest (vs : List FVal) : List FVal :=
  match vs with
  | [] => []
  | v :: rest =>
    if rest.all (fun w => !magLt v w) then rest
    else v :: dropLargest rest

/-- The finite elements that decide a scale: for I4X, two of each word removed. -/
def scaleSet (i4x : Bool) (words : List (List FVal)) : List FVal :=
  ((if i4x then words.map (fun w => dropLargest (dropLargest w)) else words).flatten).filter
    (fun v => match v with | .fin _ _ _ => true | _ => false)

/-- The scale of a group (R191): the least e with m <= qmax * 2^(e - 127), clamped to 0..254. -/
def groupScale (df : Fmt) (set : List FVal) : Nat :=
  match maxMag set with
  | .fin _ m e =>
    if m = 0 then 127
    else
      let t := leadExp m e - (Nat.log2 (qmax df) : Int)
      let base := if e < t then e else t
      let c := if scaled false m e base ≤ scaled false (qmax df) t base then t else t + 1
      (clampInt 0 254 (127 + c)).toNat
  | _ => 127

/-- The elements of a word that QNT writes as I4X, from slot j on: the slots and the flags. -/
def i4xQuantFrom (mode : RMode) (y : List FVal) : Nat → Nat → Nat → Nat × Flags
  | 0, _, _ => (0, 0#8)
  | fuel + 1, j, n =>
    if 8 ≤ j then (0, 0#8)
    else
      let v := y.getD j (.fin false 0 0)
      let r : Nat × Bool :=
        match v with
        | .fin s m e => roundAt mode s m e false 0
        | _ => (8, false)
      if 7 < r.1 ∧ j ≤ 5 ∧ n < 2 then
        let c := cvtFF fpE4M3 true mode v
        let lost := !(y.getD (j + 1) (.fin false 0 0)).isZero || !(y.getD (j + 2) (.fin false 0 0)).isZero
        let rest := i4xQuantFrom mode y fuel (j + 3) (n + 1)
        (8 * 16 ^ j + c.1 / 16 * 16 ^ (j + 1) + c.1 % 16 * 16 ^ (j + 2) + rest.1,
          c.2 ||| flagIf lost fNX ||| rest.2)
      else
        let q : Nat × Flags :=
          match v with
          | .nan => (0, fNV)
          | _ =>
            let s : Int := if v.neg then -(r.1 : Int) else r.1
            (wrapInt 4 (clampInt (-7) 7 s), flagIf (decide (7 < r.1)) fSAT ||| flagIf r.2 fNX)
        let rest := i4xQuantFrom mode y fuel (j + 1) n
        (q.1 * 16 ^ j + rest.1, q.2 ||| rest.2)

/-- One quantised element of a format other than I4X, in the saturating form of R170. -/
def quantOne (df : Fmt) (mode : RMode) (v : FVal) : Nat × Flags :=
  match df.kind with
  | .float d => cvtFF d true mode v
  | .int w u => cvtFI w u mode v
  | _ => (0, 0#8)

/-- The 32 elements of QNT: element k is a[k] below 16 and b[k - 16] above; +0 when it takes no part. -/
def qntElem (a b : Payload) (m : BitVec 16) (k : Nat) : FVal :=
  if bit m.toNat (k % 16) then f32 (if k < 16 then lane a k else lane b (k - 16)) else .fin false 0 0

/-- QNT: the destination, the scale, and the flags (R191). `old` is the scale register. -/
def qntGroup (df : Fmt) (ws : Bool) (mode : RMode) (old : Nat) (a b : Payload) (m : BitVec 16) :
    Payload × Nat × Flags :=
  let parts (w : Nat) : List FVal :=
    ((upTo 8).filter (fun j => bit m.toNat ((8 * w + j) % 16))).map (fun j => qntElem a b m (8 * w + j))
  let e := if ws then groupScale df (scaleSet (df == .i4x) ((upTo 4).map parts)) else old % 256
  let y (k : Nat) : FVal :=
    if bit m.toNat (k % 16) then
      (match scaleExp e, qntElem a b m k with
       | none, _ => .nan
       | some s, .fin n x g => .fin n x (g - s)
       | some _, v => v)
    else .fin false 0 0
  let nsc := flagIf (e == 0xFF && m == 0#16) fNSC
  if df = .i4x then
    let ws := (upTo 4).map (fun w => i4xQuantFrom mode ((upTo 8).map (fun j => y (8 * w + j))) 8 0 0)
    (ofValues 32 4 (fun w => (ws.getD w (0, 0#8)).1), e, ws.foldl (fun f q => f ||| q.2) nsc)
  else
    let qs := (upTo 32).map (fun k => quantOne df mode (y k))
    (ofValues df.bits 32 (fun k => (qs.getD k (0, 0#8)).1), e, qs.foldl (fun f q => f ||| q.2) nsc)

/-! ### DQNT and OUTL (R192, R193) -/

/-- Lane i of a DQNT: source value k, scaled and rounded to FP32. -/
def dqntLane (sf : Fmt) (scale : Nat) (p : Payload) (k : Nat) : Word × Flags :=
  let v := elemVal sf p.toNat k
  let r := f32Of (scaleVal scale v.1, 0#8)
  (r.1, r.2 ||| flagIf v.2 fFMT)

/-- A lane of OUTL. -/
def outlLane (w : Word) : Word × Flags :=
  let x := i4xDecode w.toNat
  (BitVec.ofNat 32 (x.markers + x.count * 2 ^ 8 + (if x.bad then 2 ^ 10 else 0)), flagIf x.bad fFMT)

end Sys2Proof.Machine
end

