-- ==== Sys2Proof/Machine/CarrySave.lean ====
section
/-! DEFINITION. The carry-save token: its merge, its resolution and the firing of a sheet (R172 to R177). -/

namespace Sys2Proof.Machine

/-- The flags of a token, bits 126 to 121 (R175). -/
structure CsFlags where
  nsc : Bool
  rng : Bool
  ninf : Bool
  pinf : Bool
  nan : Bool
  stk : Bool
  deriving DecidableEq, Repr

/-- No flag. -/
def CsFlags.none : CsFlags := ⟨false, false, false, false, false, false⟩

/-- Flags kept from two tokens. -/
def CsFlags.or (a b : CsFlags) : CsFlags :=
  ⟨a.nsc || b.nsc, a.rng || b.rng, a.ninf || b.ninf, a.pinf || b.pinf, a.nan || b.nan, a.stk || b.stk⟩

/-- The flags as bits 5 (NSC) to 0 (STK). -/
def CsFlags.code (f : CsFlags) : Nat :=
  f.nsc.toNat * 32 + f.rng.toNat * 16 + f.ninf.toNat * 8 + f.pinf.toNat * 4 + f.nan.toNat * 2 + f.stk.toNat

/-- The flags in the order of the drain status word: NSC 5, STK 4, RNG 3, NINF 2, PINF 1, NAN 0 (R280). -/
def CsFlags.drainCode (f : CsFlags) : Nat :=
  f.nsc.toNat * 32 + f.stk.toNat * 16 + f.rng.toNat * 8 + f.ninf.toNat * 4 + f.pinf.toNat * 2 + f.nan.toNat

/-- A token read: V, EXP and the flags, and whether its parity holds (R175). -/
structure Cs where
  v : Int
  x : Int
  f : CsFlags
  parOk : Bool
  deriving DecidableEq, Repr

/-- The value of a token (R175). -/
def csDecode (t : BitVec 128) : Cs :=
  let n := t.toNat
  { v := sext 56 (bits n 0 56 + bits n 56 56)
    x := sext 9 (bits n 112 9)
    f := ⟨bit n 126, bit n 125, bit n 124, bit n 123, bit n 122, bit n 121⟩
    parOk := popNat n 128 % 2 == 0 }

/-- A resolved token with its parity (R174, R175). -/
def csEncode (v x : Int) (f : CsFlags) : BitVec 128 :=
  let body := wrapInt 56 v + wrapInt 9 x * 2 ^ 112 + f.code * 2 ^ 121
  BitVec.ofNat 128 (body + (popNat body 127 % 2) * 2 ^ 127)

/-- The zero token (R175). -/
def csZero : BitVec 128 := csEncode 0 (-256) .none

/-- tz of R176: the magnitude shifted down, and whether nonzero bits were lost. -/
def tz (a : Int) (k : Int) : Int × Bool :=
  let d := 2 ^ k.toNat
  let q := a.natAbs / d
  (if a < 0 then -(q : Int) else q, a.natAbs % d != 0)

/-- The halving loop of R176. -/
def csHalve : Nat → Int → Int → Bool → Int × Int × Bool
  | 0, v, x, stk => (v, x, stk)
  | fuel + 1, v, x, stk =>
    if 2 ^ 54 ≤ v.natAbs then
      let r := tz v 1
      csHalve fuel r.1 (x + 1) (stk || r.2)
    else (v, x, stk)

/-- The merge of an accumulated token t with a next token u (R176). -/
def csMergeVal (t u : Cs) : Int × Int × CsFlags :=
  let f := t.f.or u.f
  let x :=
    if t.v = 0 ∧ u.v = 0 then -256
    else if t.v = 0 then u.x
    else if u.v = 0 then t.x
    else if t.x < u.x then u.x else t.x
  let a := if t.v = 0 then (0, false) else tz t.v (x - t.x)
  let b := if u.v = 0 then (0, false) else tz u.v (x - u.x)
  let (v, x, stk) := csHalve 4 (a.1 + b.1) x (a.2 || b.2)
  let f := { f with stk := f.stk || stk }
  if 255 < x then
    (0, -256, { f with pinf := f.pinf || decide (0 < v), ninf := f.ninf || !decide (0 < v), rng := true })
  else (v, x, f)

/-- The merged token, in resolved form. -/
def csMerge (t u : BitVec 128) : BitVec 128 :=
  let r := csMergeVal (csDecode t) (csDecode u)
  csEncode r.1 r.2.1 r.2.2

/-- The token in resolved form: CARRY zero, the same V (R174, R175). -/
def csResolve (t : BitVec 128) : BitVec 128 :=
  let c := csDecode t
  csEncode c.v c.x c.f

/-- Token j of a payload (R159). -/
def csTok (p : Payload) (j : Nat) : BitVec 128 := p.extractLsb' (128 * j) 128

/-- A payload of four tokens. -/
def csPayload (f : Nat → BitVec 128) : Payload := BitVec.ofNat 512 (pack 128 (fun j => (f j).toNat) 4)

/-- Four zero tokens. -/
def csZeros : Payload := csPayload (fun _ => csZero)

/-- The FP32 form of CSNORM (R177). -/
def csToF32 (mode : RMode) (c : Cs) : Word × Flags :=
  let extra := flagIf c.f.rng fOF ||| flagIf c.f.nsc fNSC
  if c.f.nan ∨ (c.f.pinf ∧ c.f.ninf) then (qNaN, fNV ||| extra)
  else if c.f.pinf then (infW false, extra)
  else if c.f.ninf then (infW true, extra)
  else
    let r := fp32.round mode false (decide (c.v < 0)) c.v.natAbs (c.x - 36) false
    (BitVec.ofNat 32 r.1, r.2 ||| flagIf c.f.stk fNX ||| extra)

/-- The INT32 form of CSNORM (R177). -/
def csToI32 (mode : RMode) (c : Cs) : Word × Flags :=
  let extra := flagIf c.f.nsc fNSC
  if c.f.nan ∨ (c.f.pinf ∧ c.f.ninf) then (0#32, fNV ||| extra)
  else if c.f.pinf then (0x7FFFFFFF#32, fNV ||| extra)
  else if c.f.ninf then (0x80000000#32, fNV ||| extra)
  else
    let r := roundAt mode (decide (c.v < 0)) c.v.natAbs (c.x - 36) false 0
    let v : Int := if c.v < 0 then -(r.1 : Int) else r.1
    let k := clampInt (intMin 32 false) (intMax 32 false) v
    (BitVec.ofNat 32 (wrapInt 32 k), flagIf (k != v) fSAT ||| flagIf (r.2 || c.f.stk) fNX ||| extra)

/-! ### The firing of a sheet (R172, R173) -/


/-- The product of two scaled elements, exact (R172). -/
def prodOf (a b : FVal) : FVal := (mulVal a b).1

/-- The flags that the products which never enter v set (R173). -/
def firingFlags (ps : List FVal) : CsFlags :=
  let far (v : FVal) (neg : Bool) : Bool :=
    match v with
    | .fin n m e => m != 0 && n == neg && decide (255 < leadExp m e)
    | _ => false
  { nsc := false
    rng := ps.any (fun v => far v false || far v true)
    ninf := ps.any (fun v => v == .inf true || far v true)
    pinf := ps.any (fun v => v == .inf false || far v false)
    nan := ps.any FVal.isNaN
    stk := false }

/-- ep of a live product, none for one that never enters v (R173). -/
def liveExp : FVal → Option Int
  | .fin _ m e => if m = 0 then none else if 255 < leadExp m e then none else some (leadExp m e)
  | _ => none

/-- The greatest ep, at least -256. -/
def firingExp (ps : List FVal) : Int :=
  ps.foldl (fun x v => match liveExp v with | some e => if x < e then e else x | none => x) (-256)

/-- The aligned, truncated sum of the live products and whether bits were lost. -/
def firingSum (x : Int) (ps : List FVal) : Int × Bool :=
  ps.foldl (fun acc v =>
    match liveExp v, v with
    | some _, .fin n m e =>
      let s := e + 36 - x
      let q := m * 2 ^ s.toNat / 2 ^ (-s).toNat
      let lost := m * 2 ^ s.toNat % 2 ^ (-s).toNat != 0
      (if n then acc.1 - q else acc.1 + q, acc.2 || lost)
    | _, _ => acc) (0, false)

/-- The token of a firing on the float path (R173). -/
def firingFloat (nsc : Bool) (ps : List FVal) : BitVec 128 :=
  let x := firingExp ps
  let s := firingSum x ps
  let f := firingFlags ps
  csEncode s.1 x { f with stk := s.2, nsc := nsc }

/-- The token of a firing on the integer path: X is 36 and the sum is exact (R173). -/
def firingInt (ps : List FVal) : BitVec 128 :=
  csEncode (ps.foldl (fun acc v =>
    match v with
    | .fin n m _ => if n then acc - m else acc + m
    | _ => acc) 0) 36 .none

end Sys2Proof.Machine
end

