-- ==== Sys2Proof/Machine/Maps.lean ====
section
/-! DEFINITION. Sorted lists of keyed values: the one form in which the state holds sparse data. -/

namespace Sys2Proof.Machine

/-- A sparse map: keys strictly rising. -/
abbrev FMap (α : Type) := List (Nat × α)

variable {α : Type}

/-- The value at a key. -/
def FMap.find? : FMap α → Nat → Option α
  | [], _ => none
  | (j, x) :: m, k => if k = j then some x else FMap.find? m k

/-- The value at a key, or a default. -/
def FMap.getD (m : FMap α) (k : Nat) (d : α) : α := (FMap.find? m k).getD d

/-- The map with a value at a key. -/
def FMap.put : FMap α → Nat → α → FMap α
  | [], k, v => [(k, v)]
  | (j, x) :: m, k, v =>
    if k < j then (k, v) :: (j, x) :: m
    else if k = j then (k, v) :: m
    else (j, x) :: FMap.put m k v

/-- The map without a key. -/
def FMap.del : FMap α → Nat → FMap α
  | [], _ => []
  | (j, x) :: m, k => if k = j then FMap.del m k else (j, x) :: FMap.del m k

/-- The map with a value at a key, which is not listed when it equals the default. -/
def FMap.set [DecidableEq α] (m : FMap α) (d : α) (k : Nat) (v : α) : FMap α :=
  if v = d then FMap.del m k else FMap.put m k v

/-- The map with one value changed, when the key is listed. -/
def FMap.modify (m : FMap α) (k : Nat) (f : α → α) : FMap α :=
  match FMap.find? m k with
  | some x => FMap.put m k (f x)
  | none => m

/-- Every value changed. -/
def FMap.mapVal (m : FMap α) (f : Nat → α → α) : FMap α := m.map (fun e => (e.1, f e.1 e.2))

/-- The keys of a map. -/
def FMap.keys (m : FMap α) : List Nat := m.map Prod.fst

/-- Keys strictly rising. -/
def FMap.sorted : FMap α → Bool
  | [] => true
  | [_] => true
  | (j, _) :: (k, y) :: m => decide (j < k) && FMap.sorted ((k, y) :: m)

/-- No listed value equals the default. -/
def FMap.noDefault [DecidableEq α] (d : α) (m : FMap α) : Bool := m.all (fun e => decide (e.2 ≠ d))

end Sys2Proof.Machine
end

