-- ==== Sys2Proof/Machine/State.lean ====
section
/-! DEFINITION. The state of the SQ4 as plain data: every piece of state that INVENTORY.md lists. -/

namespace Sys2Proof.Machine

/-- The one way a step stops. -/
inductive Fault where
  /-- Raised by step when the package has no power (R11: all state but the flash and two counters is
  lost, and nothing runs until a cold start). Safe: the manual gives such a package no step. -/
  | noPower
  deriving DecidableEq, Repr

/-- Why an instruction has no meaning. -/
inductive Refusal where
  /-- Raised by exec for an instruction that is not modelled yet, by its mnemonic. Safe: a claim about a
  next state does not hold of it. -/
  | notModelled (mnemonic : String)
  deriving DecidableEq, Repr

/-! ### Memory (R207, R208) -/

/-- Bytes at 52-bit physical addresses, sorted; an unlisted address reads zero (log entry 3). -/
abbrev Memory := List Host.Cell

/-! ### Tokens (R101) -/

/-- The KIND of a token. -/
inductive TokKind where
  | data | marker | pass | switch | done | control
  deriving DecidableEq, Repr

/-- A token: its header fields and its payload. -/
structure Token where
  kind : TokKind
  err : Bool
  round : BitVec 24
  tag : BitVec 24
  chan : BitVec 8
  data : Payload
  deriving DecidableEq, Repr

/-! ### Traps (R347, R373) -/

/-- The rollback kinds of R345. -/
inductive CauseKind where
  | block | round | async | event
  deriving DecidableEq, Repr

/-- A cause with its record. -/
structure TrapRec where
  cause : BitVec 8
  kind : CauseKind
  blk : BitVec 57
  tag : BitVec 24
  info0 : DWord
  info1 : DWord
  info2 : DWord
  info3 : DWord
  /-- Package time when the cause was ready; 0 until then (R373). -/
  ready : Nat
  deriving DecidableEq, Repr

/-! ### Planes: what an image makes an element and a node do (R36 to R43) -/

/-- A channel table entry (R40). -/
structure Chan where
  kind : Nat
  out : Bool
  fmt : Nat
  scale : Nat
  buf : Nat
  link : Nat
  peer : Nat
  deriving DecidableEq, Repr

/-- A slot of a bundle: the operation and the KLIST position that owns it (R38). -/
structure Slot where
  op : Instr
  ksel : Nat
  deriving DecidableEq, Repr

/-- A wheel entry (R38). -/
structure Bundle where
  a : Option Slot
  b : Option Slot
  c : Option Slot
  /-- The entry's parity fails (R125, R365). -/
  parity : Bool
  deriving DecidableEq, Repr

/-- An element record (R37). -/
structure ElemRec where
  klist : List Nat
  nrb : Nat
  nlb : Nat
  minit : List (BitVec 16)
  chans : FMap Chan
  scales : FMap (BitVec 8)
  wheel : FMap Bundle
  deriving DecidableEq, Repr

/-- A range table entry (R42). -/
structure Range where
  base : Nat
  len : Nat
  perm : Nat
  ver : Bool
  deriving DecidableEq, Repr

/-- A sheet-map entry (R43). -/
structure SheetMap where
  fmt : Fmt
  first : Nat
  count : Nat
  chain : Nat
  xdie : Bool
  outer : Nat
  inner : Nat
  deriving DecidableEq, Repr

/-- What a plane of one bench holds (R36). Elements listed are those with ACT = 1. -/
structure BenchPlane where
  sper : Nat
  ven : Bool
  men : Bool
  ranges : List Range
  sched : List Instr
  /-- Entries of the bench part whose parity fails (R365): schedule words by index, range entries from 64 on, sheet-map
  entries from 128 on and multicast entries from 256 on. -/
  partParity : List Nat
  sheets : FMap SheetMap
  mcast : FMap Nat
  elems : FMap ElemRec
  deriving DecidableEq, Repr

/-! ### Elements (R179, R235) -/

/-- A register with its ERR bit. -/
structure Reg where
  val : Payload
  err : Bool
  deriving DecidableEq, Repr

/-- A lane mask with its ERR bit. -/
structure MaskReg where
  val : BitVec 16
  err : Bool
  deriving DecidableEq, Repr

/-- An iteration context (R179). -/
structure Ctx where
  cround : BitVec 24
  ctag : BitVec 24
  ntag : BitVec 24
  deriving DecidableEq, Repr

/-- A stream generator (R235, R237). `owner` is the KLIST position of the kernel that last used it. -/
structure Gen where
  descr : Payload
  win : Bool
  mode : Nat
  padval : Word
  pos : Nat
  exh : Bool
  owner : Nat
  deriving DecidableEq, Repr

/-- A carry-save accumulator (R235, R252). -/
structure Acc where
  toks : Payload
  emit : Bool
  last : Option (BitVec 24)
  deriving DecidableEq, Repr

/-- A voter (R256). -/
structure Voter where
  forwarded : Nat
  window : List Token
  consumed : List Nat
  counts : List Nat
  noMajority : Nat
  first : Option (BitVec 24 × BitVec 24)
  deriving DecidableEq, Repr

/-- Where a result lands (R181). -/
inductive Dst where
  | reg (n : Nat)
  | mask (n : Nat)
  | scale (n : Nat)
  | chan (n : Nat)
  deriving DecidableEq, Repr

/-- A result in flight (R181). `due` counts unfrozen cycles of the region; `order` is the order of issue. -/
structure Pending where
  due : Nat
  order : Nat
  dst : Dst
  tok : Token
  lanes : BitVec 16
  /-- The position that issued it (R184). -/
  pos : DWord
  deriving DecidableEq, Repr

/-- A record of an error log (R354). For an element: `stream` 0 to 15 is a stream with the 64-byte physical unit, 16
local memory with the 8-byte unit, 17 a token. For a matrix node: `stream` is the logical group, with the 64-byte unit. -/
structure ErrLog where
  round : BitVec 24
  tag : BitVec 24
  stream : Nat
  unit : Nat
  deriving DecidableEq, Repr

/-- A fabric element. -/
structure Element where
  regs : FMap Reg
  masks : FMap MaskReg
  scales : FMap (BitVec 8)
  /-- Scale registers whose parity fails (R364). -/
  scaleBad : List Nat
  aflags : Flags
  roundFlags : FMap Flags
  ctxs : FMap Ctx
  /-- The contexts at the start of each round in flight (R203). -/
  ctxAt : FMap (FMap Ctx)
  gens : FMap Gen
  /-- The generators' positions when their kernel's CROUND became each round (R236). -/
  genAt : FMap (FMap Nat)
  accs : FMap Acc
  local_ : FMap Byte
  /-- 64-bit units of local memory that carry an uncorrectable error (R354), by line of 8 bytes. -/
  localErr : List Nat
  bufs : FMap (List Token)
  pipe : List Pending
  voter : Voter
  sparse : FMap Nat
  logs : List ErrLog
  /-- KLIST positions whose kernel has consumed the pass marker of the running pass (R85). -/
  passed : List Nat
  /-- The current round of each input that has taken a marker since the last switch: the round after it (R294). -/
  inRound : FMap (BitVec 24)
  /-- The current round of the other inputs: the round that began with the last switch. -/
  round0 : BitVec 24
  deriving DecidableEq, Repr

/-! ### Memory port and owner node (R235, R242 to R251) -/

/-- What a request of the memory port does. -/
inductive ReqKind where
  | load (named : Option (BitVec 24))
  | store
  | gather
  | scatter
  | probe (dst : Dst)
  /-- Punctuation that passes MPROBE or MORD, behind what they have still to send (R183, R294). -/
  | pass (dst : Dst) (tok : Token)
  | mord (scope : Scope) (emit : Option Dst)
  deriving DecidableEq, Repr

/-- One access of a request: the bytes [addr, addr + len), the lane it belongs to, its range entry and VER of
that entry when it was issued (R212). -/
structure Access where
  addr : Nat
  len : Nat
  lane : Nat
  range : Nat
  ver : Bool
  deriving DecidableEq, Repr

/-- Where a request stands. -/
inductive ReqState where
  | waiting
  | parked
  | translated
  | performed
  | failed
  deriving DecidableEq, Repr

/-- A request in a port's queue (R243). `pad` is PADVAL when PAD is set. -/
structure Request where
  stream : Nat
  kind : ReqKind
  round : BitVec 24
  tag : BitVec 24
  err : Bool
  len : Nat
  pad : Option Word
  accs : List Access
  lanes : BitVec 16
  bmask : BitVec 64
  data : Payload
  state : ReqState
  due : Nat
  seq : Nat
  /-- The issuing position (R184) and the tag a cause of this request reports. -/
  pos : DWord
  ttag : BitVec 24
  /-- Bad indices met: lane and index (R246). -/
  badIdx : List (Nat × Word)
  deriving DecidableEq, Repr

/-- An update in the owner's reorder window (R250): the input it came by. -/
structure OwnTok where
  input : Nat
  tok : Token
  deriving DecidableEq, Repr

/-- An owner node (R249 to R251). `cfg` is its RMW. -/
structure Owner where
  cfg : Option Instr
  slotK : Nat
  window : List OwnTok
  lastTag : FMap (BitVec 24)
  round : BitVec 24
  undo : FMap (List (Nat × List Byte))
  out : Option Token
  done : List (BitVec 24)
  deriving DecidableEq, Repr

/-- A page that a probe pinned, with the leaf under which it translated (R247). -/
structure Pin where
  page : Nat
  size : Nat
  frame : Nat
  entry : Nat
  deriving DecidableEq, Repr

/-- The memory port of a bench. -/
structure Port where
  reqs : List Request
  nextSeq : Nat
  pins : FMap (List Pin)
  badCount : Nat
  badFirst : Option (BitVec 24 × BitVec 24 × Nat × Word)
  owner : Owner
  deriving DecidableEq, Repr

/-! ### Matrix node and sheets (R264) -/

/-- RBASE, RLIM and RP of a logical group. -/
structure RowPtr where
  base : Nat
  lim : Nat
  rp : Nat
  deriving DecidableEq, Repr

/-- A recorded drain status (R277): the barrier object and the status word, and where its drain stands in firing order. -/
structure DrainRec where
  round : BitVec 24
  fired : Nat
  addr : Nat
  st : Word
  deriving DecidableEq, Repr

/-- A matrix node (R264). -/
structure Node where
  rows : FMap RowPtr
  mbase : Nat
  mlim : Nat
  mrow : Nat
  dbar : FMap Nat
  mround : BitVec 24
  dtag : BitVec 24
  stop : Bool
  /-- A VGO waits for the slot counter to be 0 (R330). -/
  goArmed : Bool
  /-- VQUIESCE set STOP, which reads 1 once the firings in flight have merged (R332). -/
  quiesced : Bool
  vnstat : Word
  slot : Nat
  drains : List DrainRec
  /-- RP and MROW when MROUND became a round, and STOP at its start (R265). -/
  rowsAt : FMap (FMap RowPtr × Nat × Bool)
  /-- Scale buffers of kind 4 outputs, by sheet (R274). -/
  scaleBufs : FMap (List Token)
  /-- ROUND, logical group, row and die bank of errors (R354). -/
  logs : List ErrLog
  deriving DecidableEq, Repr

/-- An effect of a schedule word that waits for its turn on a sheet (R267). Cycles are unfrozen cycles. -/
inductive SheetOp where
  /-- A firing whose latches are sampled at the end of its cycle. -/
  | sample (m : SheetMap) (balt : Bool) (due : Nat)
  | fire (tok : BitVec 128) (fmt err : Bool) (due : Nat)
  | zero (due : Nat)
  /-- `fired` is the drain's place in the firing order of its node: cycle and table index. -/
  | drain (bench sheet pos : Nat) (clr push : Bool) (dbar fired : Nat) (round tag : BitVec 24) (due : Nat)
  /-- VCHAIN at its source: the transfer's number and the target's key. -/
  | send (id target : Nat) (due : Nat)
  /-- VCHAIN at its target, once the source has sent: token and SFLAG. -/
  | recv (id : Nat) (tok : Option (BitVec 128 × Bool × Bool)) (due : Nat)
  | punct (bench sheet : Nat) (tok : Token) (due : Nat)
  | reset (due : Nat)
  /-- ERR of a scale token or of metadata enters SFLAG (R274). -/
  | mark (due : Nat)
  deriving DecidableEq, Repr

/-- A sheet: latches, scales, metadata, accumulator, output buffer and SFLAG (R264). -/
structure Sheet where
  a : FMap Byte
  b : FMap Byte
  aErr : List Nat
  bErr : List Nat
  acc : BitVec 128
  buf : Payload
  /-- Positions of the output buffer whose token carries ERR (R277). -/
  bufErr : List Nat
  sfmt : Bool
  serr : Bool
  ascale : FMap Byte
  bscale : FMap Byte
  meta_ : FMap (BitVec 16)
  queue : List SheetOp
  /-- The cycle of the last firing's merge. -/
  lastMerge : Nat
  deriving DecidableEq, Repr

/-! ### The sequencer (R92 to R96, R118, R136) -/

/-- A register value read or produced in a block; poison follows R96. -/
structure SVal where
  val : DWord
  poison : Bool
  deriving DecidableEq, Repr

/-- The control registers of R118 that an instruction writes, and FPASS. -/
structure Csrs where
  round : BitVec 24
  fpass : BitVec 4
  priv : Bool
  capvec : BitVec 8
  bmapsel : DWord
  handler : BitVec 57
  trapcause : BitVec 8
  trapblk : BitVec 57
  traptag : BitVec 24
  trapinfo : FMap DWord
  deriving DecidableEq, Repr

/-- An exit of the block whose condition holds (R147). -/
structure Exit where
  index : Nat
  target : DWord
  call : Bool
  pos : Nat
  deriving DecidableEq, Repr

/-- What a block does at its commit, in block order (R95, R306). -/
inductive Act where
  /-- Bytes at the physical addresses that the word checked (R154); for STVER those of its slot (R311). -/
  | store (bytes : List (Nat × Byte))
  | stver (bytes : List (Nat × Byte)) (dir : Nat) (round : BitVec 24)
  | reclaim (dir : Nat) (round : BitVec 24)
  | atomic (op : Nat) (dst : GReg) (pa : Nat) (dbl : Bool) (x c : DWord)
  /-- Command, destination, descriptor's address, barrier object, ROUND (R315, R318). -/
  | engine (cmd : Nat) (dst : GReg) (descr : Nat) (barrier : Nat) (round : BitVec 24)
  | squery (dst : GReg) (n : Nat)
  | fload (img : Nat) (ctx : Nat)
  | fswitch
  | fshrink (i : Nat)
  | fgrow
  | fstop
  | frun
  | finj (line : Nat) (x : DWord) (round : BitVec 24)
  | fstat (dst : GReg) (sel : DWord)
  | vgo (sel : Nat)
  | vquiesce (sel : Nat)
  | vmap (sel : Nat) (x : DWord)
  | vstat (dst : GReg) (sel : Nat)
  | rndend (mask : Nat)
  | bararr (addr : Nat) (st : Word)
  | notify (pa : Nat) (x : DWord)
  | svc (k : Nat) (g : GReg) (x : DWord)
  | raise (cause : Nat) (k : Nat) (x : DWord)
  | tret
  | yield
  deriving DecidableEq, Repr

/-- A result written at commit, with its position in the block: the later one stands (R121). -/
structure RegWrite where
  reg : Nat
  val : DWord
  pos : Nat
  deriving DecidableEq, Repr

/-- How far a block has come: what has fired and what that left. -/
structure Progress where
  /-- Positions of the words that have fired. -/
  fired : List Nat
  gw : FMap SVal
  gpos : FMap Nat
  pw : FMap (Bool × Bool)
  csrs : Csrs
  csrPoison : Bool
  exits : List Exit
  failed : Nat
  acts : List (Nat × Act)
  exc : Option (Nat × TrapRec)
  /-- Bits of CAPVEC that words of the block clear (R338). -/
  capClear : BitVec 8
  deriving DecidableEq, Repr

/-- The block in flight (R93 to R96): its words, the position in turn and what has fired. -/
structure Block extends Progress where
  addr : Nat
  words : List Word
  idx : Nat
  /-- Package time and cycle at which a waiting word first had its operands, by position (R308, R310). -/
  waits : FMap (Nat × Nat)
  /-- Versioned slots this block reserved (R311): line address and slot. -/
  slots : List (Nat × Nat)
  /-- Bytes of memory that loads behind an act of the block have read: they stand at the commit too (R287, R289). -/
  seen : List (Nat × Byte)
  /-- The block as it stood before the first of those loads. -/
  mark : Option Progress
  stopAtEntry : Bool
  deriving DecidableEq, Repr

/-- A round checkpoint (R351). -/
structure Checkpoint where
  g : FMap DWord
  p : FMap Bool
  pc : DWord
  round : BitVec 24
  fpass : BitVec 4
  handler : BitVec 57
  stop : Bool
  armed : Bool
  loaded : Option (Nat × Nat)
  deriving DecidableEq, Repr

/-- A line of the block cache (R92). -/
structure CLine where
  addr : Nat
  bytes : List Byte
  /-- Its parity fails (R364). -/
  parity : Bool
  deriving DecidableEq, Repr

/-- What keeps a sequencer from fetching. -/
structure SeqHold where
  /-- SVC #0 (R340), with the checkpoint round at whose voiding it ends. -/
  ended : Bool
  endedIn : BitVec 24
  /-- A trap waits at S, or at M when the flag is set (R350). -/
  atS : Option (TrapRec × Bool)
  /-- The block's PRIV was 0, so the record stands in the trap registers (R350). -/
  atSPriv : Bool
  /-- SVC #1 waits for the launch service: the register and the notify's address (R340). -/
  launch : Option (Nat × Nat)
  /-- Stopped by the debug port (R375, R421). -/
  halted : Bool
  /-- The debug request's number, and 0 for a halt, 1 for a step whose block is still to be fetched, 2 for a step. -/
  haltReq : Option (Nat × Nat)
  /-- Fetches nothing: pre-empted, finished or held at a boundary (R358, R387). -/
  quiet : Bool
  /-- Causes that found the pending-trap queue full and go to S (R348). -/
  spill : List TrapRec
  /-- A cause of kind round is being handled at T, S or M (R349, R353). -/
  roundTrap : Bool
  /-- The record of `atS` has been delivered or parked (R73). -/
  told : Bool
  deriving DecidableEq, Repr

/-- A region sequencer. -/
structure Seq where
  g : FMap DWord
  p : FMap Bool
  pc : DWord
  csrs : Csrs
  block : Option Block
  /-- Sets of lines by bank and set, the least recently used first (R92). -/
  cache : FMap (List CLine)
  filling : Option (Nat × Nat)
  cmdNo : BitVec 16
  outstanding : List Nat
  checkpoints : FMap Checkpoint
  pending : List TrapRec
  deferred : Option (BitVec 24)
  hold : SeqHold
  armed : Bool
  loaded : Option (Nat × Nat)
  yielded : Bool
  /-- FSTAT selector 7: 0 none, 1 pending, 2 done, 3 refused (R327). -/
  request : Nat
  /-- Page table entries that S has changed, by address, as the sequencer still translates through them (R154). -/
  stale : FMap Nat
  /-- An invalidation waits for the block in flight to end (R154, R211). -/
  flushing : Bool
  /-- Tokens on their way to a control line: the cycle from which each may enter it (R108, R328). -/
  ctlq : FMap (List (Nat × Token))
  deriving DecidableEq, Repr

/-! ### Benches and regions -/

/-- The state of a shadow plane (R55, R327): 0 none, 1 filling, 2 valid, 3 invalid. -/
structure Shadow where
  state : Nat
  ctx : Nat
  img : Nat
  doneAt : Nat
  plane : BenchPlane
  /-- Fills that wait for the one in progress: image and context (R53). -/
  queue : List (Nat × Nat)
  deriving DecidableEq, Repr

/-- A bench of a region. -/
structure Bench where
  elems : FMap Element
  port : Port
  node : Node
  plane : BenchPlane
  shadow : Shadow
  deriving DecidableEq, Repr

/-- The freeze record of a region (R104). -/
structure Freeze where
  frozen : Bool
  src : Nat
  bench : Nat
  elem : Nat
  phase : Nat
  cycles : Nat
  deriving DecidableEq, Repr

/-- An effect of a slot of a bundle, applied when every bundle of the cycle has been read (R99). -/
inductive Eff where
  | consume (ch : Nat)
  | result (lat : Nat) (dst : Dst) (tok : Token) (lanes : BitVec 16)
  | ctxRT (k : Nat) (round tag : BitVec 24)
  | ctxTag (k : Nat) (ntag : BitVec 24)
  | marker (k : Nat) (n : BitVec 24)
  | passEnd (k : Nat)
  | flags (round : BitVec 24) (f : Flags)
  | gen (g : Nat) (x : Gen)
  | acc (k : Nat) (x : Acc)
  | localWrite (bytes : List (Nat × Byte))
  | request (r : Request)
  | elog (round tag : BitVec 24) (stream unit : Nat)
  | report (exit : Nat) (t : Token)
  | sink (round tag : BitVec 24)
  | voter (v : Voter) (copies : List Nat) (noMaj : Bool)
  | sparse (ch : Nat) (pos : Nat)
  | owner (i : Instr) (k : Nat)
  | raise (t : TrapRec)
  deriving DecidableEq, Repr

/-- The effects of one slot of an element's bundle. -/
structure Issue where
  bench : Nat
  elem : Nat
  slot : Nat
  effs : List Eff
  deriving DecidableEq, Repr

/-- A report that reached a region's couch unit (R382, R355). -/
structure ExitRep where
  exit : Nat
  kernel : Nat
  kind : TokKind
  round : BitVec 24
  tag : BitVec 24
  err : Bool
  deriving DecidableEq, Repr

/-- A region's fabric: counters, freeze, effects of the cycle. -/
structure Fabric where
  phase : Nat
  /-- Unfrozen cycles since the region began. -/
  ucycle : Nat
  freeze : Freeze
  stop : Bool
  stopSince : Nat
  /-- The freeze budget count and the round it counts for (R216). -/
  budget : Nat
  budgetRound : BitVec 24
  /-- Source 4 held in the cycle last counted. -/
  budgetParked : Bool
  issues : List Issue
  /-- Tokens on control lines: line, cycle from which they are readable, token (R108). -/
  lines : List (Nat × Nat × Token)
  /-- Group reads of a cycle: cycle, die bank group, requester (R281). -/
  reads : List (Nat × Nat × DWord)
  /-- VCHAIN transfers of this cycle: number and target (R278). -/
  recvs : List (Nat × Nat)
  /-- Storage units that memory ports and elements access in a cycle: cycle, die and key of the bank map (R232, R268). -/
  uses : List (Nat × Nat × Nat)
  deriving DecidableEq, Repr

/-- A kernel of a region (R20, R386). -/
structure Kernel where
  node : Nat
  iters : Nat
  itersDone : Nat
  /-- Tags issued in each round in flight (R385). -/
  issued : FMap Nat
  finished : Bool
  deriving DecidableEq, Repr

/-- Where a region stands between launch and release. -/
inductive Life where
  | filling | starting | running | preempted | waiting | finished | released | failed
  deriving DecidableEq, Repr

/-- A switch in progress (R54): the round it ends and the cycle of cycle 0, or a pass switch (R86). -/
structure Switching where
  round : BitVec 24
  start : Option Nat
  pass : Bool
  done : Bool
  deriving DecidableEq, Repr

/-- A region's placement (R74 to R78). -/
structure Placement where
  die : Nat
  row : Nat
  col : Nat
  rows : Nat
  cols : Nat
  segs : List Nat
  groups : FMap Nat
  /-- Entries of channel queue memory that it holds (R107). -/
  qmem : Nat
  /-- The current image (R74, R84). -/
  img : Nat
  /-- Image and context in the active planes: after a switch to an FLOAD context, not the current image's (R322). -/
  act : Nat
  ctx : Nat
  /-- II and the region type of the active context, RSIZE, and FOLD of the current image (R33 to R35, R54). -/
  ii : Nat
  rsize : Nat
  fold : Nat
  rtype : Nat
  deriving DecidableEq, Repr

/-- A region. -/
structure Region where
  job : Nat
  graph : Nat
  node : Nat
  place : Placement
  life : Life
  lastRnd : BitVec 24
  seq : Seq
  benches : FMap Bench
  sheets : FMap Sheet
  fab : Fabric
  kernels : FMap Kernel
  reps : List ExitRep
  switching : Option Switching
  /-- Rounds of the round ends of a folded region whose switch has not begun (R85). -/
  owed : List (BitVec 24)
  /-- Refill of a folded region after a void: 1 context 0, 2 context 1 (R352); 3 a resume (R361). -/
  refill : Nat
  /-- A context image saved by a pre-emption is being swapped until this cycle (R360). -/
  swapUntil : Nat
  /-- The round after whose marker the region holds for a pre-emption, shrink or grow (R87, R358). -/
  preq : Option Nat
  /-- The cycle in which Derrick asked for the region's pre-emption (R358). -/
  wantOff : Option Nat
  /-- It runs a smaller candidate than its primary one since a shrink (R88). -/
  shrunk : Bool
  /-- The scrubber met a failed entry of an active plane: it is refilled at the next round boundary (R365). -/
  scrubbed : Bool
  /-- Its saved record met an uncorrectable error (R361). -/
  lost : Bool
  /-- The program's pending request to shrink or grow: candidate, and the cycle of the request (R324). -/
  shreq : Option (Nat × Nat)
  /-- A shrink or grow under way: candidate, and the cycle of its request (R87, R88). -/
  shape : Option (Nat × Nat)
  /-- STATE 2 of its stay on these benches has been written (R77, R361). -/
  recorded : Bool
  npre : Nat
  nrela : Nat
  /-- Package time since which the region waits for benches (R31, R91). -/
  since : Nat
  /-- When the region was made resident, counted in placements (R91). -/
  order : Nat
  /-- Directory entries of the version slots this region wrote in rounds in flight (R220). -/
  vers : List (Nat × BitVec 24)
  deriving DecidableEq, Repr

/-! ### Graphs, jobs -/

/-- An elastic channel (R45, R106, R107). -/
structure Elastic where
  /-- Producer: region, bench, element, channel. -/
  src : Nat × Nat × Nat × Nat
  dst : Nat × Nat × Nat × Nat
  depth : Nat
  credits : Nat
  lat : Nat
  /-- Tokens in flight and the cycle each lands in. -/
  flight : List (Nat × Token)
  /-- Tokens in queue memory, in channel order. -/
  qmem : List Token
  /-- Cycles from which returned credits are spendable. -/
  back : List Nat
  deriving DecidableEq, Repr

/-- A cause raised in the present cycle by a region of the graph (R347). -/
structure Raised where
  region : Nat
  rec_ : TrapRec
  deriving DecidableEq, Repr

/-- A graph: its rounds, its hold and its channels. -/
structure Graph where
  job : Nat
  node : Nat
  regions : List Nat
  /-- Next round to commit. -/
  next : BitVec 24
  held : Bool
  /-- The round that the last void discarded: an earlier one may commit while the graph is held (R352). -/
  heldFrom : BitVec 24
  /-- Waiting for the pre-emption boundary (R358). -/
  boundary : Option (BitVec 24)
  raised : List Raised
  voidReq : Option (BitVec 24)
  repaired : FMap (List (BitVec 24))
  reinject : List (BitVec 24)
  chans : FMap Elastic
  /-- Die bank groups bound, by die and logical group (R75). -/
  bound : FMap Nat
  refillUntil : Nat
  /-- 4 or 5 once the graph's record has a final state (R30, R83), and the cause of a failed one. -/
  final : Nat
  cause : Nat
  /-- No candidate fits a region of the graph: it ends once this region has handled the cause (R83). -/
  failBy : Option Nat
  deriving DecidableEq, Repr

/-- The effective values of a node (R23). -/
structure NodeEff where
  benches : Nat
  segs : Nat
  mem : Nat
  share : Nat
  prio : Nat
  fdom : Nat
  policy : Nat
  handler : Nat
  rwait : Nat
  freeze : Nat
  deriving DecidableEq, Repr

/-- A node of a job's tree as copied at launch (R20, R25). -/
structure TNode where
  level : Nat
  parent : Nat
  kids : List Nat
  words : List DWord
  eff : NodeEff
  /-- Alternatives: image, ROWS, COLS and fold factor (R22). -/
  alts : List (Nat × Nat × Nat × Nat)
  deriving DecidableEq, Repr

/-- The supervisor copy of an image (R32): its bytes by offset, zero where unlisted. -/
structure Image where
  addr : Nat
  len : Nat
  /-- LENGTH bytes lay in the job's mapped memory (R49, check 1). -/
  mapped : Bool
  copy : FMap Byte
  /-- Offsets of 64-byte units of the copy with an uncorrectable error (R55). -/
  bad : List Nat
  /-- The region nodes as whose candidate it has passed checks 1 to 14 (R49). -/
  checked : List Nat
  deriving DecidableEq, Repr

/-- A gang member: what a job or graph node knows of its gang (R27, R28, R363). -/
structure Seat where
  /-- The members reported as placed, by GINDEX, and whether this one has been. -/
  placed : List Nat
  up : Bool
  /-- The latest coupled round whose marker each member has reached. -/
  round : FMap (BitVec 24)
  deadline : Option Nat
  /-- Members whose COUPLE is clear, by GINDEX (R28). -/
  free : List Nat
  /-- A member that was lost, and the package time at which its relaunch is overdue (R363). -/
  lost : Option (Nat × Nat)
  /-- The package time by which a restart of the gang has to be complete (R363). -/
  restart : Option Nat
  /-- The gang has been told that this member failed. -/
  told : Bool
  deriving DecidableEq, Repr

/-- The state of a launch (R30, R65). -/
structure Job where
  lid : Word
  queue : Nat
  state : Nat
  cause : BitVec 8
  info : FMap DWord
  rcb : Nat
  origChip : BitVec 22
  deps : List (Word × Bool)
  order : Nat
  since : Nat
  /-- The translation root of its address space (R209). -/
  root : Nat
  deleg : FMap Nat
  tree : FMap TNode
  images : FMap Image
  /-- Its gang members, by the address of the job or graph node. -/
  gangs : FMap Seat
  /-- An invalidation of its translations is under way: region, bench and how many requests its port had numbered (R211). -/
  inval : Option (List (Nat × Nat × Nat))
  /-- A placement found the grant table of this die full and waits for an entry (R77). -/
  grantWait : Option Nat
  deriving DecidableEq, Repr

/-! ### Dies -/

/-- A parked access (R214). -/
structure Parked where
  region : Nat
  bench : Nat
  stream : Nat
  /-- The number of its request, and the position that issued it (R215, R234). -/
  seq : Nat
  pos : DWord
  va : Nat
  kind : Nat
  range : Nat
  reason : Nat
  round : BitVec 24
  probe : Bool
  retryAt : Nat
  step : Nat
  passed : Bool
  since : Nat
  deriving DecidableEq, Repr

/-- A grant table entry (R47, R226). -/
structure Grant where
  any : Bool
  src : BitVec 22
  target : PhysTarget
  w : Bool
  rd : Bool
  off : Nat
  len : Nat
  flag : Nat
  job : Nat
  region : Nat
  deriving DecidableEq, Repr

/-- A bank map entry (R230): STATE, PHYS, NEWPHYS, CURSOR, CECNT. -/
structure BankEntry where
  state : Nat
  phys : Nat
  newPhys : Nat
  cursor : Nat
  cecnt : Nat
  /-- The line under copy is locked until this cycle; 0 when none is. -/
  lockEnd : Nat
  /-- The old bank, which still takes every write, and the regions with a round boundary to pass: region and round. -/
  old : Option (Nat × List (Nat × BitVec 24))
  deriving DecidableEq, Repr

/-- An engine command in a die's queue (R315). -/
structure EngCmd where
  region : Nat
  job : Nat
  num : Nat
  cmd : Nat
  descrAddr : Nat
  descr : List DWord
  barrier : Nat
  round : BitVec 24
  started : Bool
  due : Nat
  voided : Bool
  /-- The end decided: status word, cause, failing address. -/
  result : Option (Word × Nat × Nat)
  /-- An SPEER or SCOLL has sent what it sends. -/
  sent : Bool
  /-- The answer to an SPEER (R227). -/
  reply : Option PeerReply
  /-- Messages of the other ranks of an SCOLL (R320). -/
  msgs : List CollMsg
  /-- The page for which it waits, once S has been told (R318). -/
  waitVa : Option Nat
  versioned : Bool
  deriving DecidableEq, Repr

/-- A compute die. -/
structure Die where
  parked : FMap Parked
  parkWait : List Parked
  ceil : Nat
  grants : FMap Grant
  grantDenied : Nat
  /-- Transfers accepted that wait for a line, with the grant that each passed (R228). -/
  accepted : List (PeerXfer × Grant)
  /-- Parked traps and events: region and record (R73, R373, R374). -/
  trapq : List (Nat × List DWord)
  lostEvents : Nat
  qfree : Nat
  banks : FMap BankEntry
  /-- Units under evacuation, in the order of their retirement (R231). -/
  evacs : List Nat
  vatSpares : Nat
  localSpares : FMap Nat
  retiredBenches : List Nat
  retiredSegs : List Nat
  lanesLost : FMap Nat
  laneRemaps : List (Nat × Nat)
  regBanksLost : FMap Nat
  localBanksLost : FMap Nat
  cacheBanksLost : FMap (List Nat)
  channelsLost : List Nat
  cethr : FMap Nat
  cewin : FMap Nat
  ctxStore : List (Nat × Nat)
  engines : FMap EngCmd
  nextEng : Nat
  deriving DecidableEq, Repr

/-- A die at a cold start: CEILSTEP 10 (R215), thresholds and windows as log entry 4 names them, every
queue-memory entry free (R107). -/
def Die.init : Die :=
  { parked := [], parkWait := [], ceil := 10, grants := [], grantDenied := 0, accepted := [], trapq := [], lostEvents := 0,
    qfree := 65536, banks := [], evacs := [], vatSpares := 0, localSpares := [], retiredBenches := [], retiredSegs := [],
    lanesLost := [], laneRemaps := [], regBanksLost := [], localBanksLost := [], cacheBanksLost := [],
    channelsLost := [], cethr := [], cewin := [], ctxStore := [], engines := [], nextEng := 0 }

/-! ### Derrick, S and the package -/

/-- A Derrick complex (R56, R71). -/
structure Complex where
  pairs : List Bool
  inService : Bool
  deriving DecidableEq, Repr

/-- A work queue (R59): its descriptor fields as doublewords and its key. -/
structure WQueue where
  words : List DWord
  key : Option (BitVec 256)
  root : Nat
  /-- Final outcomes retained, the oldest first: LID, state, cause and TRAPINFO (R65). -/
  outcomes : List (Word × Nat × BitVec 8 × List DWord)
  deriving DecidableEq, Repr

/-- A step of the device that is no instruction word, as the state queues it: the constructors of Instr with the
same names. (A second type, because the compiler gives a constructor with fields only the first 245 tags.) -/
inductive Event where
  | blockCommit (r : Nat)
  | blockCacheLineFill (r : Nat) (addr : Nat)
  | ownerUpdate (r b : Nat)
  | resultWriteback (r b e : Nat)
  | firingMerge (r b s : Nat)
  | drainTokenLanding (r b s : Nat)
  | elasticTokenArrival (g c : Nat)
  | creditReturn (g c : Nat)
  | queueMemoryTransfer (g c : Nat)
  | controlTokenArrival (r line : Nat)
  | memoryReply (r b s : Nat)
  | pageWalk (r b s : Nat)
  | parkedAccessAdmit (die : Nat)
  | parkedRetry (die idx : Nat)
  | freezeBudgetExpiry (r : Nat)
  | replayStart (g : Nat)
  | roundCommit (g : Nat)
  | regionRelease (r : Nat)
  | barrierArrival (job addr r : Nat) (status : Word)
  | switch (r : Nat)
  | passSwitch (r : Nat)
  | fillComplete (r : Nat)
  | trapEntry (r : Nat)
  | trapAtS (r : Nat)
  | trapResume (r : Nat)
  | trapForward (r : Nat)
  | trapEnd (r : Nat)
  | trapRelaunch (r : Nat)
  | waitTimeout (r : Nat)
  | ldverVersionWaitExpiry (r : Nat)
  | notifyArrival (n : NotifyMsg)
  | launchPacket (q : Nat)
  | cancelPacket (q : Nat)
  | queryPacket (q : Nat)
  | reportMessageReceived (m : ReportMsg)
  | residencyReport
  | placement (job : Nat)
  | gangStart (job : Nat)
  | gangLaunchTimeout (job : Nat)
  | priorityAging (job : Nat)
  | shareWindowExpiry (job : Nat)
  | preemption (r : Nat)
  | preemptionRwaitExpiry (r : Nat)
  | contextSwap (r : Nat)
  | resume (r : Nat)
  | relaunch (r : Nat)
  | capacityReduction (die cls : Nat)
  | shrink (r : Nat)
  | grow (r : Nat)
  | gangMemberFailure (job : Nat)
  | gangRelaunchTimeout (job : Nat)
  | heartbeat
  | missedHeartbeat
  | takeover
  | lockstepMismatch (die pair : Nat)
  | standbyReturn (die : Nat)
  | keyInstallation (q : Nat) (key : BitVec 256) (lastSeq : BitVec 48)
  | translationInvalidation (job : Nat)
  | delegationChange (job : Nat) (code : BitVec 8) (level : Fin 4)
  | supervisorStateWrite (w : SupWrite)
  | retirementCommand (die : Nat) (u : HwUnit)
  | ceWindowStart (die : Nat)
  | correctableError (die : Nat) (u : HwUnit)
  | uncorrectableError (site : ErrSite)
  | evacuationLineCopy (die : Nat) (u : HwUnit)
  | evacuationComplete (die : Nat) (u : HwUnit)
  | oldBankRetirement (die : Nat) (u : HwUnit)
  | laneRemap (die segment : Nat)
  | scrub
  | linkFailure (die link : Nat)
  | migrationExamination (die : Nat)
  | migration (job va frame : Nat)
  | peerTransferArrival (x : PeerXfer)
  | flagAdd (job addr : Nat)
  | engineCommandStart (die idx : Nat)
  | engineCommandComplete (die idx : Nat) (reply : Option PeerReply)
  | coldStart
  | powerLoss
  | readResidency
  | readCapacity
  | readPower
  | attest (nonce : BitVec 256)
  | installKey (q : Nat) (key : BitVec 256) (lastSeq : BitVec 48)
  | coldReset
  | writeChipNumber (n : BitVec 22)
  | debugUnlock (token : Nat)
  | debugHalt (r : Nat)
  | debugStep (r : Nat)
  | debugReadRegisters (r : Nat)
  | debugResume (r : Nat)
  | powerSample (microwatts : Nat) (temps : List Nat)
  | shrinkRwaitExpiry (r : Nat)
  | memoryRequestPerformed (r b s : Nat)
  | collectiveMessageArrival (m : CollMsg)
  | gangMemberReportArrival (job : Nat) (gindex : Nat) (m : GangReport)
  deriving DecidableEq, Repr

/-- A message sent over a link or a management reply: the model's observable output. -/
inductive OutMsg where
  | report (chip : BitVec 22) (q : Nat) (link : Bool) (dw0 : DWord) (body : BitVec 512) (tag : BitVec 128)
  | localReport (q : Nat) (body : BitVec 512)
  | peer (chip : Nat) (die : Nat) (x : PeerXfer)
  | collective (chip : Nat) (m : CollMsg)
  | gang (job node : Nat) (m : GangReport)
  | supRecord (words : List DWord)
  /-- A management command's answer (R420): busy, or its words. -/
  | mgmtBusy (code : Nat)
  | mgmt (code : Nat) (words : List DWord)
  /-- An attestation report (R417, R418): whether it is signed, then its parts. -/
  | attestation (signed : Bool) (chip : BitVec 22) (index : Nat) (nonce : BitVec 256) (measures : List Byte) (caps : List Nat)
      (unlocks : Nat) (signature : List Byte)
  | debug (words : List DWord)
  | peerReply (sender : Nat) (r : PeerReply)
  deriving DecidableEq, Repr

/-- An act of the active complex that its journal holds (R72). -/
inductive DerrickAct where
  | notify (q seq : Nat)
  | head (q : Nat)
  | state (job node st : Nat)
  | report (m : OutMsg)
  | placement (job : Nat)
  | trap (r : Nat)
  deriving DecidableEq, Repr

/-- What Derrick and S hold for the package (R58). -/
structure Sup where
  complexes : FMap Complex
  activeDie : Option Nat
  lastBeat : Nat
  takeoverAt : Option Nat
  failover : Bool
  queues : FMap WQueue
  unroutable : Nat
  schedQ : Option Nat
  resDirty : Bool
  /-- Package time and cycle of the last residency report (R70). -/
  resLast : Nat
  resCycle : Nat
  /-- A capacity reading has fallen, and the resident regions are still to be tested (R81). -/
  retest : Bool
  journal : List DerrickAct
  order : Nat
  migrations : List (Nat × Nat × Nat × Nat)
  outbox : List OutMsg
  unlocked : Bool
  /-- The cycle from which Derrick looks again at what waits for it (R31, R66). -/
  look : Nat
  deriving DecidableEq, Repr

/-- Non-volatile memory (R415 to R417, R421). -/
structure Nvm where
  slotA : Bool
  slotB : Bool
  retired : List (Nat × HwUnit)
  /-- The chip number read at the last cold start; none when the record held no valid one. -/
  chip : BitVec 22
  chipOk : Bool
  /-- The first doubleword of the package record. -/
  record : DWord
  xmss : Nat
  unlocks : Nat
  coldStarts : Nat
  deriving DecidableEq, Repr

/-- The power control (R419). -/
structure Power where
  /-- Package time and microwatts of the samples of the last millisecond. -/
  samples : List (Nat × Nat)
  lowSince : Option Nat
  temps : List Nat
  deriving DecidableEq, Repr

/-- Which agent the next element operation, schedule word or sequencer word belongs to. -/
structure Focus where
  region : Nat
  bench : Nat
  elem : Nat
  slot : Nat
  ksel : Nat
  phase : Nat
  deriving DecidableEq, Repr

/-- One job of the present cycle (log entry 1). -/
inductive Work where
  | seq (r : Nat)
  /-- The word at a position of a region's block, unless so many of the block's words have fired (R94). -/
  | word (r k limit : Nat)
  | fabric (r : Nat)
  | slot (f : Focus) (i : Instr)
  | apply (r : Nat)
  | sheets (r : Nat)
  | ev (e : Event)
  | graphEnd (g : Nat)
  deriving DecidableEq, Repr

/-- The machine. -/
structure State where
  powered : Bool
  cycle : Nat
  /-- Package time in units of 1/130,900 microseconds (R5, R29). -/
  time : Nat
  clk : Nat
  tier : Nat
  cxl : List Nat
  mem : Memory
  /-- 64-byte units of physical memory with an uncorrectable mark (R354). -/
  uerr : List Nat
  /-- Atomic counters (R223): 5 x (2 MiB unit) + issuing die, 4 for an I/O die. -/
  atomics : FMap Nat
  dies : FMap Die
  regions : FMap Region
  graphs : FMap Graph
  jobs : FMap Job
  sup : Sup
  nvm : Nvm
  power : Power
  work : List Work
  focus : Focus
  /-- What the outside and S software do, each with the cycle it lands in (log entry 2). -/
  inputs : List (Nat × Event)
  /-- Events of the device due at a later cycle. -/
  timers : List (Nat × Event)
  /-- Arrivals and flag adds that wait for their page (R228, R305). -/
  stalled : List Event
  /-- Messages of collectives that a die holds for commands yet to take them: die, how many, message (R320). -/
  colls : List (Nat × Nat × CollMsg)
  tickets : Nat
  nextId : Nat
  deriving DecidableEq, Repr

/-- A complex with its four pairs in step (R56). -/
def Complex.init : Complex := ⟨[true, true, true, true], true⟩

/-- Derrick and S at a cold start: the complex of I/O die 0 is active (R71), and nothing is launched. -/
def Sup.init : Sup :=
  { complexes := [(0, .init), (1, .init)], activeDie := some 0, lastBeat := 0, takeoverAt := none,
    failover := false, queues := [], unroutable := 0, schedQ := none, resDirty := false, resLast := 0, resCycle := 0, retest := false,
    journal := [], order := 0, migrations := [], outbox := [], unlocked := false, look := 0 }

/-- Non-volatile memory as log entry 5 names it. -/
def Nvm.init : Nvm := ⟨true, true, [], 0#22, true, 0#64, 0, 0, 0⟩

/-- No agent. -/
def Focus.none : Focus := ⟨0, 0, 0, 0, 0, 0⟩

/-- The package right after a cold start (R415): powered, nothing launched, memory with nothing listed. The
values that no rule gives are those of log entries 3, 4 and 5. -/
def State.reset : State :=
  { powered := true, cycle := 0, time := 0, clk := 0, tier := 0, cxl := [], mem := [], uerr := [], atomics := [],
    dies := [(0, .init), (1, .init), (2, .init), (3, .init)], regions := [], graphs := [], jobs := [],
    sup := .init, nvm := .init, power := ⟨[], none, []⟩, work := [], focus := .none, inputs := [], timers := [],
    stalled := [], colls := [], tickets := 0, nextId := 0 }

end Sys2Proof.Machine
end

