-- ==== Sys2Proof/Machine/Ops.lean ====
section
/-! DEFINITION. The named operations over memory, registers and the records of the state. -/

namespace Sys2Proof.Machine

/-! ### Memory (R207, R208, log entry 3) -/

/-- What an unlisted address reads as. -/
def memDefault : Byte := 0#8

/-- The byte at a physical address. -/
def Memory.read (m : Memory) (a : Nat) : Byte := FMap.getD (α := Byte) m a memDefault

/-- The memory with one byte stored, in canonical form. -/
def Memory.write (m : Memory) (a : Nat) (v : Byte) : Memory := FMap.set (α := Byte) m memDefault a v

/-- The canonical form: addresses strictly rising, no entry equal to an unlisted byte. -/
def Memory.wf (m : Memory) : Bool := FMap.sorted (α := Byte) m && FMap.noDefault memDefault m

/-- `n` bytes from an address upward. -/
def Memory.readBytes (m : Memory) (a : Nat) : Nat → List Byte
  | 0 => []
  | n + 1 => m.read a :: Memory.readBytes m (a + 1) n

/-- The memory with a list of bytes stored from an address upward. -/
def Memory.writeBytes (m : Memory) (a : Nat) : List Byte → Memory
  | [] => m
  | b :: bs => Memory.writeBytes (m.write a b) (a + 1) bs

/-- The little-endian number in `n` bytes (R3). -/
def Memory.readNat (m : Memory) (a n : Nat) : Nat := leNat (m.readBytes a n)

/-! ### Numbers of rounds and tags (R7) -/

/-- a precedes b modulo 2^24. -/
def precedes (a b : BitVec 24) : Bool :=
  let d := (b - a).toNat
  decide (1 ≤ d ∧ d < 2 ^ 23)

/-- Not ordered either way. -/
def unordered (a b : BitVec 24) : Bool := (b - a).toNat == 2 ^ 23

/-- a precedes b or equals it. -/
def atOrBefore (a b : BitVec 24) : Bool := a == b || precedes a b

/-- The earliest of a list of tags, or a default. -/
def earliest (d : BitVec 24) : List (BitVec 24) → BitVec 24
  | [] => d
  | t :: ts => ts.foldl (fun e x => if precedes x e then x else e) t

/-! ### Tokens (R101) -/

/-- The code of a KIND. -/
def TokKind.code : TokKind → Nat
  | .data => 0
  | .marker => 1
  | .pass => 2
  | .switch => 3
  | .done => 4
  | .control => 5

/-- Data or control: read as data by every operation (R183). -/
def TokKind.isData : TokKind → Bool
  | .data | .control => true
  | _ => false

/-- The 64-bit header of a token. -/
def Token.header (t : Token) : DWord :=
  BitVec.ofNat 64 (t.kind.code * 2 ^ 60 + t.err.toNat * 2 ^ 59 + t.round.toNat * 2 ^ 32 + t.tag.toNat * 2 ^ 8
    + t.chan.toNat)

/-- A data token with no ERR. -/
def Token.mkData (round tag : BitVec 24) (data : Payload) : Token := ⟨.data, false, round, tag, 0#8, data⟩

/-- Two tokens are the same punctuation: one KIND, ROUND and TAG (R183). -/
def Token.samePunct (a b : Token) : Bool := a.kind == b.kind && a.round == b.round && a.tag == b.tag

/-- A pass marker never leaves its region: what leaves behind the data of the pass is the marker of its round (R85). -/
def Token.leaving (t : Token) : Token := if t.kind == .pass then { t with kind := .marker, tag := 0#24 } else t

/-! ### Vacant records: what R52, R179, R235 and R264 give at a first launch -/

def Reg.zero : Reg := ⟨0#512, false⟩
def MaskReg.zero : MaskReg := ⟨0#16, false⟩
def Ctx.init : Ctx := ⟨0#24, 0#24, 0xFFFFFF#24⟩
def Gen.init : Gen := ⟨0#512, false, 0, 0#32, 0, true, 0⟩
def Acc.init : Acc := ⟨csZeros, false, none⟩
def Voter.init : Voter := ⟨0, [], [0, 0, 0], [0, 0, 0], 0, none⟩
def Element.init : Element :=
  { regs := [], masks := [], scales := [], scaleBad := [], aflags := 0#8, roundFlags := [], ctxs := [], ctxAt := [], gens := [],
    genAt := [], accs := [], local_ := [], localErr := [], bufs := [], pipe := [], voter := .init, sparse := [],
    logs := [], passed := [], inRound := [], round0 := 0#24 }
def Owner.init : Owner := ⟨none, 0, [], [], 0#24, [], none, []⟩
def Port.init : Port := ⟨[], 0, [], 0, none, .init⟩
def RowPtr.init : RowPtr := ⟨0, 3071, 0⟩
def Node.init : Node :=
  { rows := [], mbase := 0, mlim := 0, mrow := 0, dbar := [], mround := 0#24, dtag := 0#24, stop := false,
    goArmed := false, quiesced := false, vnstat := 0#32, slot := 0, drains := [], rowsAt := [], scaleBufs := [], logs := [] }
def Sheet.init : Sheet :=
  { a := [], b := [], aErr := [], bErr := [], acc := csZero, buf := csZeros, bufErr := [], sfmt := false,
    serr := false, ascale := [], bscale := [], meta_ := [], queue := [], lastMerge := 0 }
def Csrs.init : Csrs := ⟨0#24, 0#4, false, 0#8, 0#64, 0#57, 0#8, 0#57, 0#24, []⟩
def SeqHold.none : SeqHold := 
  { ended := false, endedIn := 0#24, atS := .none, atSPriv := false, launch := .none, halted := false, haltReq := .none,
    quiet := false, spill := [], roundTrap := false, told := false }
def Seq.init : Seq :=
  { g := [], p := [], pc := 0#64, csrs := .init, block := none, cache := [], filling := none, cmdNo := 0#16,
    outstanding := [], checkpoints := [], pending := [], deferred := none, hold := .none, armed := false,
    loaded := none, yielded := false, request := 0, stale := [], flushing := false, ctlq := [] }
def BenchPlane.empty : BenchPlane := ⟨0, false, false, [], [], [], [], [], []⟩
def Shadow.none : Shadow := ⟨0, 0, 0, 0, .empty, []⟩
def Bench.init : Bench := ⟨[], .init, .init, .empty, .none⟩
def Freeze.none : Freeze := ⟨false, 0, 0, 0, 0, 0⟩
def Fabric.init : Fabric := ⟨0, 0, .none, false, 0, 0, 0#24, false, [], [], [], [], []⟩
def Placement.init : Placement := ⟨0, 0, 0, 1, 1, [], [], 0, 0, 0, 0, 0, 0, 0, 0⟩
def Region.init : Region :=
  { job := 0, graph := 0, node := 0, place := .init, life := .running, lastRnd := 0xFFFFFF#24,
    seq := .init, benches := [], sheets := [], fab := .init,
    kernels := [], reps := [], switching := none, owed := [], refill := 0, swapUntil := 0, preq := none, wantOff := none, shrunk := false, scrubbed := false, lost := false, shreq := none, shape := none, recorded := false,
    npre := 0, nrela := 0, since := 0, order := 0, vers := [] }
def Graph.init : Graph :=
  { job := 0, node := 0, regions := [], next := 0#24, held := false, heldFrom := 0#24, boundary := none, raised := [],
    voidReq := none, repaired := [], reinject := [], chans := [], bound := [], refillUntil := 0, final := 0, cause := 0, failBy := none }
def Job.init : Job :=
  { lid := 0#32, queue := 0, state := 1, cause := 0#8, info := [], rcb := 0, origChip := 0#22, deps := [],
    order := 0, since := 0, root := 0, deleg := [], tree := [], images := [], gangs := [], inval := none,
    grantWait := none }
def Seat.init : Seat := ⟨[], false, [], none, [], none, none, false⟩
def NodeEff.init : NodeEff := ⟨0, 0, 0, 0, 0, 0, 0, 0, 0, 0⟩
def TNode.init : TNode := ⟨0, 0, [], [], .init, []⟩
def WQueue.init : WQueue := ⟨[], none, 0, []⟩
def ElemRec.empty : ElemRec := ⟨[], 0, 0, [], [], [], []⟩
def Image.empty : Image := ⟨0, 0, false, [], [], []⟩

/-! ### Records by key -/

/-- The region with a number; a vacant region when there is none. -/
def State.reg (s : State) (r : Nat) : Region := s.regions.getD r .init

/-- The state with a region changed, when it exists. -/
def State.updReg (s : State) (r : Nat) (f : Region → Region) : State :=
  { s with regions := s.regions.modify r f }

/-- The state with a region's sequencer changed. -/
def State.updSeq (s : State) (r : Nat) (f : Seq → Seq) : State :=
  s.updReg r (fun x => { x with seq := f x.seq })

def State.graph (s : State) (g : Nat) : Graph := s.graphs.getD g .init

def State.updGraph (s : State) (g : Nat) (f : Graph → Graph) : State :=
  { s with graphs := s.graphs.modify g f }

def State.job (s : State) (j : Nat) : Job := s.jobs.getD j .init

def State.updJob (s : State) (j : Nat) (f : Job → Job) : State :=
  { s with jobs := s.jobs.modify j f }

/-- The node of a tree as copied at launch (R25). -/
def Job.node (j : Job) (addr : Nat) : TNode := j.tree.getD addr .init

/-- The region node of a region. -/
def State.rnode (s : State) (r : Nat) : TNode := (s.job (s.reg r).job).node (s.reg r).node

/-- A doubleword of a node. -/
def TNode.word (n : TNode) (i : Nat) : Nat := (n.words.getD i 0#64).toNat

def State.die (s : State) (d : Nat) : Die := s.dies.getD d .init

def State.updDie (s : State) (d : Nat) (f : Die → Die) : State :=
  { s with dies := s.dies.put d (f (s.die d)) }

def State.updSup (s : State) (f : Sup → Sup) : State := { s with sup := f s.sup }

/-- Derrick writes an act into its journal and performs it in the same step: the journal holds the latest one (R72). -/
def State.note (s : State) (a : DerrickAct) : State := s.updSup (fun p => { p with journal := [a] })

/-- A message leaves the package. -/
def State.emit (s : State) (m : OutMsg) : State :=
  s.updSup (fun p => { p with outbox := p.outbox ++ [m] })

/-- A fresh ticket for an open value (log entry 1). -/
def State.ticket (s : State) : State × Nat := ({ s with tickets := s.tickets + 1 }, s.tickets)

/-- A fresh identifier. -/
def State.fresh (s : State) : State × Nat := ({ s with nextId := s.nextId + 1 }, s.nextId)

/-- An event in `n` cycles from now. -/
def State.after (s : State) (n : Nat) (i : Event) : State :=
  { s with timers := s.timers ++ [(s.cycle + n, i)] }

/-- An event in the present cycle, next in line. -/
def State.now (s : State) (i : Event) : State := { s with work := .ev i :: s.work }

/-- The next switch of a folded region begins to wait for its marker (R85). -/
def Region.nextSwitch (x : Region) : Region :=
  match x.switching, x.owed with
  | none, n :: l => { x with switching := some ⟨n, none, true, false⟩, owed := l }
  | _, _ => x

def Region.bench (x : Region) (b : Nat) : Bench := x.benches.getD b .init

def Region.updBench (x : Region) (b : Nat) (f : Bench → Bench) : Region :=
  { x with benches := x.benches.modify b f }

def Bench.elem (x : Bench) (e : Nat) : Element := x.elems.getD e .init

def Bench.updElem (x : Bench) (e : Nat) (f : Element → Element) : Bench :=
  { x with elems := x.elems.modify e f }

def Bench.rec_ (x : Bench) (e : Nat) : ElemRec := x.plane.elems.getD e .empty

/-- The kernel of a KLIST position of an element (R37). -/
def Region.kernelOf (x : Region) (b e ksel : Nat) : Nat := (((x.bench b).rec_ e).klist).getD ksel 255

def Region.updElem (x : Region) (b e : Nat) (f : Element → Element) : Region :=
  x.updBench b (fun y => y.updElem e f)

def State.updElem (s : State) (r b e : Nat) (f : Element → Element) : State :=
  s.updReg r (fun x => x.updElem b e f)

def State.updBench (s : State) (r b : Nat) (f : Bench → Bench) : State :=
  s.updReg r (fun x => x.updBench b f)

/-- The number on its die of bench `b` of a region (R6). -/
def Region.dieBench (x : Region) (b : Nat) : Nat :=
  (x.place.row + b / x.place.cols) * 16 + x.place.col + b % x.place.cols

/-- The segment a bench adjoins: row / 1, columns four at a time (R74). -/
def segmentOf (dieBench : Nat) : Nat := dieBench / 4

/-- The position word of R184: die, bench, element, phase, slot and op byte. -/
def posWord (die bench elem phase slot op : Nat) : DWord :=
  BitVec.ofNat 64 (die % 4 * 2 ^ 30 + bench % 256 * 2 ^ 22 + elem % 16 * 2 ^ 18 + phase % 64 * 2 ^ 12
    + slot % 4 * 2 ^ 10 + op % 256)

/-- The op byte of an element operation, or the vop of a schedule word. -/
def opByte (i : Instr) : Nat :=
  match encode i with
  | .e w => w.toNat / 2 ^ 32
  | .v w => w.toNat / 2 ^ 35
  | _ => 0

/-- The sheet a schedule word names. -/
def wordSheetIdx : Instr → Option Nat
  | .vlda _ s _ _ _ | .vldb _ s _ _ _ _ | .vmac _ s _ _ _ _ _ | .vzero _ s | .vscale _ s _ _ | .vspmeta _ s _ _ _ _
  | .vdrain _ s _ _ _ _ | .vchain _ s _ _ => some s.val
  | _ => none

/-- The logical groups that a schedule word names. -/
def wordGroups : Instr → List Nat
  | .vlda _ _ g _ _ => [g.val]
  | .vldb _ _ g _ _ _ => [g.val]
  | .vmac _ _ ga gb _ _ _ => [ga.val, gb.val]
  | .vspmeta _ _ g _ _ _ => [g.val]
  | _ => []

/-- A cause of kind round. -/
def roundCause (cause : Nat) (tag : BitVec 24) (i0 i1 i2 i3 : DWord) : TrapRec :=
  ⟨BitVec.ofNat 8 cause, .round, 0#57, tag, i0, i1, i2, i3, 0⟩

/-- The storage unit that holds a physical address, in the layout of TRAPINFO1 of R367. -/
def unitOf (pa : Nat) : DWord :=
  let o := pa % 2 ^ 48
  match pa / 2 ^ 48 with
  | 0 => BitVec.ofNat 64 (4 * 2 ^ 61 + Config.pseudoChannel pa % 1024 * 2 ^ 37)
  | 2 => let f := o % 2 ^ 28; BitVec.ofNat 64 (3 * 2 ^ 61 + (16 * (f / (3 * 2 ^ 20)) + f / 64 % 16) * 2 ^ 37)
  | _ => 0#64

/-- The record of a logged unit (R367): physical address, storage unit and position; a token has no unit. -/
def ErrLog.record (l : ErrLog) (tag : BitVec 24) (cause : Nat) (node : Bool) (pos : DWord) : TrapRec :=
  if node || decide (l.stream < 16) then roundCause cause tag (BitVec.ofNat 64 (64 * l.unit)) (unitOf (64 * l.unit)) pos 0#64
  else if l.stream = 16 then roundCause cause tag 0#64 (BitVec.ofNat 64 (l.unit / 1024 * 2 ^ 37)) pos 0#64
  else roundCause cause tag 0#64 0#64 pos 0#64

/-! ### Delegation (R346, R372, R375 to R380) -/

/-- Causes whose default and floor are M. -/
def delegM : List Nat := [0x07, 0x08, 0xA2]

/-- Causes whose floor is S. -/
def delegS : List Nat :=
  [0x04, 0x46, 0x48, 0x49, 0x61, 0xA1, 0xA3, 0xA4, 0xA6, 0xA7, 0xA9, 0xAA, 0xAB]

/-- The floor of a cause: 0 T, 1 S, 2 M. -/
def delegFloor (c : Nat) : Nat := if delegM.contains c then 2 else if delegS.contains c then 1 else 0

/-- The entry that S writes at launch. -/
def delegDefault (c : Nat) : Nat :=
  if delegM.contains c then 2 else if delegS.contains c || [0x43, 0xA0, 0xA5].contains c then 1 else 0

/-- A job's entry for a cause, raised to the floor; an entry of 3 reads as the floor (R372). -/
def Job.delegEntry (j : Job) (c : Nat) : Nat :=
  let e := j.deleg.getD c (delegDefault c)
  if e = 3 ∨ e < delegFloor c then delegFloor c else e

/-- Where a cause of a region goes, after the redirections of R346. -/
def State.trapDest (s : State) (r : Nat) (t : TrapRec) : Nat :=
  let x := s.reg r
  let e := (s.job x.job).delegEntry t.cause.toNat
  if e = 0 ∧ ((s.rnode r).eff.handler = 0 ∨ (t.kind = .block ∧ x.seq.csrs.priv) ∨ t.kind = .event) then 1 else e

/-! ### Taking a trap, and returning from one (R347 to R350) -/

/-- The record of a cause in the trap registers, with the resume address. -/
def Csrs.record (c : Csrs) (t : TrapRec) (blk : BitVec 57) : Csrs :=
  { c with
    trapcause := t.cause
    trapblk := blk
    traptag := t.tag
    trapinfo := [t.info0, t.info1, t.info2, t.info3].zipIdx.foldl (fun m p => m.put p.2 p.1) ([] : FMap DWord) }

/-- The resume address of a cause: the raising block, or the next block (R309, R347). -/
def Seq.resumeAt (q : Seq) (t : TrapRec) : BitVec 57 :=
  if t.kind = .block then t.blk else q.pc.setWidth 57

/-- Trap entry at T (R347). -/
def Seq.enterTrap (q : Seq) (t : TrapRec) (blk : BitVec 57) : Seq :=
  { q with
    csrs := { q.csrs.record t blk with priv := true }
    pc := q.csrs.handler.setWidth 64
    hold := { q.hold with roundTrap := q.hold.roundTrap || t.kind == .round } }

/-- A checkpoint restored (R351, R352). -/
def Seq.restore (q : Seq) (n : BitVec 24) : Seq :=
  match q.checkpoints.find? n.toNat with
  | none => q
  | some c =>
    { q with
      g := c.g
      p := c.p
      pc := c.pc
      csrs := { q.csrs with round := c.round, fpass := c.fpass, handler := c.handler }
      armed := c.armed
      loaded := c.loaded }

/-- A switch that has failed is not taken again: neither it nor its checkpoints stay armed (R323). -/
def Seq.disarm (q : Seq) : Seq :=
  { q with armed := false, checkpoints := q.checkpoints.mapVal (fun _ c => { c with armed := false }) }

/-- Return from T (R342, R349). -/
def Seq.trapReturn (q : Seq) : Seq :=
  let q := { q with csrs := { q.csrs with priv := false } }
  let q := match q.deferred with
    | some n => { q.restore n with deferred := none }
    | none => { q with pc := q.csrs.trapblk.setWidth 64 }
  { q with hold := { q.hold with roundTrap := q.pending.any (fun t => t.kind == .round) } }

/-- A supervisor trap record (R373). -/
def State.supWords (s : State) (r : Nat) (t : TrapRec) (dest : Nat) (parked : Bool) : List DWord :=
  let x := s.reg r
  let j := s.job x.job
  let w (n : Nat) : DWord := BitVec.ofNat 64 n
  let kind := match t.kind with | .block => 0 | .round => 1 | .async => 2 | .event => 3
  [w (t.cause.toNat * 2 ^ 56 + kind * 2 ^ 53 + x.seq.csrs.priv.toNat * 2 ^ 52 + (dest - 1) * 2 ^ 51 + parked.toNat * 2 ^ 50
      + x.place.die % 4 * 2 ^ 46 + x.dieBench 0 % 256 * 2 ^ 38 + t.tag.toNat),
   t.blk.setWidth 64, w (j.lid.toNat * 2 ^ 32 + j.queue % 2 ^ 12), t.info0, t.info1, t.info2, t.info3,
   w (t.ready * 10 / 1309)]

/-- A record reaches S or M, or while no complex is active its die's parked-trap queue of 256 (R73, R374). -/
def State.tellS (s : State) (r : Nat) (t : TrapRec) (dest : Nat) : State × Bool :=
  if s.sup.activeDie.isSome then (s.emit (.supRecord (s.supWords r t dest false)), true)
  else
    let d := (s.reg r).place.die
    if (s.die d).trapq.length < 256 then
      (s.updDie d (fun y => { y with trapq := y.trapq ++ [(r, s.supWords r t dest true)] }), true)
    else (s, false)

/-- An event with its record: S or M is informed; one that finds the parked-trap queue full is counted (R345, R374). -/
def State.eventRec (s : State) (r : Nat) (t : TrapRec) : State :=
  match s.tellS r { t with ready := s.time } (if delegFloor t.cause.toNat = 2 then 2 else 1) with
  | (s, true) => s
  | (s, false) => s.updDie (s.reg r).place.die (fun y =>
      { y with lostEvents := if y.lostEvents < 2 ^ 32 - 1 then y.lostEvents + 1 else y.lostEvents })

/-- An event of a region. -/
def State.event (s : State) (r : Nat) (cause : Nat) (i0 i1 i2 i3 : DWord) : State :=
  s.eventRec r ⟨BitVec.ofNat 8 cause, .event, 0#57, 0#24, i0, i1, i2, i3, s.time⟩

/-- A cause of kind round or asynchronous that is ready waits for the sequencer's next boundary; one that finds
the queue of 8 full goes to S (R348). At PRIV 0 the first waiting cause is about to be entered. -/
def Seq.pend (q : Seq) (t : TrapRec) : Seq :=
  if q.pending.length < 8 + (if q.csrs.priv then 0 else 1) then { q with pending := q.pending ++ [t] }
  else { q with hold := { q.hold with spill := q.hold.spill ++ [t] } }

/-- A cause of a region is ready, and waits (R347, R348). -/
def State.pend (s : State) (r : Nat) (t : TrapRec) : State := s.updSeq r (fun q => q.pend { t with ready := s.time })

/-- An asynchronous trap of a region's sequencer (R309). -/
def State.asyncRaise (s : State) (r : Nat) (cause : Nat) (i0 i1 i2 i3 : DWord) : State :=
  s.pend r ⟨BitVec.ofNat 8 cause, .async, 0#57, 0#24, i0, i1, i2, i3, s.time⟩

end Sys2Proof.Machine
end

