-- ==== Sys2Proof/Machine/Translate.lean ====
section
/-! DEFINITION. Translation and versioned windows (R207 to R222): the walk, the checks of each agent, the
version slots. -/

namespace Sys2Proof.Machine

/-! ### Physical memory (R208, R414) -/

/-- n bytes from a physical address lie in backed memory (R208). -/
def backedAt (tier : Nat) (cxl : List Nat) (pa n : Nat) : Bool :=
  let sp := pa / 2 ^ 48
  let o := pa % 2 ^ 48
  match sp with
  | 0 => decide (o % 2 ^ 46 + n ≤ 192 * 10 ^ 9)
  | 1 => tier == 0 && decide (o % 2 ^ 47 + n ≤ 768 * 10 ^ 9)
  | 2 => decide (o % 2 ^ 46 + n ≤ 192 * 2 ^ 20)
  | 3 => tier == 1 && decide (o % 2 ^ 46 + n ≤ cxl.getD (o / 2 ^ 46) 0)
  | _ => false

def State.backed (s : State) (pa n : Nat) : Bool := backedAt s.tier s.cxl pa n

/-- The physical address of a byte of a die bank group (R208). -/
def groupAddr (die group off : Nat) : Nat := 2 * 2 ^ 48 + die * 2 ^ 46 + group * (3 * 2 ^ 20) + off

/-! ### The unit that serves a byte (R208, R230, R231) -/

/-- The key of a storage unit in a die's bank maps: class, bench, element and unit (R230). -/
def bankKey (cls bench elem unit : Nat) : Nat := ((cls * 256 + bench) * 16 + elem) * 1024 + unit

/-- The entry of a unit on its own physical unit. -/
def BankEntry.own (unit : Nat) : BankEntry := ⟨0, unit, 0, 0, 0, 0, none⟩

/-- The bank map entry of a key. -/
def Die.bank (d : Die) (key : Nat) : BankEntry := d.banks.getD key (.own (key % 1024))

/-- The bank of a Vat store byte: die and key. -/
def vatKey (pa : Nat) : Option (Nat × Nat) :=
  if pa / 2 ^ 48 = 2 then some (pa / 2 ^ 46 % 4, bankKey 3 0 0 (16 * (pa % 2 ^ 28 / (3 * 2 ^ 20)) + pa % 2 ^ 28 % (3 * 2 ^ 20) / 64 % 16)) else none

/-- A unit has retired with no spare left: it is in STATE 3, and reads of its lines carry ERR (R231). -/
def Die.lostUnit (d : Die) (key : Nat) : Bool := (d.bank key).state == 3

/-- A Vat store byte lies in a bank that is lost. -/
def State.vatLost (s : State) (pa : Nat) : Bool :=
  match vatKey pa with
  | some (d, k) => (s.die d).lostUnit k
  | none => false

/-- n bytes hold an uncorrectable error, or lie in a bank that is lost (R231, R354). -/
def State.badBytes (s : State) (pa n : Nat) : Bool :=
  (upTo ((pa + n + 63) / 64 - pa / 64)).any (fun i => s.uerr.contains (pa / 64 + i) || s.vatLost (64 * (pa / 64 + i)))

/-- Bytes stored; a 64-byte unit written whole loses its uncorrectable mark (R356). -/
def State.storeBytes (s : State) (pa : Nat) (bs : List Byte) : State :=
  { s with
    mem := s.mem.writeBytes pa bs
    uerr := s.uerr.filter (fun u => !decide (pa ≤ 64 * u ∧ 64 * u + 64 ≤ pa + bs.length)) }

/-- An atomic access counts for its issuing die; 4 stands for an I/O die (R223). -/
def State.countAtomic (s : State) (pa die : Nat) : State :=
  let sp := pa / 2 ^ 48
  if sp = 2 then s
  else
    let k := 5 * (pa / 2 ^ 21) + die
    let n := s.atomics.getD k 0
    { s with atomics := s.atomics.put k (if n < 65535 then n + 1 else n) }

/-! ### The walk (R209, R210) -/

/-- A leaf as a walk found it: the entry, the physical address of the byte, page size and page base. -/
structure Leaf where
  entry : Nat
  pa : Nat
  size : Nat
  frame : Nat
  deriving DecidableEq, Repr

/-- How a walk ends. -/
inductive Walk where
  | malformed (entryPa level : Nat)
  | unbackedTable (pa level : Nat)
  | invalid
  | leaf (l : Leaf)
  deriving DecidableEq, Repr

def peV (e : Nat) : Bool := bit e 0
def peLeaf (e : Nat) : Bool := bit e 1
def peRd (e : Nat) : Bool := bit e 2
def peW (e : Nat) : Bool := bit e 3
def peX (e : Nat) : Bool := bit e 4
def peAt (e : Nat) : Bool := bit e 5
def peRes (e : Nat) : Bool := bit e 6
def peC (e : Nat) : Bool := bit e 7
def peVerp (e : Nat) : Bool := bit e 9
def peMig (e : Nat) : Bool := bit e 10
def pePin (e : Nat) : Bool := bit e 11
/-- FRAME as a physical address. -/
def peFrame (e : Nat) : Nat := bits e 12 40 * 2 ^ 12
/-- The bits of an entry other than FRAME. -/
def peRest (e : Nat) : Nat := e % 2 ^ 12 + e / 2 ^ 52 * 2 ^ 52

/-- The group rules of C = 1 fail (R210): identical entries, FRAMEs rising by the base page, first aligned. -/
def groupBad (m : Memory) (table idx base : Nat) : Bool :=
  let g := table + 8 * (idx / 16 * 16)
  let e0 := m.readNat g 8
  peFrame e0 % (16 * base) != 0 || (upTo 16).any (fun k =>
    let e := m.readNat (g + 8 * k) 8
    peRest e != peRest e0 || peFrame e != peFrame e0 + k * base)

/-- A valid leaf is malformed (R210). -/
def leafBad (m : Memory) (table idx level e : Nat) : Bool :=
  let base := 2 ^ (12 + 9 * level)
  let size := if peC e then 16 * base else base
  decide (3 ≤ level) || (peC e && level == 1) || peFrame e % base != 0 || (peMig e && peRes e)
    || (peC e && groupBad m table idx base)
    || (peVerp e && (!(size == 2 ^ 12 || size == 2 ^ 16) || !(peFrame e / 2 ^ 48 == 0 || peFrame e / 2 ^ 48 == 2)))

/-- The walk from a table at a level downward. -/
def walkFrom (m : Memory) (backed : Nat → Bool) (va : Nat) : Nat → Nat → Walk
  | 0, _ => .invalid
  | lv + 1, table =>
    let idx := va / 2 ^ (12 + 9 * lv) % 512
    let epa := table + 8 * idx
    if !backed epa then .unbackedTable table (lv + 1)
    else
      let e := m.readNat epa 8
      if !peV e then .invalid
      else if e / 2 ^ 52 != 0 || bit e 8 then .malformed epa lv
      else if peLeaf e then
        if leafBad m table idx lv e then .malformed epa lv
        else
          let base := 2 ^ (12 + 9 * lv)
          let size := if peC e then 16 * base else base
          .leaf ⟨e, peFrame e + va % base, size, peFrame e + va % base - va % size⟩
      else if lv = 0 ∨ bits e 2 10 ≠ 0 then .malformed epa lv
      else walkFrom m backed va lv (peFrame e)

/-- The walk of a job's address. -/
def State.walk (s : State) (job va : Nat) : Walk :=
  walkFrom s.mem (fun pa => s.backed pa 8) va 5 (s.job job).root

/-! ### Access kinds and the memory port (R211, R212) -/

/-- A leaf allows an access kind: 0 read, 1 write, 2 atomic, 3 fetch (R211). -/
def leafOk (e kind : Nat) : Bool :=
  match kind with
  | 0 => peRd e
  | 1 => peW e
  | 2 => peRd e && peW e && peAt e && !peVerp e
  | _ => peX e

/-- A piece of an access on one page: virtual address, bytes and leaf. -/
structure Part where
  va : Nat
  len : Nat
  leaf : Leaf
  deriving DecidableEq, Repr

/-- How steps 3 to 7 of R212 end. -/
inductive PortRes where
  | ok (parts : List Part)
  /-- Reason 0 not resident, 1 range miss, 2 under migration (R214). -/
  | park (va reason : Nat)
  /-- Cause, TRAPINFO0, 2 and 3 (R234). -/
  | fail (cause i0 i2 i3 : Nat)
  deriving DecidableEq, Repr

/-- Steps 6 and 7 for a leaf. -/
def portLeaf (s : State) (kind : Nat) (ver : Bool) (va len : Nat) (l : Leaf) : PortRes :=
  if !leafOk l.entry kind || peVerp l.entry != ver then
    .fail 0x45 va (kind + (if peVerp l.entry != ver then 2 ^ 8 else 0)) l.entry
  else if !s.backed l.pa len then .fail 0x49 va l.pa 0
  else .ok [⟨va, len, l⟩]

/-- The leaf under which a probe pinned the page of an address. -/
def Pin.leaf (p : Pin) (va : Nat) : Leaf := ⟨p.entry, p.frame + (va - p.page), p.size, p.frame⟩

/-- Steps 3 to 7 for one page. An access to a pinned page never parks: it goes through the leaf that was pinned (R247). -/
def portPage (s : State) (job kind : Nat) (ver : Bool) (va len : Nat) (pins : List Pin) : PortRes :=
  let park (reason : Nat) : PortRes :=
    match pins.find? (fun p => decide (p.page ≤ va ∧ va < p.page + p.size)) with
    | some p => portLeaf s kind ver va len (p.leaf va)
    | none => .park va reason
  match s.walk job va with
  | .malformed epa lv => .fail 0x48 va epa lv
  | .unbackedTable pa lv => .fail 0x49 va pa lv
  | .invalid => park 1
  | .leaf l => if !peRes l.entry then park (if peMig l.entry then 2 else 0) else portLeaf s kind ver va len l

/-- Bytes of an access on its first 4 KiB page. -/
def pageSpan (va n : Nat) : Nat := if va % 4096 + n ≤ 4096 then n else 4096 - va % 4096

/-- Steps 3 to 7 of an access of at most two pages; no byte moves until both pass. An access that parks is named by
its lowest byte (R214). -/
def State.portWalk (s : State) (job kind : Nat) (ver : Bool) (va n : Nat) (pins : List Pin) : PortRes :=
  let k := pageSpan va n
  match portPage s job kind ver va k pins with
  | .ok ps =>
    if k = n then .ok ps
    else
      match portPage s job kind ver (va + k) (n - k) pins with
      | .ok qs => .ok (ps ++ qs)
      | .park _ reason => .park va reason
      | r => r
  | r => r

/-! ### Sequencer and engine accesses (R152, R211) -/

/-- The state as a sequencer translates in it: entries that S has changed without an invalidation since stand as before
(R154). -/
def State.tlb (s : State) (r : Nat) : State :=
  match (s.reg r).seq.stale with
  | [] => s
  | l => { s with mem := l.foldl (fun m e => m.writeBytes e.1 (leBytes e.2 8)) s.mem }

/-- Valid entries that S is about to change in stretches of memory, kept for the sequencers until an invalidation. -/
def State.keepStale (s : State) (at_ : List (Nat × Nat)) : State :=
  let old := (at_.flatMap (fun p => (upTo ((p.1 + p.2 + 7) / 8 - p.1 / 8)).map (fun i =>
    let a := 8 * (p.1 / 8 + i)
    (a, s.mem.readNat a 8)))).filter (fun e => peV e.2)
  let keep (m : FMap Nat) : FMap Nat := old.foldl (fun m e => if (m.find? e.1).isSome then m else m.put e.1 e.2) m
  { s with regions := if old.isEmpty then s.regions
    else s.regions.mapVal (fun _ x => { x with seq := { x.seq with stale := keep x.seq.stale } }) }

/-- How a piece of a checked access fares: 0 passes, else the failed check of R152. -/
def seqPage (s : State) (job kind : Nat) (verp : Option Bool) (va len : Nat) : Nat × Option Leaf :=
  match s.walk job va with
  | .leaf l =>
    if !s.backed l.pa len then (2, none)
    else if !leafOk l.entry kind || verp.any (· != peVerp l.entry) then (3, none)
    else if !peRes l.entry then (4, none)
    else (0, some l)
  | _ => (2, none)

/-- How a checked access ends. -/
inductive SeqRes where
  | ok (parts : List Part)
  | fail (check va : Nat)
  deriving DecidableEq, Repr

/-- The pages of an access of n bytes: address and length, at most `fuel` of them. -/
def pagesOf : Nat → Nat → Nat → List (Nat × Nat)
  | 0, _, _ => []
  | fuel + 1, va, n =>
    if n = 0 then []
    else
      let k := pageSpan va n
      (va, k) :: pagesOf fuel (va + k) (n - k)

/-- Checks 1 to 4 of R152 for n bytes at an address; `verp` is what check 3 asks of VERP. The lowest check
that fails on any byte is reported, with the lowest byte that fails it. -/
def State.seqCheck (s : State) (job kind : Nat) (verp : Option Bool) (ea n : Nat) : SeqRes :=
  if ea / 2 ^ 57 ≠ 0 then .fail 1 ea
  else
    let ps := (pagesOf (n / 4096 + 2) ea n).map (fun p =>
      (p, if p.1 / 2 ^ 57 ≠ 0 then (2, none) else seqPage s job kind verp p.1 p.2))
    match [2, 3, 4].findSome? (fun c => (ps.find? (fun p => p.2.1 == c)).map (fun p => (c, p.1.1))) with
    | some (c, va) => .fail c va
    | none => .ok (ps.filterMap (fun p => p.2.2.map (fun l => ⟨p.1.1, p.1.2, l⟩)))

/-! ### Version slots (R218 to R222) -/

/-- A version slot as read. -/
structure VSlot where
  live : Bool
  comm : Bool
  writer : Nat
  round : BitVec 24
  deriving DecidableEq, Repr

def VSlot.code (v : VSlot) : Nat :=
  v.live.toNat * 2 ^ 63 + v.comm.toNat * 2 ^ 62 + v.writer * 2 ^ 24 + v.round.toNat

def VSlot.ofNat (x : Nat) : VSlot := ⟨bit x 63, bit x 62, bits x 24 10, BitVec.ofNat 24 x⟩

/-- A line of a versioned page: its directory entry, the frame, the page size and the line's offset. -/
structure VLine where
  frame : Nat
  size : Nat
  off : Nat
  deriving DecidableEq, Repr

/-- The line that holds a byte of a versioned leaf. -/
def Leaf.vline (l : Leaf) : VLine := ⟨l.frame, l.size, (l.pa - l.frame) / 32 * 32⟩

/-- The directory entry of a line. -/
def VLine.dir (v : VLine) : Nat := v.frame + 4 * v.size + v.off

/-- Where slot k holds the line. -/
def VLine.data (v : VLine) (k : Nat) : Nat := v.frame + k * v.size + v.off

/-- Slot k of a directory entry. -/
def readSlot (m : Memory) (dir k : Nat) : VSlot := VSlot.ofNat (m.readNat (dir + 8 * k) 8)

/-- The memory with slot k of a directory entry written. -/
def writeSlot (m : Memory) (dir k : Nat) (v : VSlot) : Memory := m.writeBytes (dir + 8 * k) (leBytes v.code 8)

/-- The live slots of a directory entry, with their numbers. -/
def liveSlots (m : Memory) (dir : Nat) : List (Nat × VSlot) :=
  ((upTo 4).map (fun k => (k, readSlot m dir k))).filter (fun p => p.2.live)

/-- The newest of some slots (R7). -/
def newest (l : List (Nat × VSlot)) : Option (Nat × VSlot) :=
  match l with
  | [] => none
  | p :: ps => some (ps.foldl (fun e x => if precedes e.2.round x.2.round then x else e) p)

/-- The oldest of some slots. -/
def oldest (l : List (Nat × VSlot)) : Option (Nat × VSlot) :=
  match l with
  | [] => none
  | p :: ps => some (ps.foldl (fun e x => if precedes x.2.round e.2.round then x else e) p)

/-- How a versioned access ends: a slot, a wait, or a cause with TRAPINFO3. -/
inductive VRes where
  | slot (k : Nat)
  | zero
  | wait
  | fail (cause slot : Nat)
  deriving DecidableEq, Repr

/-- The slot that a read returns: R221 for a named round, else the newest committed or own slot. -/
def versRead (m : Memory) (dir reader : Nat) (named : Option (BitVec 24)) : VRes :=
  let live := liveSlots m dir
  match named with
  | none =>
    match newest (live.filter (fun p => p.2.comm || p.2.writer == reader)) with
    | some p => .slot p.1
    | none => .zero
  | some n =>
    match live.find? (fun p => p.2.round == n && p.2.writer == reader) with
    | some p => .slot p.1
    | none =>
      let old := ((oldest live).map (fun p => p.2.code)).getD 0
      if live.any (fun p => p.2.comm && atOrBefore n p.2.round) then
        match newest (live.filter (fun p => p.2.comm && atOrBefore p.2.round n)) with
        | some p => .slot p.1
        | none => .fail 0x4B old
      else if (oldest live).any (fun p => precedes n p.2.round) || (newest live).any (fun p => unordered n p.2.round)
      then .fail 0x4B old
      else .wait

/-- The slot a store of round n by writer w goes to (R219): an old slot of its own, or a free one to take. -/
def versStoreSlot (m : Memory) (dir w : Nat) (n : BitVec 24) : VRes × Bool :=
  let live := liveSlots m dir
  match live.find? (fun p => p.2.round == n) with
  | some p => if p.2.writer = w then (.slot p.1, false) else (.fail 0x4A p.2.code, false)
  | none =>
    match live.find? (fun p => precedes n p.2.round || unordered n p.2.round) with
    | some p => (.fail 0x4A p.2.code, false)
    | none =>
      match (upTo 4).find? (fun k => !(readSlot m dir k).live) with
      | some k => (.slot k, true)
      | none => (.wait, false)

/-- The content a new slot of round n starts with: the newest live slot preceding n that is committed or own. -/
def versBase (m : Memory) (v : VLine) (w : Nat) (n : BitVec 24) : List Byte :=
  match newest ((liveSlots m v.dir).filter (fun p => precedes p.2.round n && (p.2.comm || p.2.writer == w))) with
  | some p => m.readBytes (v.data p.1) 32
  | none => List.replicate 32 0#8

/-- Take a free slot of a line (R219). -/
def versTake (m : Memory) (v : VLine) (k w : Nat) (n : BitVec 24) : Memory :=
  writeSlot (m.writeBytes (v.data k) (versBase m v w n)) v.dir k ⟨true, false, w, n⟩

/-- Free the slots that RECLAIM with round n frees (R222). -/
def versReclaim (m : Memory) (dir : Nat) (n : BitVec 24) : Memory :=
  let comm := (liveSlots m dir).filter (fun p => p.2.comm)
  match newest (comm.filter (fun p => atOrBefore p.2.round n)) with
  | none => m
  | some t =>
    (comm.filter (fun p => precedes p.2.round t.2.round)).foldl
      (fun m p => writeSlot m dir p.1 { p.2 with live := false }) m

/-- What commit (COMM := 1) or void (LIVE := 0) of round n by writer w does to a line (R220). -/
def versEnd (m : Memory) (dir w : Nat) (n : BitVec 24) (commit : Bool) : Memory :=
  (liveSlots m dir).foldl (fun m p =>
    if p.2.round = n ∧ p.2.writer = w ∧ (commit ∨ ¬ p.2.comm) then
      writeSlot m dir p.1 (if commit then { p.2 with comm := true } else { p.2 with live := false })
    else m) m

/-- The identity of a region as a writer: die and north-west bench (R218). -/
def Region.writer (x : Region) : Nat := x.place.die * 256 + x.dieBench 0

/-- Commit or void of round n of a region in its versioned windows. -/
def State.versRound (s : State) (r : Nat) (n : BitVec 24) (commit : Bool) : State :=
  let x := s.reg r
  let ds := (x.vers.filter (fun d => d.2 == n)).map Prod.fst
  { s with
    mem := ds.foldl (fun m d => versEnd m d x.writer n commit) s.mem
    regions := s.regions.modify r (fun x => { x with vers := x.vers.filter (fun d => d.2 != n) }) }

/-! ### Reading through a page (R219, R221) -/

/-- The 32-byte lines of n bytes at a virtual address: address and length of each piece. -/
def linesOf : Nat → Nat → Nat → List (Nat × Nat)
  | 0, _, _ => []
  | fuel + 1, va, n =>
    if n = 0 then []
    else
      let k := if va % 32 + n ≤ 32 then n else 32 - va % 32
      (va, k) :: linesOf fuel (va + k) (n - k)

/-- How reading bytes through translated pages ends. -/
inductive ReadRes where
  | bytes (bs : List Byte) (err : Bool)
  | wait
  | fail (cause va slot : Nat)
  deriving DecidableEq, Repr

/-- The bytes of a piece of one page (R218, R221). -/
def State.readPart (s : State) (reader : Nat) (named : Option (BitVec 24)) (p : Part) : ReadRes :=
  if peVerp p.leaf.entry then
    (linesOf (p.len / 32 + 2) p.va p.len).foldl (fun acc l =>
      match acc with
      | .bytes bs err =>
        let pa := p.leaf.pa + (l.1 - p.va)
        let v : VLine := ({ p.leaf with pa := pa } : Leaf).vline
        let o := (pa - p.leaf.frame) % 32
        let derr := s.badBytes v.dir 32
        match versRead s.mem v.dir reader named with
        | .slot k => .bytes (bs ++ s.mem.readBytes (v.data k + o) l.2) (err || derr || s.badBytes (v.data k + o) l.2)
        | .zero => .bytes (bs ++ List.replicate l.2 0#8) (err || derr)
        | .wait => .wait
        | .fail c k => .fail c l.1 k
      | r => r) (.bytes [] false)
  else .bytes (s.mem.readBytes p.leaf.pa p.len) (s.badBytes p.leaf.pa p.len)

/-- The bytes of translated pieces. -/
def State.readParts (s : State) (reader : Nat) (named : Option (BitVec 24)) : List Part → ReadRes
  | [] => .bytes [] false
  | p :: ps =>
    match s.readPart reader named p with
    | .bytes bs err =>
      match s.readParts reader named ps with
      | .bytes cs e => .bytes (bs ++ cs) (err || e)
      | r => r
    | r => r

/-- Plain bytes written through translated pieces. -/
def State.writeParts (s : State) (parts : List Part) (bs : List Byte) : State :=
  (parts.foldl (fun (acc : State × List Byte) p =>
    (acc.1.storeBytes p.leaf.pa (acc.2.take p.len), acc.2.drop p.len)) (s, bs)).1

/-- How a versioned store ends. -/
inductive StoreRes where
  | done (s : State)
  | wait
  | fail (cause va slot : Nat)
  | uncorrectable

/-- A store of round n by region r to some bytes of versioned pages, line by line (R218, R219): `bs` holds a
byte or nothing for each address. -/
def State.versStore (s : State) (r : Nat) (n : BitVec 24) (p : Part) (bs : List (Option Byte)) : StoreRes :=
  (linesOf (p.len / 32 + 2) p.va p.len).foldl (fun acc l =>
    match acc with
    | .done s =>
      let d := l.1 - p.va
      let pa := p.leaf.pa + d
      let v : VLine := ({ p.leaf with pa := pa } : Leaf).vline
      let o := (pa - p.leaf.frame) % 32
      let w := (s.reg r).writer
      let part := (bs.drop d).take l.2
      if part.all Option.isNone then .done s
      else if s.badBytes v.dir 32 then .uncorrectable
      else
        match versStoreSlot s.mem v.dir w n with
        | (.slot k, fresh) =>
          let m := if fresh then versTake s.mem v k w n else s.mem
          let m := (part.foldl (fun (a : Memory × Nat) b =>
            (match b with | some x => a.1.write a.2 x | none => a.1, a.2 + 1)) (m, v.data k + o)).1
          .done { s with
            mem := m
            regions := s.regions.modify r (fun x =>
              { x with vers := if x.vers.contains (v.dir, n) then x.vers else x.vers ++ [(v.dir, n)] }) }
        | (.fail c k, _) => .fail c l.1 k
        | _ => .wait
    | x => x) (.done s)

end Sys2Proof.Machine
end

