-- ==== Sys2Proof/Machine/Channels.lean ====
section
/-! DEFINITION. Channels (R101, R102, R106 to R108): neighbour links, elastic channels, control lines, the
scale buffers of matrix nodes, and the causes the fabric raises. -/

namespace Sys2Proof.Machine

/-- A cause of kind round of a region, collected for the end of the cycle (R347). -/
def State.raiseRound (s : State) (r : Nat) (t : TrapRec) : State :=
  s.updGraph (s.reg r).graph (fun g => { g with raised := g.raised ++ [⟨r, t⟩] })

/-- Row and column of an element in its region's grid of elements (R6). -/
def Region.gridPos (x : Region) (b e : Nat) : Nat × Nat :=
  (b / x.place.cols * 4 + e / 4, b % x.place.cols * 4 + e % 4)

/-- The element at a place of the grid. -/
def Region.elemAt (x : Region) (row col : Nat) : Nat × Nat :=
  (row / 4 * x.place.cols + col / 4, row % 4 * 4 + col % 4)

/-- The neighbour in a direction (0 north, 1 east, 2 south, 3 west); none across the region's edge. -/
def Region.neighbour (x : Region) (b e dir : Nat) : Option (Nat × Nat) :=
  let (row, col) := x.gridPos b e
  match dir with
  | 0 => if row = 0 then none else some (x.elemAt (row - 1) col)
  | 1 => if col + 1 = x.place.cols * 4 then none else some (x.elemAt row (col + 1))
  | 2 => if row + 1 = x.place.rows * 4 then none else some (x.elemAt (row + 1) col)
  | _ => if col = 0 then none else some (x.elemAt row (col - 1))

/-- The channel table entry of an element. -/
def Region.chan (x : Region) (b e n : Nat) : Option Chan := ((x.bench b).rec_ e).chans.find? n

/-- Tokens in an input buffer. -/
def Region.bufLen (x : Region) (b e n : Nat) : Nat := (((x.bench b).elem e).bufs.getD n []).length

/-- A token at the end of an input buffer. -/
def Element.push (el : Element) (n : Nat) (t : Token) : Element :=
  { el with bufs := el.bufs.put n (el.bufs.getD n [] ++ [t]) }

/-- The head of an input buffer removed; behind a marker or switch token the input's next round is current (R294). -/
def Element.pop (el : Element) (n : Nat) : Element :=
  { el with
    bufs := el.bufs.set [] n ((el.bufs.getD n []).drop 1)
    inRound := match el.bufs.getD n [] with
      | t :: _ => if t.kind == .marker || t.kind == .switch then el.inRound.put n (t.round + 1) else el.inRound
      | [] => el.inRound }

/-- An input buffer has no room for another token. -/
def Region.bufFull (x : Region) (b e n : Nat) : Bool :=
  match x.chan b e n with
  | some c => decide (c.buf ≤ x.bufLen b e n)
  | none => true

/-- The elements of a region that bind a control line as an input: bench, element, channel. -/
def Region.lineInputs (x : Region) (line : Nat) : List (Nat × Nat × Nat) :=
  x.benches.flatMap (fun b => b.2.plane.elems.flatMap (fun e =>
    (e.2.chans.filter (fun c => c.2.kind == 5 && !c.2.out && c.2.peer == line)).map (fun c => (b.1, e.1, c.1))))

/-- A write to a control line finds no receiving buffer full (R108). -/
def Region.lineRoom (x : Region) (line : Nat) : Bool := (x.lineInputs line).all (fun p => !x.bufFull p.1 p.2.1 p.2.2)

/-- A token written to a control line in this cycle (R108): readable after four unfrozen cycles; two writers in
one cycle, or a full receiver, raise 0x9A. -/
def State.writeLine (s : State) (r line : Nat) (t : Token) (pos : DWord) : State :=
  let x := s.reg r
  let now := x.fab.ucycle
  let second := x.fab.lines.any (fun l => l.1 == line && l.2.1 == now + 4)
  if second || !x.lineRoom line then
    s.raiseRound r (roundCause 0x9A t.tag pos t.header 0#64 0#64)
  else
    s.updReg r (fun x => { x with fab := { x.fab with lines := x.fab.lines ++ [(line, now + 4, t)] } })

/-- The token of a control line lands in every element that binds the line. -/
def Region.landLine (x : Region) (line : Nat) (t : Token) : Region :=
  (x.lineInputs line).foldl (fun x p => x.updElem p.1 p.2.1 (fun el => el.push p.2.2 t)) x

/-- The channel of a graph that an element's table entry names. -/
def State.elasticOf (s : State) (r : Nat) (c : Chan) : Option Elastic :=
  (s.graph (s.reg r).graph).chans.find? c.peer

/-- A channel of a region's graph changed. -/
def State.updElastic (s : State) (r idx : Nat) (f : Elastic → Elastic) : State :=
  s.updGraph (s.reg r).graph (fun g => { g with chans := g.chans.modify idx f })

/-- A token leaves by an output channel in this cycle (R101, R102, R106, R108, R274). The credit of an elastic
channel was spent at issue (R181). A kind 3 output has no reader (log entry 11). -/
def State.pushTok (s : State) (r b e n : Nat) (t : Token) (pos : DWord) : State :=
  let x := s.reg r
  match x.chan b e n with
  | none => s
  | some c =>
    if c.kind = 1 then
      match x.neighbour b e c.link with
      | none => s
      | some (b', e') =>
        if x.bufFull b' e' c.peer then s.raiseRound r (roundCause 0x99 t.tag pos t.header 0#64 0#64)
        else s.updElem r b' e' (fun el => el.push c.peer t)
    else if c.kind = 2 then
      s.updElastic r c.peer (fun ch =>
        { ch with flight := ch.flight ++ [(s.cycle + ch.lat, if ch.dst.1 = r then t else t.leaving)] })
    else if c.kind = 4 then
      s.updBench r b (fun y => { y with node := { y.node with
        scaleBufs := y.node.scaleBufs.put c.peer (y.node.scaleBufs.getD c.peer [] ++ [t]) } })
    else if c.kind = 5 then s.writeLine r c.peer t pos
    else s

/-- A token popped from an input: an elastic channel's credit is on its way back (R106). -/
def State.popTok (s : State) (r b e n : Nat) : State :=
  let s' := s.updElem r b e (fun el => el.pop n)
  match (s.reg r).chan b e n with
  | some c =>
    if c.kind = 2 then s'.updElastic r c.peer (fun ch => { ch with back := ch.back ++ [s.cycle + ch.lat + 1] })
    else s'
  | none => s'

/-- A credit of an elastic output spent at issue. -/
def State.spendCredit (s : State) (r b e n : Nat) : State :=
  match (s.reg r).chan b e n with
  | some c => if c.kind = 2 then s.updElastic r c.peer (fun ch => { ch with credits := ch.credits - 1 }) else s
  | none => s

/-- An output may take a token now: credit of an elastic channel, room in a scale buffer (R102). -/
def State.outFree (s : State) (r b e n : Nat) : Bool :=
  match (s.reg r).chan b e n with
  | some c =>
    if c.kind = 2 then (s.elasticOf r c).all (fun ch => decide (0 < ch.credits))
    else if c.kind = 4 then
      let y := (s.reg r).bench b
      decide ((y.node.scaleBufs.getD c.peer []).length
        + ((y.elem e).pipe.filter (fun p => p.dst == .chan n)).length < 4)
    else true
  | none => true

/-! ### Reports to the couch unit (R257, R355) -/

/-- A report of an exit or of a unit that consumed ERR. -/
def State.report (s : State) (r : Nat) (p : ExitRep) : State :=
  s.updReg r (fun x => { x with reps := x.reps ++ [p] })

/-- The exit number under which sinks of ERR report. -/
def sinkExit : Nat := 16

/-- A token that carried ERR ended at an operation or node (R355). -/
def State.sink (s : State) (r : Nat) (round tag : BitVec 24) : State :=
  s.report r ⟨sinkExit, 0, .data, round, tag, true⟩

/-- A record of an element's, port's or node's error log (R354): `lim` per round; a full log voids the round. -/
def logFull (lim : Nat) (logs : List ErrLog) (round : BitVec 24) : Bool :=
  decide (lim ≤ (logs.filter (fun l => l.round == round)).length)

/-- An element's log takes a record, or the round is voided with 0xA5 (R354). Element 0 keeps 16 records. -/
def State.elog (s : State) (r b e : Nat) (l : ErrLog) (pos : DWord) : State :=
  let lim := if e = 0 ∨ e = 15 then 16 else 4
  if logFull lim (((s.reg r).bench b).elem e).logs l.round then
    s.raiseRound r (l.record l.tag 0xA5 false pos)
  else s.updElem r b e (fun el => { el with logs := el.logs ++ [l] })

/-! ### Arrivals (R106 to R108) -/

/-- The consumer's element binds the channel in the active plane (R85) and its buffer has room (R107). -/
def State.elasticRoom (s : State) (c : Nat) (ch : Elastic) : Bool :=
  let (r, b, e, n) := ch.dst
  ((s.reg r).chan b e n).any (fun k => k.kind == 2 && !k.out && k.peer == c) && !(s.reg r).bufFull b e n

/-- A token of an elastic channel that is due lands: in the consumer's buffer when it has room and nothing
waits in queue memory, else behind the tokens in queue memory (R107). -/
def execElasticTokenArrival (g c : Nat) (s : State) : Host.Outcome State Fault Refusal :=
  match (s.graph g).chans.find? c with
  | none => .next s
  | some ch =>
    match ch.flight with
    | [] => .next s
    | (due, t) :: rest =>
      if s.cycle < due then .next s
      else
        let (r, b, e, n) := ch.dst
        let s := s.updGraph g (fun x => { x with chans := x.chans.modify c (fun y => { y with flight := rest }) })
        if ch.qmem.isEmpty && s.elasticRoom c ch then .next (s.updElem r b e (fun el => el.push n t))
        else .next (s.updGraph g (fun x =>
          { x with chans := x.chans.modify c (fun y => { y with qmem := y.qmem ++ [t] }) }))

/-- Credits that have come back are spendable (R106). -/
def execCreditReturn (g c : Nat) (s : State) : Host.Outcome State Fault Refusal :=
  .next (s.updGraph g (fun x => { x with
    chans := x.chans.modify c (fun y =>
      { y with
        credits := y.credits + (y.back.filter (fun d => decide (d ≤ s.cycle))).length
        back := y.back.filter (fun d => decide (s.cycle < d)) }) }))

/-- One token moves from queue memory into the consumer's buffer (R107). -/
def execQueueMemoryTransfer (g c : Nat) (s : State) : Host.Outcome State Fault Refusal :=
  match (s.graph g).chans.find? c with
  | none => .next s
  | some ch =>
    match ch.qmem with
    | [] => .next s
    | t :: rest =>
      let (r, b, e, n) := ch.dst
      if !s.elasticRoom c ch then .next s
      else
        .next ((s.updGraph g (fun x =>
          { x with chans := x.chans.modify c (fun y => { y with qmem := rest }) })).updElem r b e (fun el => el.push n t))

/-- A control token reaches the readers of its line: one that an element wrote and that is due, or one that the
sequencer injected, once every reader has room (R108, R328). -/
def execControlTokenArrival (r line : Nat) (s : State) : Host.Outcome State Fault Refusal :=
  let x := s.reg r
  match x.fab.lines.find? (fun l => l.1 == line && decide (l.2.1 ≤ x.fab.ucycle)) with
  | some l =>
    .next (s.updReg r (fun x => ({ x with fab := { x.fab with lines := x.fab.lines.erase l } }).landLine line l.2.2))
  | none =>
    match x.seq.ctlq.getD line [] with
    | [] => .next s
    | (due, t) :: rest =>
      if due ≤ s.cycle ∧ x.lineRoom line then
        .next (s.updReg r (fun x =>
          ({ x with seq := { x.seq with ctlq := x.seq.ctlq.set [] line rest } }).landLine line t))
      else .next s

end Sys2Proof.Machine
end

