-- ==== Sys2Proof/Machine/Banks.lean ====
section
/-! DEFINITION. Bank maps (R229 to R232): the line an evacuation locks, and the banks that a cycle uses. -/

namespace Sys2Proof.Machine

/-- The key of a unit with a bank map entry. -/
def hwKey : HwUnit → Option Nat
  | .localBank b e k => some (bankKey 0 b e k)
  | .regBank b e k => some (bankKey 1 b e k)
  | .vatBank g k => some (bankKey 3 0 0 (16 * g + k))
  | .cacheBank b k => some (bankKey 2 b 0 k)
  | .pseudoChannel n => some (bankKey 4 0 0 n)
  | _ => none

/-- The unit of a key of class 0 or 3. -/
def keyUnit (key : Nat) : HwUnit :=
  if key / 2 ^ 22 = 0 then .localBank (key / 2 ^ 14) (key / 1024 % 16) (key % 1024)
  else .vatBank (key % 1024 / 16) (key % 16)

/-- Segments of a placement over the dies: past the row's end the chain continues on the next die (R263). -/
def segKey (die seg : Nat) : Nat := if seg < 64 then die * 64 + seg else (die + 1) * 64 + (seg - 64)

/-- Lines of a bank (R229). -/
def bankLines (key : Nat) : Nat := if key / (256 * 16 * 1024) = 0 then 128 else 3072

/-- A line of a bank is locked by its evacuation (R232). -/
def State.lineLocked (s : State) (die key line : Nat) : Bool :=
  let e := (s.die die).bank key
  e.state == 2 && e.cursor == line && decide (s.cycle < e.lockEnd)

/-- Some line of a group row is locked. -/
def State.rowLocked (s : State) (die group row : Nat) : Bool :=
  (upTo 16).any (fun k => s.lineLocked die (bankKey 3 0 0 (16 * group + k)) row)

/-- A Vat store byte's line is locked (R208). -/
def State.vatLocked (s : State) (pa : Nat) : Bool :=
  if pa / 2 ^ 48 = 2 then
    let die := pa / 2 ^ 46 % 4
    let o := pa % 2 ^ 28
    let group := o / (3 * 2 ^ 20)
    s.lineLocked die (bankKey 3 0 0 (16 * group + o / 64 % 16)) (o % (3 * 2 ^ 20) / 1024)
  else false

/-- A region's ports or elements use some banks in a cycle. -/
def Region.use (x : Region) (now : Nat) (keys : List (Nat × Nat)) : Region :=
  if keys.isEmpty then x
  else { x with fab := { x.fab with uses := x.fab.uses.filter (fun q => q.1 == now) ++ keys.map (fun k => (now, k)) } }

/-- Some region's port or element uses a bank in this cycle. -/
def State.bankUsed (s : State) (die key : Nat) : Bool :=
  s.regions.any (fun x => x.2.fab.uses.any (fun q => q.1 == s.cycle && q.2.1 == die && q.2.2 == key))

/-- A schedule word's group read uses the bank of a Vat store byte in this cycle (R268). -/
def State.vatBusy (s : State) (pa : Nat) : Bool :=
  decide (pa / 2 ^ 48 = 2) && s.regions.any (fun x => x.2.place.die == pa / 2 ^ 46 % 4
    && x.2.fab.reads.any (fun q => q.1 == s.cycle && q.2.1 == pa % 2 ^ 28 / (3 * 2 ^ 20)))

/-- A group read or a memory-port access uses the bank of a Vat store byte in this cycle: engine, SPEER and evacuation
traffic waits (R268). -/
def State.vatTaken (s : State) (pa : Nat) : Bool :=
  s.vatBusy pa || (match vatKey pa with | some (d, k) => s.bankUsed d k | none => false)

/-- The physical addresses that an access of some pieces touches, one for each storage line: of a versioned piece the
directory entry and the slot that each line of it is read from, or stored to when `store` is a round (R218). -/
def State.touched (s : State) (writer : Nat) (named store : Option (BitVec 24)) (parts : List Part) : List Nat :=
  parts.flatMap (fun p =>
    if peVerp p.leaf.entry then
      (linesOf (p.len / 32 + 2) p.va p.len).flatMap (fun l =>
        let v : VLine := ({ p.leaf with pa := p.leaf.pa + (l.1 - p.va) } : Leaf).vline
        let slot := match store with
          | some n => (versStoreSlot s.mem v.dir writer n).1
          | none => versRead s.mem v.dir writer named
        v.dir :: (match slot with | .slot k => [v.data k] | _ => []))
    else (upTo ((p.leaf.pa + p.len + 63) / 64 - p.leaf.pa / 64)).map (fun i => (p.leaf.pa / 64 + i) * 64))

/-- An access meets a line that an evacuation has locked (R232). -/
def State.reqLocked (s : State) (pas : List Nat) : Bool := pas.any s.vatLocked

/-- A byte of an element's local memory lies in a locked line. -/
def State.localLocked (s : State) (die bench elem addr : Nat) : Bool :=
  s.lineLocked die (bankKey 0 bench elem (addr / 8192)) (addr % 8192 / 64)

end Sys2Proof.Machine
end

