-- ==== Sys2Proof/Machine/Capacity.lean ====
section
/-! DEFINITION. Capacity readings and bank map entries as software reads them (R80, R230, R339). -/

namespace Sys2Proof.Machine

/-- Vat store bank groups of a die with all 16 banks live. -/
def Die.liveGroups (d : Die) : List Nat :=
  (upTo 64).filter (fun g => (upTo 16).all (fun k => (d.bank (bankKey 3 0 0 (16 * g + k))).state != 3))

/-- A segment that retired any lane, or is retired. -/
def Die.segmentWhole (d : Die) (seg : Nat) : Bool := !d.retiredSegs.contains seg && d.lanesLost.getD seg 0 == 0

/-- A capacity reading of a die (R80): the class, and for classes 5 to 7 the bench and element. Those of a retired bench
no longer count. -/
def Die.capacity (d : Die) (cls bench elem : Nat) : Nat :=
  if 5 ≤ cls ∧ d.retiredBenches.contains bench then 0 else
  match cls with
  | 0 => 256 - d.retiredBenches.length
  | 1 => 64 - d.retiredSegs.length
  | 2 => ((upTo 64).filter d.segmentWhole).length
  | 3 => d.liveGroups.length
  | 4 => 192 - d.channelsLost.length
  | 5 => 8 - d.localBanksLost.getD (16 * bench + elem) 0
  | 6 => 4 - d.regBanksLost.getD (16 * bench + elem) 0
  | _ => 4 - (d.cacheBanksLost.getD bench []).length

/-- CAPRD: class and unit as g registers hold them; all ones outside the fields (R339). -/
def State.caprd (s : State) (cls unit : Nat) : DWord :=
  let top := if cls ≤ 4 then 2 else if cls = 7 then 10 else 14
  if 7 < cls ∨ unit / 2 ^ top ≠ 0 then BitVec.allOnes 64
  else BitVec.ofNat 64 ((s.die (unit % 4)).capacity cls (bits unit 2 8) (bits unit 10 4))

/-- The 64 bits of a bank map entry (R230). -/
def entryWord (state phys newPhys cursor cecnt : Nat) : DWord :=
  BitVec.ofNat 64 (state * 2 ^ 61 + phys % 2 ^ 11 * 2 ^ 50 + newPhys % 2 ^ 11 * 2 ^ 39 + cursor % 2 ^ 12 * 2 ^ 27
    + cecnt % 2 ^ 16 * 2 ^ 11)

/-- The entry of a unit with its STATE, PHYS and CECNT. -/
def BankEntry.word (e : BankEntry) : DWord :=
  if e.state = 2 then entryWord 2 e.phys e.newPhys e.cursor e.cecnt else entryWord e.state e.phys 0 0 e.cecnt

/-- The entry of a logical register bank: the live physical banks serve logical banks 0 to L - 1 in ascending order
(R38), and the others are retired. -/
def Die.regBankWord (d : Die) (bench elem unit : Nat) : DWord :=
  let e (k : Nat) : BankEntry := d.bank (bankKey 1 bench elem k)
  match ((upTo 4).filter (fun k => (e k).state != 3))[unit]? with
  | some k => entryWord (if k = unit then 0 else 1) k 0 0 (e k).cecnt
  | none => entryWord 3 unit 0 0 (e unit).cecnt

/-- BMAPRD: the entry that BMAPSEL selects (R230). -/
def State.bmaprd (s : State) (sel : Nat) : DWord :=
  let cls := bits sel 61 3
  let die := s.die (bits sel 59 2)
  let bench := bits sel 51 8
  let elem := bits sel 47 4
  let unit := bits sel 37 10
  let none7 := entryWord 7 0 0 0 0
  match cls with
  | 0 => if 8 ≤ unit then none7 else (die.bank (bankKey 0 bench elem unit)).word
  | 1 => if 4 ≤ unit then none7 else die.regBankWord bench elem unit
  | 2 =>
    if 4 ≤ unit ∨ elem ≠ 0 then none7
    else
      let lost := die.cacheBanksLost.getD bench []
      { die.bank (bankKey 2 bench 0 unit) with state := if lost.contains unit then 3 else 0 }.word
  | 3 => if bench ≠ 0 ∨ elem ≠ 0 then none7 else (die.bank (bankKey 3 0 0 unit)).word
  | 4 =>
    if bench ≠ 0 ∨ elem ≠ 0 ∨ 192 ≤ unit then none7
    else { die.bank (bankKey 4 0 0 unit) with state := if die.channelsLost.contains unit then 3 else 0 }.word
  | _ => none7

end Sys2Proof.Machine
end

