-- ==== Sys2Proof/Machine/Operands.lean ====
section
/-! DEFINITION. Every operand form of the element operations: reading registers, masks and channels,
punctuation, the header and destination of a result (R122, R180 to R184). -/

namespace Sys2Proof.Machine

/-- What a slot of an issuing bundle sees: the state before any result of the bundle (R99). -/
structure View where
  f : Focus
  reg : Region
  bench : Bench
  el : Element
  rec_ : ElemRec
  op : Instr
  /-- Local memory banks of the element that are lost (R231). -/
  lostLocal : List Nat

/-- The local memory banks of an element that are lost. -/
def State.lostLocal (s : State) (die bench elem : Nat) : List Nat :=
  (upTo 8).filter (fun k => (s.die die).lostUnit (bankKey 0 bench elem k))

/-- The view of the slot in focus, when its element exists. -/
def State.view (s : State) (i : Instr) : Option View :=
  match s.regions.find? s.focus.region with
  | none => none
  | some x =>
    match x.benches.find? s.focus.bench with
    | none => none
    | some b =>
      match b.elems.find? s.focus.elem with
      | none => none
      | some e =>
        some ⟨s.focus, x, b, e, b.rec_ s.focus.elem, i,
          s.lostLocal x.place.die (x.dieBench s.focus.bench) s.focus.elem⟩

/-- Effects entered among those of the cycle, for the slot in focus. -/
def State.enter (s : State) (effs : List Eff) : State :=
  s.updReg s.focus.region (fun x =>
    { x with fab := { x.fab with issues := x.fab.issues ++ [⟨s.focus.bench, s.focus.elem, s.focus.slot, effs⟩] } })

/-- An element operation: its slot's effects join those of the cycle. -/
def State.elemOp (s : State) (i : Instr) (f : View → List Eff) : State :=
  match s.view i with
  | none => s
  | some v => s.enter (f v)

/-- An operand as read. -/
structure Src where
  val : Payload
  err : Bool
  tok : Option (Nat × Token)

/-- The channel table entry of a channel. -/
def View.chan (v : View) (n : Nat) : Option Chan := v.rec_.chans.find? n

/-- The token at the head of an input. -/
def View.head (v : View) (n : Nat) : Option Token := (v.el.bufs.getD n []).head?

/-- An effect on the iteration context of a kernel slot (R182, R183, R203). -/
def Ctx.after (k : Nat) (c : Ctx) : Eff → Ctx
  | .ctxRT j round tag => if j = k then { c with cround := round, ctag := tag } else c
  | .ctxTag j n => if j = k then { c with ntag := n, ctag := n } else c
  | .marker j n => if j = k then { c with cround := n + 1 } else c
  | _ => c

/-- The iteration context of a kernel slot after the slots of the bundle that come before. -/
def Region.ctxNow (x : Region) (b e k : Nat) : Ctx :=
  (x.fab.issues.filter (fun i => i.bench == b && i.elem == e)).foldl
    (fun c i => i.effs.foldl (Ctx.after k) c) (((x.bench b).elem e).ctxs.getD k .init)

/-- The iteration context of the slot's kernel. -/
def View.ctx (v : View) : Ctx := v.reg.ctxNow v.f.bench v.f.elem v.f.ksel

/-- A lane mask with its ERR; m0 is all ones (R179). -/
def View.mask (v : View) (m : LMask) : MaskReg :=
  if m = 0 then ⟨0xFFFF#16, false⟩ else v.el.masks.getD m.val .zero

/-- A register. -/
def View.regv (v : View) (n : Nat) : Reg := v.el.regs.getD n .zero

/-- An operand; an input whose buffer is empty reads a zero payload with no token. -/
def View.read (v : View) : Opnd → Src
  | .v n => ⟨(v.regv n.val).val, (v.regv n.val).err, none⟩
  | .ch n =>
    match v.head n.val with
    | some t => ⟨t.data, t.err, some (n.val, t)⟩
    | none => ⟨0#512, false, none⟩

/-- An operand that names an input whose buffer is empty. -/
def View.starved (v : View) : Opnd → Bool
  | .v _ => false
  | .ch n => (v.head n.val).isNone

/-- A destination operand. -/
def opndDst : Opnd → Dst
  | .v n => .reg n.val
  | .ch n => .chan n.val

/-- The destination is a channel. -/
def Dst.isChan : Dst → Bool
  | .chan _ => true
  | _ => false

/-- The record of R184: position and the headers of two tokens. -/
def View.raise (v : View) (cause : Nat) (toks : List Token) : Eff :=
  let tag := earliest v.ctx.ctag ((toks.filter (fun t => t.kind.isData)).map Token.tag)
  .raise (roundCause cause tag
    (posWord v.reg.place.die (v.reg.dieBench v.f.bench) v.f.elem v.f.phase v.f.slot (opByte v.op))
    ((toks.map Token.header).getD 0 0#64) ((toks.map Token.header).getD 1 0#64) 0#64)

/-- A read of an empty neighbour link raises link-schedule, 0x99 (R102). -/
def View.starve (v : View) : List Eff := [v.raise 0x99 []]

/-- The CHAN field of a token that leaves by a channel (R101). -/
def ElemRec.chanField (x : ElemRec) (n : Nat) : BitVec 8 :=
  match x.chans.find? n with
  | some c => BitVec.ofNat 8 (if c.kind = 1 then n else c.peer)
  | none => BitVec.ofNat 8 n

/-- A token as it leaves by a destination. -/
def View.outTok (v : View) (d : Dst) (t : Token) : Token :=
  match d with
  | .chan n => { t with chan := v.rec_.chanField n }
  | _ => t

/-- One result. -/
def View.result (v : View) (lat : Nat) (d : Dst) (lanes : BitVec 16) (t : Token) : Eff :=
  .result lat d (v.outTok d t) lanes

/-- The consumed tokens, in operand order, each channel once. -/
def consumedToks (srcs : List Src) : List (Nat × Token) :=
  srcs.foldl (fun acc x =>
    match x.tok with
    | some t => if acc.any (fun y => y.1 == t.1) then acc else acc ++ [t]
    | none => acc) []

/-- The context effects of the tokens consumed: ROUND and TAG of data, the next round after a marker or a switch
token (R182, R183; log entry 12). DESIGN CHOICE (log 99): of several tokens the last one in the order of the operands stands. -/
def View.ctxEffs (v : View) (toks : List Token) : List Eff :=
  toks.filterMap (fun t =>
    if t.kind.isData then some (.ctxRT v.f.ksel t.round t.tag)
    else if t.kind == .marker || t.kind == .switch then some (.marker v.f.ksel t.round)
    else if t.kind == .pass then some (.passEnd v.f.ksel)
    else none)

/-- The consumption of tokens and what it does to the kernel's context. -/
def View.consume (v : View) (toks : List (Nat × Token)) : List Eff :=
  toks.map (fun t => .consume t.1) ++ v.ctxEffs (toks.map Prod.snd)

/-- A data token whose round is not the current round of its input (R294). -/
def View.offRound (v : View) (t : Nat × Token) : Bool :=
  t.2.kind.isData && t.2.round != v.el.inRound.getD t.1 v.el.round0

/-- A stateful node on the heads that it looks at: one of a round other than its input's raises 0x90 (R294). -/
def View.onRound (v : View) (heads : List (Nat × Token)) (f : List Eff) : List Eff :=
  if heads.any v.offRound then [v.raise 0x90 (heads.map Prod.snd)] else f

/-- Punctuation as it is produced: with the OR of ERR of the tokens consumed with it (R182). -/
def Token.joined (t : Token) (ts : List Token) : Token := { t with err := ts.any Token.err }

/-- ROUND and TAG of a result: those of the first consumed data token, else the kernel's (R182). -/
def View.headerOf (v : View) (toks : List Token) : BitVec 24 × BitVec 24 :=
  match toks.find? (fun t => t.kind.isData) with
  | some t => (t.round, t.tag)
  | none => (v.ctx.cround, v.ctx.ctag)

/-- Tokens that carry ERR and end here: reported to the couch unit (R355). -/
def sinkEffs (toks : List Token) : List Eff :=
  (toks.filter Token.err).map (fun t => .sink t.round t.tag)

/-- What an operation writes: destination, payload, and the lanes a register takes. -/
structure Out where
  dst : Dst
  val : Payload
  lanes : BitVec 16

/-- The rule of R182 and R183 for an operation that computes: `f` gets the operand payloads and the lane
mask; `d` is the destination that punctuation passes to. -/
def View.run (v : View) (lat : Nat) (d : Option Dst) (srcs : List Opnd) (m : LMask)
    (f : List Payload → BitVec 16 → List Out × Flags) : List Eff :=
  if srcs.any v.starved then v.starve
  else
    let rs := srcs.map v.read
    let toks := consumedToks rs
    let ts := toks.map Prod.snd
    let mk := v.mask m
    if ts.all (fun t => t.kind.isData) then
      let err := mk.err || rs.any Src.err
      let (round, tag) := v.headerOf ts
      let (outs, flags) := f (rs.map Src.val) mk.val
      let toChan := outs.any (fun o => o.dst.isChan)
      v.consume toks
        ++ outs.map (fun o => v.result lat o.dst o.lanes ⟨.data, err, round, tag, 0#8, o.val⟩)
        ++ (if err || flags == 0#8 then [] else [.flags round flags])
        ++ (if toChan then [] else sinkEffs ts)
    else
      match ts with
      | t :: rest =>
        if !t.kind.isData && rest.all t.samePunct then
          v.consume toks ++ (match d with
            | some (.chan n) => [v.result lat (.chan n) 0xFFFF#16 (t.joined ts)]
            | _ => [])
        else [v.raise 0x90 ts]
      | [] => [v.raise 0x90 ts]

/-- An operation with one destination operand. -/
def View.run1 (v : View) (lat : Nat) (d : Opnd) (srcs : List Opnd) (m : LMask)
    (f : List Payload → BitVec 16 → Payload × Flags) : List Eff :=
  v.run lat (some (opndDst d)) srcs m (fun ps mk => let r := f ps mk; ([⟨opndDst d, r.1, mk⟩], r.2))

/-- Lane by lane, in the selected lanes; the others are zero (R180). -/
def laneMap (m : BitVec 16) (f : Nat → Word × Flags) : Payload × Flags :=
  let rs := (upTo 16).map (fun i => if bit m.toNat i then f i else (0#32, 0#8))
  (ofLanes (fun i => (rs.getD i (0#32, 0#8)).1), rs.foldl (fun g r => g ||| r.2) 0#8)

/-- Operand k of a list of payloads. -/
def arg (ps : List Payload) (k : Nat) : Payload := ps.getD k 0#512

/-- One source, lane by lane. -/
def View.lanes1 (v : View) (lat : Nat) (d a : Opnd) (m : LMask) (f : Word → Word × Flags) : List Eff :=
  v.run1 lat d [a] m (fun ps mk => laneMap mk (fun i => f (lane (arg ps 0) i)))

/-- Two sources, lane by lane. -/
def View.lanes2 (v : View) (lat : Nat) (d a b : Opnd) (m : LMask) (f : Word → Word → Word × Flags) : List Eff :=
  v.run1 lat d [a, b] m (fun ps mk => laneMap mk (fun i => f (lane (arg ps 0) i) (lane (arg ps 1) i)))

/-- Two sources and the destination, read as a third (R122). -/
def View.lanes3 (v : View) (lat : Nat) (d a b : Opnd) (m : LMask) (f : Word → Word → Word → Word × Flags) :
    List Eff :=
  v.run1 lat d [a, b, d] m (fun ps mk =>
    laneMap mk (fun i => f (lane (arg ps 0) i) (lane (arg ps 1) i) (lane (arg ps 2) i)))

/-- The operands an integer source names. -/
def iargSrcs : IArg → List Opnd
  | .opnd o => [o]
  | .imm _ => []

/-- The value of an integer source in a lane: the operand's, or the immediate, sign-extended unless N (R123). -/
def iargWord (b : IArg) (n : Bool) (p : Payload) (i : Nat) : Word :=
  match b with
  | .opnd _ => lane p i
  | .imm x => if n then x.setWidth 32 else x.signExtend 32

/-- An integer operation of R188, lane by lane. -/
def View.lanesI (v : View) (lat : Nat) (n : Bool) (d a : Opnd) (b : IArg) (m : LMask)
    (f : Word → Word → Word × Flags) : List Eff :=
  v.run1 lat d (a :: iargSrcs b) m (fun ps mk =>
    laneMap mk (fun i => f (lane (arg ps 0) i) (iargWord b n (arg ps 1) i)))

end Sys2Proof.Machine
end

