-- ==== Sys2Proof/Machine/ElemCompute.lean ====
section
/-! DEFINITION. Floating-point, integer, conversion, lane-group and lane-movement operations of the
elements (R185 to R196), with the latencies of R205. -/

namespace Sys2Proof.Machine

/-- The answer of every meaning: a next state. -/
abbrev Answer := Host.Outcome State Fault Refusal

/-- A lane function that raises no flag. -/
def noFlags (f : Word → Word → Word) (a b : Word) : Word × Flags := (f a b, 0#8)

/-! ### Floating point (R185 to R187) -/

def execFadd (d a b : Opnd) (m : LMask) (s : State) : Answer :=
  .next (s.elemOp (.fadd d a b m) (fun v => v.lanes2 4 d a b m faddW))

def execFsub (d a b : Opnd) (m : LMask) (s : State) : Answer :=
  .next (s.elemOp (.fsub d a b m) (fun v => v.lanes2 4 d a b m fsubW))

def execFmul (d a b : Opnd) (m : LMask) (s : State) : Answer :=
  .next (s.elemOp (.fmul d a b m) (fun v => v.lanes2 4 d a b m fmulW))

def execFma (d a b : Opnd) (m : LMask) (s : State) : Answer :=
  .next (s.elemOp (.fma d a b m) (fun v => v.lanes3 4 d a b m fmaW))

def execFmax (d a b : Opnd) (m : LMask) (s : State) : Answer :=
  .next (s.elemOp (.fmax d a b m) (fun v => v.lanes2 1 d a b m (noFlags fmaxW)))

def execFmin (d a b : Opnd) (m : LMask) (s : State) : Answer :=
  .next (s.elemOp (.fmin d a b m) (fun v => v.lanes2 1 d a b m (noFlags fminW)))

def execFabs (d a : Opnd) (m : LMask) (s : State) : Answer :=
  .next (s.elemOp (.fabs d a m) (fun v => v.lanes1 1 d a m (fun x => (fabsW x, 0#8))))

def execFneg (d a : Opnd) (m : LMask) (s : State) : Answer :=
  .next (s.elemOp (.fneg d a m) (fun v => v.lanes1 1 d a m (fun x => (fnegW x, 0#8))))

def execFrcp (d a : Opnd) (m : LMask) (s : State) : Answer :=
  .next (s.elemOp (.frcp d a m) (fun v => v.lanes1 6 d a m frcpW))

def execFrsq (d a : Opnd) (m : LMask) (s : State) : Answer :=
  .next (s.elemOp (.frsq d a m) (fun v => v.lanes1 6 d a m frsqW))

def execFexp2 (d a : Opnd) (m : LMask) (s : State) : Answer :=
  .next (s.elemOp (.fexp2 d a m) (fun v => v.lanes1 8 d a m fexp2W))

def execFlog2 (d a : Opnd) (m : LMask) (s : State) : Answer :=
  .next (s.elemOp (.flog2 d a m) (fun v => v.lanes1 8 d a m flog2W))

/-- An integer condition; UN and ORD with an integer type are reserved values (R187). -/
def icmp (c : FCond) (x y : Int) : Bool :=
  match c with
  | .eq => x == y
  | .ne => x != y
  | .lt => decide (x < y)
  | .le => decide (x ≤ y)
  | .un => false
  | .ord => true

/-- The condition of a lane (R187). -/
def cmpLane (c : FCond) (t : LType) (a b : Word) : Bool :=
  match t with
  | .f => fcmpW c a b
  | .i => icmp c a.toInt b.toInt
  | .n => icmp c a.toNat b.toNat

/-- Mask bits of the selected lanes, 0 elsewhere (R180). -/
def maskOf (m : BitVec 16) (f : Nat → Bool) : Payload :=
  BitVec.ofNat 512 (pack 1 (fun i => (bit m.toNat i && f i).toNat) 16)

def execFcmp (c : FCond) (t : LType) (md : LMask) (a b : Opnd) (m : LMask) (s : State) : Answer :=
  .next (s.elemOp (.fcmp c t md a b m) (fun v =>
    v.run 1 none [a, b] m (fun ps mk =>
      ([⟨.mask md.val, maskOf mk (fun i => cmpLane c t (lane (arg ps 0) i) (lane (arg ps 1) i)), 0xFFFF#16⟩], 0#8))))

/-! ### Integer and bit operations (R188, R189) -/

/-- A sum or difference clamped to the type's range, with SAT on a clamp. -/
def satLane (n : Bool) (x : Int) : Word × Flags :=
  let c := clampInt (intMin 32 n) (intMax 32 n) x
  (BitVec.ofInt 32 c, flagIf (c != x) fSAT)

/-- A lane as an integer of the type. -/
def laneInt (n : Bool) (a : Word) : Int := if n then (a.toNat : Int) else a.toInt

def execIadd (d a : Opnd) (b : IArg) (m : LMask) (s : State) : Answer :=
  .next (s.elemOp (.iadd d a b m) (fun v => v.lanesI 1 false d a b m (noFlags (· + ·))))

def execIsub (d a : Opnd) (b : IArg) (m : LMask) (s : State) : Answer :=
  .next (s.elemOp (.isub d a b m) (fun v => v.lanesI 1 false d a b m (noFlags (· - ·))))

def execIadds (n : Bool) (d a : Opnd) (b : IArg) (m : LMask) (s : State) : Answer :=
  .next (s.elemOp (.iadds n d a b m) (fun v =>
    v.lanesI 1 n d a b m (fun x y => satLane n (laneInt n x + laneInt n y))))

def execIsubs (n : Bool) (d a : Opnd) (b : IArg) (m : LMask) (s : State) : Answer :=
  .next (s.elemOp (.isubs n d a b m) (fun v =>
    v.lanesI 1 n d a b m (fun x y => satLane n (laneInt n x - laneInt n y))))

def execImul (d a : Opnd) (b : IArg) (m : LMask) (s : State) : Answer :=
  .next (s.elemOp (.imul d a b m) (fun v => v.lanesI 3 false d a b m (noFlags (· * ·))))

/-- Bits 63-32 of the product. -/
def mulhLane (n : Bool) (x y : Word) : Word :=
  BitVec.ofInt 32 (laneInt n x * laneInt n y / 2 ^ 32)

def execImulh (n : Bool) (d a : Opnd) (b : IArg) (m : LMask) (s : State) : Answer :=
  .next (s.elemOp (.imulh n d a b m) (fun v => v.lanesI 3 n d a b m (noFlags (mulhLane n))))

def execImin (n : Bool) (d a : Opnd) (b : IArg) (m : LMask) (s : State) : Answer :=
  .next (s.elemOp (.imin n d a b m) (fun v =>
    v.lanesI 1 n d a b m (noFlags (fun x y => if laneInt n y < laneInt n x then y else x))))

def execImax (n : Bool) (d a : Opnd) (b : IArg) (m : LMask) (s : State) : Answer :=
  .next (s.elemOp (.imax n d a b m) (fun v =>
    v.lanesI 1 n d a b m (noFlags (fun x y => if laneInt n x < laneInt n y then y else x))))

def execIabs (d a : Opnd) (m : LMask) (s : State) : Answer :=
  .next (s.elemOp (.iabs d a m) (fun v => v.lanes1 1 d a m (fun x => satLane false x.toInt.natAbs)))

def execEAnd (d a : Opnd) (b : IArg) (m : LMask) (s : State) : Answer :=
  .next (s.elemOp (.eAnd d a b m) (fun v => v.lanesI 1 false d a b m (noFlags (· &&& ·))))

def execEOr (d a : Opnd) (b : IArg) (m : LMask) (s : State) : Answer :=
  .next (s.elemOp (.eOr d a b m) (fun v => v.lanesI 1 false d a b m (noFlags (· ||| ·))))

def execEXor (d a : Opnd) (b : IArg) (m : LMask) (s : State) : Answer :=
  .next (s.elemOp (.eXor d a b m) (fun v => v.lanesI 1 false d a b m (noFlags (· ^^^ ·))))

def execEAndn (d a : Opnd) (b : IArg) (m : LMask) (s : State) : Answer :=
  .next (s.elemOp (.eAndn d a b m) (fun v => v.lanesI 1 false d a b m (noFlags (fun x y => x &&& ~~~y))))

/-- The shift amount of a lane: bits 4-0 (R188). -/
def shAmt (y : Word) : Nat := y.toNat % 32

def execEShl (d a : Opnd) (b : IArg) (m : LMask) (s : State) : Answer :=
  .next (s.elemOp (.eShl d a b m) (fun v => v.lanesI 1 false d a b m (noFlags (fun x y => x <<< shAmt y))))

def execEShr (d a : Opnd) (b : IArg) (m : LMask) (s : State) : Answer :=
  .next (s.elemOp (.eShr d a b m) (fun v => v.lanesI 1 false d a b m (noFlags (fun x y => x >>> shAmt y))))

def execESra (d a : Opnd) (b : IArg) (m : LMask) (s : State) : Answer :=
  .next (s.elemOp (.eSra d a b m) (fun v => v.lanesI 1 false d a b m (noFlags (fun x y => x.sshiftRight (shAmt y)))))

/-- FSHR of a lane: bits 31-0 of (a ‖ b) >> s. -/
def fshrLane (a b : Word) (n : Nat) : Word := BitVec.ofNat 32 ((a.toNat * 2 ^ 32 + b.toNat) / 2 ^ n)

/-- FSHL of a lane: bits 63-32 of (a ‖ b) << s. -/
def fshlLane (a b : Word) (n : Nat) : Word := BitVec.ofNat 32 ((a.toNat * 2 ^ 32 + b.toNat) * 2 ^ n / 2 ^ 32)

/-- A funnel shift by an immediate, or by the destination's lane (R189). -/
def View.funnel (v : View) (d a b : Opnd) (n : Option (Fin 32)) (m : LMask) (f : Word → Word → Nat → Word) :
    List Eff :=
  match n with
  | some k => v.lanes2 1 d a b m (noFlags (fun x y => f x y k.val))
  | none => v.lanes3 1 d a b m (fun x y z => (f x y (shAmt z), 0#8))

def execEFshr (d a b : Opnd) (n : Option (Fin 32)) (m : LMask) (s : State) : Answer :=
  .next (s.elemOp (.eFshr d a b n m) (fun v => v.funnel d a b n m fshrLane))

def execEFshl (d a b : Opnd) (n : Option (Fin 32)) (m : LMask) (s : State) : Answer :=
  .next (s.elemOp (.eFshl d a b n m) (fun v => v.funnel d a b n m fshlLane))

def execEClz (d a : Opnd) (m : LMask) (s : State) : Answer :=
  .next (s.elemOp (.eClz d a m) (fun v =>
    v.lanes1 1 d a m (fun x => (BitVec.ofNat 32 (clzNat 32 x.toNat), 0#8))))

def execEPopc (d a : Opnd) (m : LMask) (s : State) : Answer :=
  .next (s.elemOp (.ePopc d a m) (fun v =>
    v.lanes1 1 d a m (fun x => (BitVec.ofNat 32 (popNat x.toNat 32), 0#8))))

/-- Operands that a field argument names. -/
def fieldSrcs : FieldArg → List Opnd
  | .opnd o => [o]
  | .imm _ _ => []

/-- Position and length of a field in a lane (R189). -/
def fieldPosLen (f : FieldArg) (y : Word) : Nat × Nat :=
  match f with
  | .opnd _ => (y.toNat % 32, y.toNat / 2 ^ 8 % 32 + 1)
  | .imm len1 pos => (pos.val, len1.val + 1)

def bextLane (a : Word) (pos len : Nat) : Word := BitVec.ofNat 32 (a.toNat / 2 ^ pos % 2 ^ len)

def bdepLane (d a : Word) (pos len : Nat) : Word :=
  let f : Word := BitVec.ofNat 32 ((2 ^ len - 1) * 2 ^ pos)
  (d &&& ~~~f) ||| ((a <<< pos) &&& f)

def execBext (d a : Opnd) (f : FieldArg) (m : LMask) (s : State) : Answer :=
  .next (s.elemOp (.bext d a f m) (fun v =>
    v.run1 1 d (a :: fieldSrcs f) m (fun ps mk => laneMap mk (fun i =>
      let pl := fieldPosLen f (lane (arg ps 1) i)
      (bextLane (lane (arg ps 0) i) pl.1 pl.2, 0#8)))))

def execBdep (d a : Opnd) (f : FieldArg) (m : LMask) (s : State) : Answer :=
  .next (s.elemOp (.bdep d a f m) (fun v =>
    v.run1 1 d (a :: d :: fieldSrcs f) m (fun ps mk => laneMap mk (fun i =>
      let pl := fieldPosLen f (lane (arg ps 2) i)
      (bdepLane (lane (arg ps 1) i) (lane (arg ps 0) i) pl.1 pl.2, 0#8)))))

/-! ### Conversion and quantisation (R190 to R193) -/

/-- The values of a conversion whose destination lane is selected (R190). -/
def cvtPayload (sf df : Fmt) (sat : Bool) (rm : RMode) (p : Payload) (m : BitVec 16) : Payload × Flags :=
  let w := if sf.bits < df.bits then df.bits else sf.bits
  let n := 512 / w
  let rs := (upTo n).map (fun j =>
    if bit m.toNat (laneOf df.bits j) then convert sf df sat rm (value p sf.bits j) else (0, 0#8))
  (ofValues df.bits n (fun j => (rs.getD j (0, 0#8)).1), rs.foldl (fun g r => g ||| r.2) 0#8)

def execCvt (sf df : Fmt) (sat : Bool) (rm : RMode) (d a : Opnd) (m : LMask) (s : State) : Answer :=
  .next (s.elemOp (.cvt sf df sat rm d a m) (fun v =>
    v.run1 2 d [a] m (fun ps mk => cvtPayload sf df sat rm (arg ps 0) mk)))

def execQnt (df : Fmt) (sreg : Fin 16) (ws : Bool) (rm : RMode) (d a b : Opnd) (m : LMask) (s : State) : Answer :=
  .next (s.elemOp (.qnt df sreg ws rm d a b m) (fun v =>
    v.run 4 (some (opndDst d)) [a, b] m (fun ps mk =>
      let old := (v.el.scales.getD sreg.val 0#8).toNat
      let r := qntGroup df ws rm old (arg ps 0) (arg ps 1) mk
      let out : Out := ⟨opndDst d, r.1, 0xFFFF#16⟩
      (if ws then [out, ⟨.scale sreg.val, BitVec.ofNat 512 r.2.1, 0xFFFF#16⟩] else [out], r.2.2))))

/-- The base scale register of a DQNT: SREG, or the channel's SCALE field (R192). -/
def View.scaleBase (v : View) (sreg : Fin 16) : Opnd → Nat
  | .v _ => sreg.val
  | .ch n => (v.chan n.val).elim 0 Chan.scale

def execDqnt (sf : Fmt) (sreg : Fin 16) (part : Fin 8) (d a : Opnd) (m : LMask) (s : State) : Answer :=
  .next (s.elemOp (.dqnt sf sreg part d a m) (fun v =>
    v.run1 2 d [a] m (fun ps mk =>
      let k := 16 * part.val
      let sc := (v.el.scales.getD ((v.scaleBase sreg a + k / 32) % 16) 0#8).toNat
      let r := laneMap mk (fun i => dqntLane sf sc (arg ps 0) (k + i))
      (r.1, r.2 ||| flagIf (sc == 0xFF && mk == 0#16) fNSC))))

def execOutl (d a : Opnd) (m : LMask) (s : State) : Answer :=
  .next (s.elemOp (.outl d a m) (fun v => v.lanes1 2 d a m outlLane))

/-! ### Lane groups (R194) -/

/-- The lanes of the group of lane i that take part, group size 2^(n + 1). -/
def groupLanes (n : Fin 4) (m : BitVec 16) (i : Nat) : List Nat :=
  let g := 2 ^ (n.val + 1)
  ((upTo g).map (fun j => i / g * g + j)).filter (fun j => bit m.toNat j)

/-- Greater or lesser of two lanes. -/
def pick2 (t : LType) (greater : Bool) (a b : Word) : Word :=
  match t with
  | .f => if greater then fmaxW a b else fminW a b
  | .i => if (a.toInt < b.toInt) = greater then b else a
  | .n => if (a.toNat < b.toNat) = greater then b else a

/-- The maximum or minimum of a nonempty list. A single NaN gives the canonical NaN, as FMAX of it with
itself does. -/
def pickAll (t : LType) (greater : Bool) : List Word → Word
  | [] => 0#32
  | w :: ws => ws.foldl (pick2 t greater) (pick2 t greater w w)

/-- A sum of lanes (R194). -/
def sumAll (t : LType) (sat : Bool) (ws : List Word) : Word × Flags :=
  match t with
  | .f => fsumW ws
  | .i =>
    let x := ws.foldl (fun (acc : Int) w => acc + w.toInt) 0
    if sat then satLane false x else (BitVec.ofInt 32 x, 0#8)
  | .n =>
    let x := ws.foldl (fun (acc : Int) w => acc + (w.toNat : Int)) 0
    if sat then satLane true x else (BitVec.ofInt 32 x, 0#8)

def execGmax (n : Fin 4) (t : LType) (d a : Opnd) (m : LMask) (s : State) : Answer :=
  .next (s.elemOp (.gmax n t d a m) (fun v =>
    v.run1 2 d [a] m (fun ps mk => laneMap mk (fun i =>
      (pickAll t true ((groupLanes n mk i).map (lane (arg ps 0))), 0#8)))))

def execGmin (n : Fin 4) (t : LType) (d a : Opnd) (m : LMask) (s : State) : Answer :=
  .next (s.elemOp (.gmin n t d a m) (fun v =>
    v.run1 2 d [a] m (fun ps mk => laneMap mk (fun i =>
      (pickAll t false ((groupLanes n mk i).map (lane (arg ps 0))), 0#8)))))

def execGsum (n : Fin 4) (t : LType) (sat : Bool) (d a : Opnd) (m : LMask) (s : State) : Answer :=
  .next (s.elemOp (.gsum n t sat d a m) (fun v =>
    v.run1 4 d [a] m (fun ps mk => laneMap mk (fun i =>
      sumAll t sat ((groupLanes n mk i).map (lane (arg ps 0)))))))

def execGscan (n : Fin 4) (t : LType) (sat : Bool) (d a : Opnd) (m : LMask) (s : State) : Answer :=
  .next (s.elemOp (.gscan n t sat d a m) (fun v =>
    v.run1 4 d [a] m (fun ps mk => laneMap mk (fun i =>
      sumAll t sat (((groupLanes n mk i).filter (fun j => j ≤ i)).map (lane (arg ps 0)))))))

/-! ### Lane movement (R195, R196) -/

/-- Lane i of a SHUF. -/
def shufLane (k : ShufKind) (a b : Payload) (i : Nat) : Word :=
  let c (j : Nat) : Word := if j < 16 then lane a j else lane b (j - 16)
  match k with
  | .rot r => c ((i + r.val) % 32)
  | .perm => lane a ((lane b i).toNat % 16)
  | .zlo => if i % 2 = 0 then lane a (i / 2) else lane b (i / 2)
  | .zhi => if i % 2 = 0 then lane a (8 + i / 2) else lane b (8 + i / 2)
  | .uze => c (2 * i)
  | .uzo => c (2 * i + 1)

def execShuf (k : ShufKind) (d a b : Opnd) (m : LMask) (s : State) : Answer :=
  .next (s.elemOp (.shuf k d a b m) (fun v =>
    v.run1 1 d [a, b] m (fun ps mk => laneMap mk (fun i => (shufLane k (arg ps 0) (arg ps 1) i, 0#8)))))

def execSplat (d : Opnd) (src : SplatSrc) (m : LMask) (s : State) : Answer :=
  .next (s.elemOp (.splat d src m) (fun v =>
    match src with
    | .lane a l => v.run1 1 d [a] m (fun ps mk => laneMap mk (fun _ => (lane (arg ps 0) l.val, 0#8)))
    | .imm x => v.run1 1 d [] m (fun _ mk => laneMap mk (fun _ => (x.signExtend 32, 0#8)))))

/-- SEL also reads the mask mS, whose ERR joins the result's (R182). -/
def execESel (ms : LMask) (d a b : Opnd) (m : LMask) (s : State) : Answer :=
  .next (s.elemOp (.eSel ms d a b m) (fun v =>
    let mk' := v.mask ms
    let effs := v.run1 1 d [a, b] m (fun ps mk => laneMap mk (fun i =>
      (if bit mk'.val.toNat i then lane (arg ps 0) i else lane (arg ps 1) i, 0#8)))
    effs.map (fun e =>
      match e with
      | .result lat dst t lanes => .result lat dst { t with err := t.err || (mk'.err && t.kind.isData) } lanes
      | e => e)))

end Sys2Proof.Machine
end

