-- ==== Sys2Proof/Machine/ElemToken.lean ====
section
/-! DEFINITION. Token operations (R197 to R204). -/

namespace Sys2Proof.Machine

/-- An operand as a token: the head of an input, or a data token of the kernel's context from a register. -/
def View.asTok (v : View) (o : Opnd) : Token :=
  let r := v.read o
  match r.tok with
  | some t => t.2
  | none => ⟨.data, r.err, v.ctx.cround, v.ctx.ctag, 0#8, r.val⟩

/-- The channel of an operand, with its token, when it consumes one. -/
def View.taken (v : View) (o : Opnd) : List (Nat × Token) := (v.read o).tok.toList

/-- The tokens that two operands consume; a channel named twice is consumed once (R99). -/
def View.both (v : View) (a b : Opnd) : List (Nat × Token) := consumedToks [v.read a, v.read b]

/-- An operand is a register. -/
def Opnd.isReg : Opnd → Bool
  | .v _ => true
  | .ch _ => false

/-- A token sent by a destination; punctuation is never written to a register (R183). -/
def View.send (v : View) (d : Dst) (t : Token) : List Eff :=
  if t.kind.isData || d.isChan then [v.result 1 d 0xFFFF#16 t] else []

/-- The control value of R199: bits 31-0 of lane 0 are not zero. -/
def control (t : Token) : Bool := lane t.data 0 != 0#32

/-- STEER and GATE (R199): `out` routes a data token by the control value, `punct` routes punctuation. DESIGN CHOICE (log 100):
operand a may be a register, and counts as a data token of the kernel's context. -/
def View.steer (v : View) (a b : Opnd) (out : Bool → Token → List Eff) (punct : Token → List Eff) : List Eff :=
  if v.starved a || v.starved b then v.starve
  else
    let ta := v.asTok a
    let tb := v.asTok b
    let breg := (v.read b).tok.isNone
    if ta.kind.isData && (breg || tb.kind.isData) then
      if !breg && (ta.round != tb.round || ta.tag != tb.tag) then [v.raise 0x91 [ta, tb]]
      else
        v.consume (v.both a b) ++ out (control tb) { ta with err := ta.err || tb.err }
    else if !ta.kind.isData && (breg || tb.samePunct ta) then
      v.consume (v.both a b) ++ punct (ta.joined ((v.both a b).map Prod.snd))
    else [v.raise 0x90 ((v.both a b).map Prod.snd)]

/-- Of the tokens consumed, those that do not go on with operand `a` (R355): a control token ends at its STEER. -/
def View.controlSink (v : View) (a b : Opnd) : List Eff :=
  sinkEffs (((v.both a b).drop (v.taken a).length).map Prod.snd)

def execSteer (d : Opnd) (f : Fin 32) (a b : Opnd) (s : State) : Answer :=
  .next (s.elemOp (.steer d f a b) (fun v =>
    v.steer a b
      (fun c t => v.send (if c then opndDst d else .chan f.val) t ++ v.controlSink a b)
      (fun t => v.send (opndDst d) t ++ v.send (.chan f.val) t)))

def execGate (sense : Bool) (d a b : Opnd) (s : State) : Answer :=
  .next (s.elemOp (.gate sense d a b) (fun v =>
    v.steer a b
      (fun c t => if c = !sense then v.send (opndDst d) t else sinkEffs ((v.both a b).map Prod.snd))
      (fun t => v.send (opndDst d) t)))

/-- Which of two heads the tag-order merge takes, or why it raises (R200). -/
inductive Pick where
  | left | right | both
  | raise (cause : Nat)
  deriving DecidableEq, Repr

/-- The choice of MERGE.T (R200). -/
def pickTag (a b : Token) : Pick :=
  if a.kind.isData && b.kind.isData then
    if a.round != b.round || a.tag == b.tag || unordered a.tag b.tag then .raise 0x91
    else if precedes a.tag b.tag then .left else .right
  else if a.kind.isData then (if a.round == b.round then .left else .raise 0x90)
  else if b.kind.isData then (if a.round == b.round then .right else .raise 0x90)
  else if a.kind == b.kind && a.round == b.round then .both
  else .raise 0x90

def execMergeT (d a b : Opnd) (s : State) : Answer :=
  .next (s.elemOp (.mergeT d a b) (fun v =>
    if v.starved a || v.starved b then v.starve
    else
      let ta := v.asTok a
      let tb := v.asTok b
      v.onRound (v.both a b)
        (match pickTag ta tb with
        | .left => v.consume (v.taken a) ++ v.send (opndDst d) ta
        | .right => v.consume (v.taken b) ++ v.send (opndDst d) tb
        | .both => (v.both a b).map (fun t => .consume t.1) ++ v.ctxEffs [ta]
            ++ v.send (opndDst d) (ta.joined [ta, tb])
        | .raise c => [v.raise c [ta, tb]])))

def execMergeC (d a b : Opnd) (c : Fin 32) (s : State) : Answer :=
  .next (s.elemOp (.mergeC d a b c) (fun v =>
    if v.starved (.ch c) then v.starve
    else
      let tc := v.asTok (.ch c)
      if tc.kind.isData then
        let o := if control tc then a else b
        if v.starved o then v.starve
        else
          let t := v.asTok o
          v.onRound (v.both (.ch c) o)
            (if !t.kind.isData then [v.raise 0x90 [tc, t]]
            else if t.round != tc.round || t.tag != tc.tag then [v.raise 0x91 [tc, t]]
            else
              v.consume (v.both (.ch c) o) ++ v.send (opndDst d) { t with err := t.err || tc.err }
                ++ v.controlSink o (.ch c))
      else if v.starved a || v.starved b then v.starve
      else
        let ta := v.asTok a
        let tb := v.asTok b
        if ta.kind == tc.kind && tb.kind == tc.kind && ta.round == tc.round && tb.round == tc.round then
          (v.taken (.ch c) ++ v.both a b).map (fun t => .consume t.1) ++ v.ctxEffs [tc]
            ++ v.send (opndDst d) (tc.joined [tc, ta, tb])
        else [v.raise 0x90 [tc, if ta.kind == tc.kind then tb else ta]]))

/-- A switch token paired with a round marker of the same round matches it (R201). -/
def joinPunct (a b : Token) : Option Token :=
  if a.round != b.round then none
  else if a.kind == b.kind then some a
  else if a.kind == .switch && b.kind == .marker then some a
  else if a.kind == .marker && b.kind == .switch then some b
  else none

def execJoin (pick : Bool) (d a b : Opnd) (s : State) : Answer :=
  .next (s.elemOp (.join pick d a b) (fun v =>
    if v.starved a || v.starved b then v.starve
    else
      let ta := v.asTok a
      let tb := v.asTok b
      let both := v.both a b
      if ta.kind.isData && tb.kind.isData then
        v.onRound both
          (if ta.round != tb.round || ta.tag != tb.tag then [v.raise 0x91 [ta, tb]]
          else
            v.consume both ++ v.send (opndDst d)
              ⟨.data, ta.err || tb.err, ta.round, ta.tag, 0#8, if pick then tb.data else ta.data⟩
              ++ (if (opndDst d).isChan then [] else sinkEffs (both.map Prod.snd)))
      else if !ta.kind.isData && !tb.kind.isData then
        match joinPunct ta tb with
        | some t => both.map (fun x => .consume x.1) ++ v.ctxEffs [t] ++ v.send (opndDst d) (t.joined [ta, tb])
        | none => [v.raise 0x90 [ta, tb]]
      else
        let p := if ta.kind.isData then tb else ta
        if ta.round == tb.round && p.kind == .switch then [v.raise 0x97 [ta, tb]]
        else [v.raise 0x90 [ta, tb]]))

def execFork (d : Opnd) (y : Fin 32) (a : Opnd) (s : State) : Answer :=
  .next (s.elemOp (.fork d y a) (fun v =>
    if v.starved a then v.starve
    else
      let t := v.asTok a
      v.consume (v.taken a) ++ v.send (opndDst d) t ++ v.send (.chan y.val) t))

/-- The copy of a payload under the lane mask (R180, R198). -/
def View.move (v : View) (d a : Opnd) (m : LMask) : List Eff :=
  v.run1 1 d [a] m (fun ps mk => laneMap mk (fun i => (lane (arg ps 0) i, 0#8)))

def execMov (d a : Opnd) (m : LMask) (s : State) : Answer :=
  .next (s.elemOp (.mov d a m) (fun v => v.move d a m))

def execMark (d a b : Opnd) (s : State) : Answer :=
  .next (s.elemOp (.mark d a b) (fun v =>
    match (v.read b).tok with
    | some t =>
      if t.2.kind.isData then [v.raise 0x90 [t.2]]
      else v.consume [t] ++ v.send (opndDst d) t.2
    | none => v.move d a 0))

/-- The KIND of every data token among results becomes control (R198). -/
def asControl (e : Eff) : Eff :=
  match e with
  | .result lat d t lanes => .result lat d (if t.kind.isData then { t with kind := .control } else t) lanes
  | e => e

def execCtltok (d a : Opnd) (s : State) : Answer :=
  .next (s.elemOp (.ctltok d a) (fun v => (v.move d a 0).map asControl))

/-- Iterations of a kernel in a round that slots before this one begin in this cycle. -/
def Region.beginning (x : Region) (kernel : Nat) (round : BitVec 24) : Nat :=
  ((x.fab.issues.flatMap (fun i => i.effs.filter (fun e =>
    match e with
    | .ctxTag k _ => x.kernelOf i.bench i.elem k == kernel && (x.ctxNow i.bench i.elem k).cround == round
    | _ => false)))).length

/-- The kernel of the slot may not begin another iteration in this round (R19, R203). -/
def View.full (v : View) : Bool :=
  let ker := v.reg.kernelOf v.f.bench v.f.elem v.f.ksel
  match v.reg.kernels.find? ker with
  | some k => decide (v.reg.place.rsize + 1 ≤ k.issued.getD v.ctx.cround.toNat 0 + v.reg.beginning ker v.ctx.cround)
  | none => false

def execTaggen (d : Opnd) (m : LMask) (s : State) : Answer :=
  .next (s.elemOp (.taggen d m) (fun v =>
    if v.full then [v.raise 0x9D []]
    else
      let n := v.ctx.ntag + 1
      let mk := v.mask m
      [.ctxTag v.f.ksel n,
        v.result 1 (opndDst d) mk.val
          ⟨.data, mk.err, v.ctx.cround, n, 0#8, (laneMap mk.val (fun _ => (n.setWidth 32, 0#8))).1⟩]))

/-- One lane of a counter: the new value and the carry (R204). -/
def cntLane (d a b : Word) : Word × Bool :=
  let t := d.toNat + a.toNat
  if b.toNat ≠ 0 ∧ b.toNat ≤ t then (BitVec.ofNat 32 (t - b.toNat), true) else (BitVec.ofNat 32 t, false)

def execCnt (mc : LMask) (d a b : Opnd) (m : LMask) (s : State) : Answer :=
  .next (s.elemOp (.cnt mc d a b m) (fun v =>
    v.run 1 (some (opndDst d)) [a, b, d] m (fun ps mk =>
      let f (i : Nat) := cntLane (lane (arg ps 2) i) (lane (arg ps 0) i) (lane (arg ps 1) i)
      let o : Out := ⟨opndDst d, (laneMap mk (fun i => ((f i).1, 0#8))).1, mk⟩
      (if mc = 0 then [o] else [o, ⟨.mask mc.val, maskOf mk (fun i => (f i).2), 0xFFFF#16⟩], 0#8))))

end Sys2Proof.Machine
end

