-- ==== Sys2Proof/Machine/ElemAddr.lean ====
section
/-! DEFINITION. Stream generators (R237 to R241). -/

namespace Sys2Proof.Machine

/-- Lane i of a descriptor, as a number. -/
def dlane (p : Payload) (i : Nat) : Nat := (lane p i).toNat

/-- BASE of a descriptor: 57 bits (R237). -/
def genBase (p : Payload) : Nat := dlane p 0 + dlane p 1 % 2 ^ 25 * 2 ^ 32

/-- LEN of a descriptor. -/
def genLen (p : Payload) : Nat := dlane p 2 % 128

/-- A descriptor is invalid (R237). -/
def genInvalid (win : Bool) (p : Payload) : Bool :=
  let hi := (upTo 7).any (fun i => dlane p (9 + i) != 0)
  let common := dlane p 1 / 2 ^ 25 != 0 || dlane p 2 / 2 ^ 7 != 0 || genLen p == 0 || decide (64 < genLen p) || hi
  if win then
    common || bits (dlane p 3) 0 16 == 0 || bits (dlane p 3) 16 16 == 0
      || (upTo 4).any (fun j => bits (dlane p 4) (8 * j) 8 == 0)
      || bits (dlane p 5) 0 8 == 0 || bits (dlane p 5) 8 8 == 0 || dlane p 6 / 2 ^ 16 != 0
  else common

/-- Dimension d of a window descriptor: IN, K, STR, DIL, PADL, PADR (R237). -/
structure WinDim where
  inn : Int
  k : Nat
  str : Int
  dil : Int
  padl : Int
  padr : Int

def winDim (p : Payload) (d : Nat) : WinDim :=
  { inn := bits (dlane p 3) (16 * d) 16
    k := bits (dlane p 4) (8 * d) 8
    str := bits (dlane p 4) (16 + 8 * d) 8
    dil := bits (dlane p 5) (8 * d) 8
    padl := bits (dlane p 5) (16 + 8 * d) 8
    padr := bits (dlane p 6) (8 * d) 8 }

/-- Output positions of a dimension (R239); the floor is taken toward minus infinity. -/
def WinDim.out (w : WinDim) : Int := (w.inn + w.padl + w.padr - w.dil * (w.k - 1) - 1) / w.str + 1

/-- The number of requests of a stream (R238, R239). -/
def genCount (win : Bool) (p : Payload) : Nat :=
  if win then
    let w0 := winDim p 0
    let w1 := winDim p 1
    if w0.out ≤ 0 ∨ w1.out ≤ 0 then 0 else w0.out.toNat * w1.out.toNat * w0.k * w1.k
  else dlane p 3 * dlane p 4 * dlane p 5

/-- The mirror of a coordinate outside the image (R239). -/
def mirror (inn x : Int) : Int :=
  if inn = 1 then 0
  else
    let per := 2 * (inn - 1)
    let m := x % per
    if inn ≤ m then per - m else m

/-- The request of a position: an address, or a pad word (R238, R239). -/
def genAddr (g : Gen) : Nat ⊕ Word :=
  let p := g.descr
  if g.win then
    let w0 := winDim p 0
    let w1 := winDim p 1
    let k0 := g.pos % w0.k
    let k1 := g.pos / w0.k % w1.k
    let o := g.pos / (w0.k * w1.k)
    let x0 : Int := (o % w0.out.toNat : Nat) * w0.str + k0 * w0.dil - w0.padl
    let x1 : Int := (o / w0.out.toNat : Nat) * w1.str + k1 * w1.dil - w1.padl
    let inside := decide (0 ≤ x0 ∧ x0 < w0.inn ∧ 0 ≤ x1 ∧ x1 < w1.inn)
    let at_ (y0 y1 : Int) : Nat :=
      wrapInt 64 (genBase p + y0 * sext 32 (dlane p 7) + y1 * sext 32 (dlane p 8))
    if inside then .inl (at_ x0 x1)
    else
      match g.mode with
      | 0 => .inr 0#32
      | 1 => .inr g.padval
      | 2 => .inl (at_ (clampInt 0 (w0.inn - 1) x0) (clampInt 0 (w1.inn - 1) x1))
      | _ => .inl (at_ (mirror w0.inn x0) (mirror w1.inn x1))
  else
    let c0 := dlane p 3
    let c1 := dlane p 4
    let i0 : Int := (g.pos % c0 : Nat)
    let i1 : Int := (g.pos / c0 % c1 : Nat)
    let i2 : Int := (g.pos / (c0 * c1) : Nat)
    .inl (wrapInt 64 (genBase p + i0 * sext 32 (dlane p 6) + i1 * sext 32 (dlane p 7) + i2 * sext 32 (dlane p 8)))

/-- The payload of a request (R242): a pad request carries its pad word. -/
def reqPayload (len : Nat) (a : Nat ⊕ Word) : Payload :=
  match a with
  | .inl x => ofValues 32 3 (fun i => if i = 0 then x else if i = 1 then x / 2 ^ 32 else len)
  | .inr w => ofValues 32 4 (fun i => if i = 2 then len + 2 ^ 7 else if i = 3 then w.toNat else 0)

/-- A generator of the element. -/
def View.gen (v : View) (g : Fin 4) : Gen := v.el.gens.getD g.val .init

/-- A generator after its position moved (R240, R241). -/
def Gen.moveTo (g : Gen) (pos k : Nat) : Gen :=
  { g with pos := pos % 2 ^ 64, exh := g.exh || decide (genCount g.win g.descr ≤ pos), owner := k }

/-- An operation on a generator whose source may be a channel: `f` answers the new generator, or none when
it raises descriptor-invalid (R240). -/
def View.genOp (v : View) (g : Fin 4) (a : Opnd) (f : Payload → Option Gen) : List Eff :=
  if v.starved a then v.starve
  else
    let r := v.read a
    let toks := r.tok.toList
    match toks with
    | [t] =>
      if t.2.kind.isData then
        match f r.val with
        | some x => v.consume toks ++ [.gen g.val x] ++ sinkEffs [t.2]
        | none => [v.raise 0x92 [t.2]]
      else v.consume toks
    | _ =>
      match f r.val with
      | some x => [.gen g.val x]
      | none => [v.raise 0x92 []]

def execAgrw (g : Fin 4) (win : Bool) (a : Opnd) (s : State) : Answer :=
  .next (s.elemOp (.agrw g win a) (fun v =>
    v.genOp g a (fun p =>
      if genInvalid win p then none
      else some { v.gen g with
        descr := p, win := win, pos := 0, exh := genCount win p == 0, owner := v.f.ksel })))

def execAgpad (g : Fin 4) (a : Opnd) (s : State) : Answer :=
  .next (s.elemOp (.agpad g a) (fun v =>
    v.genOp g a (fun p => some { v.gen g with mode := dlane p 0 % 4, padval := lane p 1, owner := v.f.ksel })))

def execAgstep (g : Fin 4) (n : StepArg) (s : State) : Answer :=
  .next (s.elemOp (.agstep g n) (fun v =>
    let x := v.gen g
    match n with
    | .imm k => [.gen g.val (x.moveTo (x.pos + k.val) v.f.ksel)]
    | .opnd a => v.genOp g a (fun p => some (x.moveTo (x.pos + dlane p 0) v.f.ksel))))

/-- AGEN and AGWIN (R241). -/
def View.emitReq (v : View) (win : Bool) (d : Opnd) (g : Fin 4) : List Eff :=
  let x := v.gen g
  if x.exh then
    match d with
    | .ch _ => [v.result 1 (opndDst d) 0xFFFF#16 ⟨.done, false, v.ctx.cround, v.ctx.ctag, 0#8, 0#512⟩]
    | .v _ => [v.result 1 (opndDst d) 0xFFFF#16 (.mkData v.ctx.cround v.ctx.ctag 0#512)]
  else if x.win != win then [v.raise 0x92 []]
  else
    let pos := x.pos + 1
    [v.result 1 (opndDst d) 0xFFFF#16 (.mkData v.ctx.cround v.ctx.ctag (reqPayload (genLen x.descr) (genAddr x))),
      .gen g.val { x with pos := pos, exh := pos == genCount x.win x.descr, owner := v.f.ksel }]

def execAgen (d : Opnd) (g : Fin 4) (s : State) : Answer :=
  .next (s.elemOp (.agen d g) (fun v => v.emitReq false d g))

def execAgwin (d : Opnd) (g : Fin 4) (s : State) : Answer :=
  .next (s.elemOp (.agwin d g) (fun v => v.emitReq true d g))

end Sys2Proof.Machine
end

