-- ==== Sys2Proof/Machine/ElemMem.lean ====
section
/-! DEFINITION. Memory-port operations and local memory (R242 to R248): what their issue does. What the
port does with a request afterwards stands in Port.lean. -/

namespace Sys2Proof.Machine

/-- Punctuation that passes to a destination with a latency; to a register it ends (R183). -/
def View.passTo (v : View) (lat : Nat) (d : Dst) (t : Token) : List Eff :=
  if d.isChan then [v.result lat d 0xFFFF#16 t] else []

/-- The rule of R183 for an operation whose effects are no plain results: `f` gets the operands as read, the
mask, the ERR and header of R182 and the consumed tokens; `punct` what punctuation does. -/
def View.runEff (v : View) (punct : Token → List Eff) (srcs : List Opnd) (m : LMask)
    (f : List Src → BitVec 16 → Bool → BitVec 24 × BitVec 24 → List Token → List Eff) : List Eff :=
  if srcs.any v.starved then v.starve
  else
    let rs := srcs.map v.read
    let toks := consumedToks rs
    let ts := toks.map Prod.snd
    let mk := v.mask m
    if ts.all (fun t => t.kind.isData) then
      v.consume toks ++ f rs mk.val (mk.err || rs.any Src.err) (v.headerOf ts) ts
    else
      match ts with
      | t :: rest =>
        if !t.kind.isData && rest.all t.samePunct then
          v.consume toks ++ punct (t.joined ts)
        else [v.raise 0x90 ts]
      | [] => [v.raise 0x90 ts]

/-- The payload of an operand of a list. -/
def pay (rs : List Src) (k : Nat) : Payload := (rs.map Src.val).getD k 0#512

/-- The position word of the slot (R184). -/
def View.pos (v : View) : DWord :=
  posWord v.reg.place.die (v.reg.dieBench v.f.bench) v.f.elem v.f.phase v.f.slot (opByte v.op)

/-- The tag a cause of the slot reports: the earliest of the data tokens, or CTAG (R184). -/
def View.trapTag (v : View) (toks : List Token) : BitVec 24 :=
  earliest v.ctx.ctag ((toks.filter (fun t => t.kind.isData)).map Token.tag)

/-! ### Requests and ranges (R212, R242) -/

/-- A request payload is malformed: a reserved bit is set or LEN exceeds 64 (R242); `bm` when BMASK counts. -/
def reqMalformed (bm : Bool) (p : Payload) : Bool :=
  decide (64 < dlane p 2 % 2 ^ 7) || dlane p 2 / 2 ^ 8 != 0 || (!bm && (dlane p 4 != 0 || dlane p 5 != 0))
    || (upTo 10).any (fun i => dlane p (6 + i) != 0)

/-- ADDR of a request. -/
def reqAddr (p : Payload) : Nat := dlane p 0 + dlane p 1 * 2 ^ 32

/-- The live range entries of a port: none when MEN is 0 (R36). -/
def BenchPlane.live (p : BenchPlane) : List Range := if p.men then p.ranges else []

/-- The range entry that holds every byte of an access (R212 step 1). -/
def rangeOf (plane : BenchPlane) (a n : Nat) : Option Range :=
  plane.live.find? (fun r => decide (r.base ≤ a ∧ a + n ≤ r.base + r.len))

/-- An access of a lane that has passed steps 1 and 2. -/
def accessAt (plane : BenchPlane) (a n lane : Nat) : Access :=
  let hit (r : Range) : Bool := decide (r.base ≤ a ∧ a + n ≤ r.base + r.len)
  ⟨a, n, lane, (plane.live.findIdx? hit).getD 0, (rangeOf plane a n).any Range.ver⟩

/-- PERM allows a kind of access: 0 read, 1 write, 2 atomic (R42, R212). -/
def permOk (perm kind : Nat) : Bool :=
  match kind with
  | 0 => bit perm 0
  | 1 => bit perm 1
  | _ => bit perm 2

/-- Steps 1 and 2 of R212: none when both pass, else the cause and TRAPINFO2. `named`: an MLD that names a round. -/
def portCheck (plane : BenchPlane) (stream kind : Nat) (named : Bool) (a n : Nat) : Option (Nat × Nat) :=
  match rangeOf plane a n with
  | none => some (0x44, stream)
  | some r =>
    if !permOk r.perm kind then some (0x45, kind)
    else if named && !r.ver then some (0x45, 2 ^ 9)
    else none

/-- The record of a fabric access (R234). -/
def View.portRaise (v : View) (toks : List Token) (cause addr info2 : Nat) : Eff :=
  .raise (roundCause cause (v.trapTag toks) (BitVec.ofNat 64 addr) v.pos (BitVec.ofNat 64 info2) 0#64)

/-- A request as it enters a queue. -/
def View.mkReq (v : View) (stream : Nat) (kind : ReqKind) (rt : BitVec 24 × BitVec 24) (err : Bool)
    (toks : List Token) : Request :=
  { stream := stream, kind := kind, round := rt.1, tag := rt.2, err := err, len := 0, pad := none, accs := [],
    lanes := 0xFFFF#16, bmask := 0#64, data := 0#512, state := .waiting, due := 0, seq := 0, pos := v.pos,
    ttag := v.trapTag toks, badIdx := [] }

/-- A request of MLD, MST or MSTM: no access when LEN is 0 or PAD is 1 (R243), else the checks of R212. -/
def View.plainReq (v : View) (r : Request) (kind : Nat) (named bm : Bool) (p : Payload) (toks : List Token) :
    List Eff :=
  if reqMalformed bm p then [v.raise 0x93 toks]
  else
    let len := dlane p 2 % 2 ^ 7
    let pad := bit (dlane p 2) 7
    let r := { r with len := len, pad := if pad then some (lane p 3) else none }
    if len = 0 ∨ pad = true then [.request { r with state := .translated }]
    else
      match portCheck v.bench.plane r.stream kind named (reqAddr p) len with
      | some (c, i2) => [v.portRaise toks c (reqAddr p) i2]
      | none => [.request { r with accs := [accessAt v.bench.plane (reqAddr p) len 0] }]

def execMld (st : Fin 16) (a : Opnd) (delta : Option (Fin 8)) (s : State) : Answer :=
  .next (s.elemOp (.mld st a delta) (fun v =>
    v.runEff (fun _ => []) [a] 0 (fun rs _ err rt ts =>
      let named := delta.map (fun k => rt.1 - BitVec.ofNat 24 k.val)
      v.plainReq (v.mkReq st.val (.load named) rt err ts) 0 named.isSome false (pay rs 0) ts)))

/-- MST and MSTM: the data, the lanes and the bytes selected. -/
def View.storeReq (v : View) (st : Nat) (bm : Bool) (a b : Opnd) (m : LMask) : List Eff :=
  v.runEff (fun _ => []) [a, b] m (fun rs mk err rt ts =>
    let p := pay rs 0
    let mask : BitVec 64 := if bm then BitVec.ofNat 64 (dlane p 4 + dlane p 5 * 2 ^ 32) else BitVec.allOnes 64
    v.plainReq { v.mkReq st .store rt err ts with lanes := mk, bmask := mask, data := pay rs 1 } 1 false bm p ts
      ++ sinkEffs ts)

def execMst (st : Fin 16) (a b : Opnd) (m : LMask) (s : State) : Answer :=
  .next (s.elemOp (.mst st a b m) (fun v => v.storeReq st.val false a b m))

def execMstm (st : Fin 16) (a b : Opnd) (m : LMask) (s : State) : Answer :=
  .next (s.elemOp (.mstm st a b m) (fun v => v.storeReq st.val true a b m))

/-! ### Gather, scatter, probe and ordering (R245 to R247) -/

/-- Bytes of an element size. -/
def ESize.bytes : ESize → Nat
  | .b => 1
  | .h => 2
  | .w => 4

/-- The address of an index (R246). -/
def indexAddr (base : Nat) (z : ESize) (sgn : Bool) (idx : Word) : Nat :=
  wrapInt 64 (base + (if sgn then idx.toInt else (idx.toNat : Int)) * (ESize.bytes z : Nat))

/-- What a lane of a gather, scatter or probe comes to: an access, nothing, or a cause. -/
inductive LaneAcc where
  | go (a : Access)
  | skip
  | fail (cause addr info2 : Nat)
  deriving DecidableEq, Repr

/-- A selected lane (R246): a bad index fails step 1 or 2 of R212. -/
def laneAcc (plane : BenchPlane) (stream kind base : Nat) (z : ESize) (sgn : Bool) (bad : BadMode) (idx : Word)
    (i : Nat) : LaneAcc × Bool :=
  let a := indexAddr base z sgn idx
  match portCheck plane stream kind false a (ESize.bytes z) with
  | none => (.go (accessAt plane a (ESize.bytes z) i), false)
  | some (c, i2) =>
    match bad with
    | .trap => (.fail c a i2, true)
    | .skip => (.skip, true)
    | .zero =>
      match portCheck plane stream kind false base (ESize.bytes z) with
      | none => (.go (accessAt plane base (ESize.bytes z) i), true)
      | some _ => (.skip, true)

/-- The accesses of an index token in ascending lane order, with the bad indices met. -/
def View.indexReq (v : View) (r : Request) (kind : Nat) (z : ESize) (sgn : Bool) (bad : BadMode) (desc idx : Payload)
    (mk : BitVec 16) (toks : List Token) : List Eff :=
  let ls := ((upTo 16).filter (bit mk.toNat)).map (fun i =>
    (laneAcc v.bench.plane r.stream kind (reqAddr desc) z sgn bad (lane idx i) i, i))
  match ls.findSome? (fun l => match l.1.1 with | .fail c a i2 => some (c, a, i2) | _ => none) with
  | some (c, a, i2) => [v.portRaise toks c a i2]
  | none =>
    let accs := ls.filterMap (fun l => match l.1.1 with | .go a => some a | _ => none)
    let bads := (ls.filter (fun l => l.1.2)).map (fun l => (l.2, lane idx l.2))
    [.request { r with
      accs := accs, badIdx := bads, lanes := mk, state := if accs.isEmpty then .translated else .waiting }]

def execMgath (st : Fin 16) (z : ESize) (bad : BadMode) (sgn : Bool) (a b : Opnd) (m : LMask) (s : State) : Answer :=
  .next (s.elemOp (.mgath st z bad sgn a b m) (fun v =>
    v.runEff (fun _ => []) [a, b] m (fun rs mk err rt ts =>
      v.indexReq (v.mkReq st.val .gather rt err ts) 0 z sgn bad (pay rs 1) (pay rs 0) mk ts)))

def execMscat (st : Fin 16) (z : ESize) (bad : BadMode) (sgn : Bool) (d a b : Opnd) (m : LMask) (s : State) :
    Answer :=
  .next (s.elemOp (.mscat st z bad sgn d a b m) (fun v =>
    v.runEff (fun _ => []) [a, b, d] m (fun rs mk err rt ts =>
      v.indexReq { v.mkReq st.val .scatter rt err ts with data := pay rs 1 } 1 z sgn bad (pay rs 2) (pay rs 0) mk ts
        ++ sinkEffs ts)))

/-- The stream number under which the port's list holds a MORD, and the one for a probe. -/
def mordStream : Nat := 16
def probeStream : Nat := 17

/-- Punctuation of MPROBE and MORD goes to the output channel behind the tokens still to come from them. -/
def View.passBehind (v : View) (stream : Nat) (d : Option Dst) (t : Token) : List Eff :=
  match d with
  | some (.chan n) =>
    [.request { v.mkReq stream (.pass (.chan n) t) (t.round, t.tag) t.err [] with state := .translated }]
  | _ => []

def execMprobe (z : ESize) (sgn : Bool) (d a b : Opnd) (m : LMask) (s : State) : Answer :=
  .next (s.elemOp (.mprobe z sgn d a b m) (fun v =>
    v.runEff (v.passBehind probeStream (some (opndDst d))) [a, b] m (fun rs mk err rt ts =>
      v.indexReq (v.mkReq probeStream (.probe (opndDst d)) rt err ts) 0 z sgn .skip (pay rs 1) (pay rs 0) mk ts)))

def execMord (c : Scope) (emit : Option Opnd) (wait : Option Opnd) (s : State) : Answer :=
  .next (s.elemOp (.mord c emit wait) (fun v =>
    v.runEff (v.passBehind mordStream (emit.map opndDst)) wait.toList 0 (fun _ _ err rt ts =>
      [.request { v.mkReq mordStream (.mord c (emit.map opndDst)) rt err ts with state := .translated }])))

/-! ### Local memory (R248) -/

/-- Bytes of local memory that the image declares. -/
def View.localSize (v : View) : Nat := (v.rec_.nlb + 1) * 8192

/-- A local address: a byte address, an offset in words and a byte, modulo the declared size (R248). -/
def View.lmAddr (v : View) (a : Word) (off : BitVec 10) (j : Nat) : Nat :=
  (((a.toNat : Int) + 4 * off.toInt + j) % (v.localSize : Int)).toNat

/-- The word at a local address. -/
def View.lmWord (v : View) (a : Word) (off : BitVec 10) (j : Nat) : Word :=
  BitVec.ofNat 32 (leNat ((upTo 4).map (fun k => v.el.local_.getD (v.lmAddr a off (j + k)) 0#8)))

/-- The 8-byte units of local memory with an uncorrectable error, or in a lost bank, among those of some words. -/
def View.lmErrs (v : View) (off : BitVec 10) (ws : List (Word × Nat)) : List Nat :=
  ((ws.flatMap (fun w => (upTo 4).map (fun k => v.lmAddr w.1 off (w.2 + k) / 8))).filter
    (fun u => v.el.localErr.contains u || v.lostLocal.contains (u / 1024))).eraseDups

def execLld (g : Bool) (off : BitVec 10) (d a : Opnd) (m : LMask) (s : State) : Answer :=
  .next (s.elemOp (.lld g off d a m) (fun v =>
    v.runEff (v.passTo (if g then 3 else 2) (opndDst d)) [a] m (fun rs mk err rt ts =>
      let p := pay rs 0
      let at_ (i : Nat) : Word × Nat := if g then (lane p i, 0) else (lane p 0, 4 * i)
      let errs := v.lmErrs off (((upTo 16).filter (bit mk.toNat)).map at_)
      let e := err || !errs.isEmpty
      v.result (if g then 3 else 2) (opndDst d) mk
          ⟨.data, e, rt.1, rt.2, 0#8, (laneMap mk (fun i => (v.lmWord (at_ i).1 off (at_ i).2, 0#8))).1⟩
        :: (if errs.isEmpty then [] else [.elog rt.1 rt.2 16 (errs.headD 0)])
        ++ (if (opndDst d).isChan then [] else sinkEffs ts))))

/-- LST and LSTM: the words written, unless an operand carries ERR (R355). -/
def View.localStore (v : View) (a b : Opnd) (m : LMask) (off : BitVec 10) (at_ : Payload → Nat → Word × Nat) :
    List Eff :=
  v.runEff (fun _ => []) [a, b] m (fun rs mk err _ ts =>
    (if err then []
      else [.localWrite (((upTo 16).filter (bit mk.toNat)).flatMap (fun i =>
        (upTo 4).map (fun k =>
          (v.lmAddr (at_ (pay rs 0) i).1 off ((at_ (pay rs 0) i).2 + k), byteOf (lane (pay rs 1) i).toNat k))))])
      ++ sinkEffs ts)

def execLst (off : BitVec 10) (a b : Opnd) (m : LMask) (s : State) : Answer :=
  .next (s.elemOp (.lst off a b m) (fun v => v.localStore a b m off (fun p i => (lane p 0, 4 * i))))

def execLstm (off : BitVec 10) (a b : Opnd) (m : LMask) (s : State) : Answer :=
  .next (s.elemOp (.lstm off a b m) (fun v => v.localStore a b m off (fun p i => (lane p i, 0))))

end Sys2Proof.Machine
end

