-- ==== Sys2Proof/Machine/ElemNode.lean ====
section
/-! DEFINITION. Owner, accumulators, reducers, sparse loop headers, voters and retire tags (R249, R252 to R257). -/

namespace Sys2Proof.Machine

/-! ### Carry-save operations (R252 to R254) -/

/-- A token of a payload whose parity fails among some positions (R175). -/
def csBad (p : Payload) (js : List Nat) : Bool := js.any (fun j => !(csDecode (csTok p j)).parOk)

/-- A consumed token as one that carries ERR when its parity failed, with the record of the event (R354). -/
def parityLog (bad : Bool) (rt : BitVec 24 × BitVec 24) : List Eff :=
  if bad then [.elog rt.1 rt.2 17 0] else []

/-- The accumulator after token t was merged. -/
def Acc.take (a : Acc) (t : Token) : Acc :=
  { a with toks := csPayload (fun j => csMerge (csTok a.toks j) (csTok t.data j)), last := some t.tag }

/-- The accumulator resolved, token by token (R252). -/
def Acc.resolved (a : Acc) : Payload := csPayload (fun j => csResolve (csTok a.toks j))

/-- Every head ends round n: marker n or the switch token of round n (R252). -/
def roundEnds (ts : List Token) : Bool :=
  match ts with
  | [] => false
  | t :: _ => ts.all (fun u => (u.kind == .marker || u.kind == .switch) && u.round == t.round)

/-- Every head is a pass marker, or every head a done token, of one round. -/
def passOrDone (ts : List Token) : Bool :=
  match ts with
  | [] => false
  | t :: _ => (t.kind == .pass || t.kind == .done) && ts.all (fun u => u.kind == t.kind && u.round == t.round)

/-- What passes at the end of a round: the switch token when a head is one, else the marker (R252). -/
def endToken (n : BitVec 24) (ts : List Token) : Token :=
  let t : Token := match List.find? (fun u : Token => u.kind == .switch) ts with
    | some t => t
    | none => ts.headD ⟨.marker, false, n, 0#24, 0#8, 0#512⟩
  t.joined ts

/-- The input of CSACC that is merged next, or the cause (R252, R200). -/
def accPick (a : Acc) (ts : List Token) : Pick :=
  match ts with
  | [t] => if a.last.all (fun l => precedes l t.tag) then .left else .raise 0x91
  | [t, u] => pickTag t u
  | _ => .raise 0x90

/-- One merge of CSACC. -/
def View.accMerge (v : View) (k : Nat) (a : Acc) (t : Nat × Token) : List Eff :=
  let bad := csBad t.2.data [0, 1, 2, 3]
  v.consume [t] ++ [.acc k (a.take t.2)] ++ parityLog bad (t.2.round, t.2.tag)
    ++ sinkEffs [{ t.2 with err := t.2.err || bad }]

/-- CSACC on its input channels. -/
def View.csacc (v : View) (k : Nat) (d : Opnd) (ins : List (Nat × Token)) : List Eff :=
  let a := v.el.accs.getD k .init
  let ts := ins.map Prod.snd
  if !a.emit && ts.any (fun t => t.kind.isData) then
    match accPick a ts, ins with
    | .left, t :: _ => v.accMerge k a t
    | .right, _ :: t :: _ => v.accMerge k a t
    | .raise c, _ => [v.raise c ts]
    | _, _ => [v.raise 0x90 ts]
  else if roundEnds ts then
    let n := (ts.map Token.round).headD 0#24
    if a.emit then
      ins.map (fun x => Eff.consume x.1)
        ++ (if (opndDst d).isChan then [v.result 2 (opndDst d) 0xFFFF#16 (endToken n ts)] else [])
        ++ [.marker v.f.ksel n, .acc k .init]
    else
      [v.result 2 (opndDst d) 0xFFFF#16 ⟨.data, false, n, a.last.getD v.ctx.ctag, 0#8, a.resolved⟩,
        .acc k { a with emit := true }]
  else if passOrDone ts then
    match ts.head? with
    | some t => ins.map (fun x => Eff.consume x.1) ++ v.ctxEffs [t]
        ++ (if (opndDst d).isChan then [v.result 2 (opndDst d) 0xFFFF#16 (t.joined ts)] else [])
    | none => []
  else [v.raise 0x90 ts]

/-- b of CSACC is 0 when there is one input (R252). -/
def isNoOpnd (o : Opnd) : Bool := decide (o = .v 0)

def execCsacc (k : Fin 4) (d a b : Opnd) (s : State) : Answer :=
  .next (s.elemOp (.csacc k d a b) (fun v =>
    if v.starved a || v.starved b then v.starve
    else
      let ins := v.taken a ++ (if isNoOpnd b then [] else v.taken b)
      v.onRound ins (v.csacc k.val d ins)))

/-- A lane of RED (R253). -/
def redLane (op : RedOp) (t : RedType) (a b : Word) : Word × Flags :=
  match t, op with
  | .f, .sum => faddW a b
  | .f, .max => (fmaxW a b, 0#8)
  | .f, .min => (fminW a b, 0#8)
  | .i, .sum => (a + b, 0#8)
  | .ns, .sum => satLane true (a.toNat + b.toNat)
  | .is, .sum => satLane false (a.toInt + b.toInt)
  | .ns, .max => (if a.toNat < b.toNat then b else a, 0#8)
  | .ns, .min => (if b.toNat < a.toNat then b else a, 0#8)
  | _, .max => (if a.toInt < b.toInt then b else a, 0#8)
  | _, .min => (if b.toInt < a.toInt then b else a, 0#8)
  | .cs, .sum => (0#32, 0#8)

/-- The payload of RED; for .CS the mask selects token j through lane 4j. -/
def redPayload (op : RedOp) (t : RedType) (m : BitVec 16) (p q : Payload) : Payload × Flags :=
  if t = .cs then
    (csPayload (fun j => if bit m.toNat (4 * j) then csMerge (csTok p j) (csTok q j) else 0#128), 0#8)
  else laneMap m (fun i => redLane op t (lane p i) (lane q i))

/-- The lanes of a register that tokens selected through lane 4j cover. -/
def csLanes (m : BitVec 16) : BitVec 16 :=
  BitVec.ofNat 16 (pack 4 (fun j => if bit m.toNat (4 * j) then 15 else 0) 4)

def execRed (op : RedOp) (t : RedType) (d a b : Opnd) (m : LMask) (s : State) : Answer :=
  .next (s.elemOp (.red op t d a b m) (fun v =>
    if v.starved a || v.starved b then v.starve
    else
      let ta := v.asTok a
      let tb := v.asTok b
      let both := v.both a b
      let ts := both.map Prod.snd
      if ta.kind.isData && tb.kind.isData then
        if both.any v.offRound then [v.raise 0x90 ts]
        else if both.length = 2 ∧ (ta.round ≠ tb.round ∨ ta.tag ≠ tb.tag) then [v.raise 0x91 [ta, tb]]
        else
          let mk := v.mask m
          let js := (upTo 4).filter (fun j => bit mk.val.toNat (4 * j))
          let bad := t = .cs && (csBad ta.data js || csBad tb.data js)
          let err := mk.err || ta.err || tb.err || bad
          let rt := v.headerOf ts
          let r := redPayload op t mk.val ta.data tb.data
          v.consume both
            ++ [v.result (if t = .f then 4 else 2) (opndDst d) (if t = .cs then csLanes mk.val else mk.val)
                ⟨.data, err, rt.1, rt.2, 0#8, r.1⟩]
            ++ (if err || r.2 == 0#8 then [] else [.flags rt.1 r.2])
            ++ parityLog bad rt
            ++ (if (opndDst d).isChan then [] else sinkEffs (ts.map (fun u => { u with err := u.err || bad })))
      else if !ta.kind.isData && ta.kind == tb.kind && ta.round == tb.round then
        both.map (fun t => .consume t.1) ++ v.ctxEffs [ta] ++ (if (opndDst d).isChan then
          [v.result (if t = .f then 4 else 2) (opndDst d) 0xFFFF#16 (ta.joined ts)] else [])
      else [v.raise 0x90 [ta, tb]]))

def execCsnorm (int : Bool) (rm : RMode) (d a : Opnd) (m : LMask) (s : State) : Answer :=
  .next (s.elemOp (.csnorm int rm d a m) (fun v =>
    v.runEff (v.passTo 3 (opndDst d)) [a] m (fun rs mk err rt ts =>
      let p := pay rs 0
      let bad := csBad p ((upTo 4).filter (bit mk.toNat))
      let e := err || bad
      let f (i : Nat) : Word × Flags :=
        if i < 4 then
          let c := csDecode (csTok p i)
          if int then csToI32 rm c else csToF32 rm c
        else (0#32, 0#8)
      let r := laneMap mk f
      v.result 3 (opndDst d) (mk ||| 0xFFF0#16) ⟨.data, e, rt.1, rt.2, 0#8, r.1⟩
        :: (if e || r.2 == 0#8 then [] else [.flags rt.1 r.2])
        ++ parityLog bad rt
        ++ (if (opndDst d).isChan then [] else sinkEffs (ts.map (fun u => { u with err := u.err || bad }))))))

/-! ### Sparse loop headers (R255) -/

/-- The count and the indices a header holds, from index number `pos` on. -/
def sphIndices (p : Payload) (pos : Nat) : Nat × (Nat → Nat) :=
  let s := dlane p 0
  (dlane p 1 - s, fun j => s + pos + j)

/-- The positions of the set bits of a bitmap, ascending. -/
def setBits (p : Payload) : List Nat := (upTo 512).filter (bit p.toNat)

/-- As `sphIndices` for a bitmap. -/
def spTreeIndices (p : Payload) (pos : Nat) : Nat × (Nat → Nat) :=
  let l := setBits p
  (l.length, fun j => l.getD (pos + j) 0)

/-- The output of an issue: lanes 0 to 14 the next indices, lane 15 COUNT and LAST. -/
def spPayload (total pos : Nat) (f : Nat → Nat) : Payload :=
  let c := if total - pos < 15 then total - pos else 15
  ofLanes (fun i =>
    if i = 15 then BitVec.ofNat 32 (c + (if total ≤ pos + c then 2 ^ 31 else 0))
    else if i < c then BitVec.ofNat 32 (f i) else 0xFFFFFFFF#32)

/-- The key under which an element keeps the position in a header. -/
def opndKey : Opnd → Nat
  | .v n => 32 + n.val
  | .ch n => n.val

/-- SPHDR and SPTREE. -/
def View.sparse (v : View) (tags : Bool) (d a : Opnd) (idx : Payload → Nat → Nat × (Nat → Nat)) : List Eff :=
  if v.starved a then v.starve
  else
    let t := v.asTok a
    if !t.kind.isData then v.consume (v.taken a) ++ v.send (opndDst d) t
    else if tags && v.full then [v.raise 0x9D []]
    else
      let pos := v.el.sparse.getD (opndKey a) 0
      let (total, f) := idx t.data pos
      let last := decide (total ≤ pos + 15)
      let n := v.ctx.ntag + 1
      let (round, tag) := if tags then (v.ctx.cround, n) else (t.round, t.tag)
      (if last then v.consume (v.taken a) else [])
        ++ [v.result 1 (opndDst d) 0xFFFF#16 ⟨.data, t.err, round, tag, 0#8, spPayload total pos f⟩,
          .sparse (opndKey a) (if last then 0 else pos + 15)]
        ++ (if tags then [.ctxTag v.f.ksel n] else [])
        ++ (if last && !(opndDst d).isChan then sinkEffs ((v.taken a).map Prod.snd) else [])

def execSphdr (tags : Bool) (d a : Opnd) (s : State) : Answer :=
  .next (s.elemOp (.sphdr tags d a) (fun v => v.sparse tags d a sphIndices))

def execSptree (tags : Bool) (d a : Opnd) (s : State) : Answer :=
  .next (s.elemOp (.sptree tags d a) (fun v => v.sparse tags d a spTreeIndices))

/-! ### Voters (R256, R357) -/

/-- Two copies agree: payload and every header field but CHAN. -/
def agree (t u : Token) : Bool := { t with chan := 0#8 } == { u with chan := 0#8 }

/-- The head of copy i when it stands at position F. -/
def Voter.atF (x : Voter) (heads : List (Option Token)) (i : Nat) : Option Token :=
  if x.consumed.getD i 0 = x.forwarded then heads.getD i none else none

/-- The head of copy i when it lags, with the token forwarded at its position. -/
def Voter.lagging (x : Voter) (heads : List (Option Token)) (i : Nat) : Option (Token × Token) :=
  let c := x.consumed.getD i 0
  if c < x.forwarded then
    match heads.getD i none, x.window[x.window.length - (x.forwarded - c)]? with
    | some t, some w => some (t, w)
    | _, _ => none
  else none

/-- Which copies are consumed for position F, the token forwarded and whether there was no majority; none when
VOTE waits (R256). A copy 16 positions behind stops forwarding. -/
def Voter.forward (x : Voter) (heads : List (Option Token)) : Option (List Nat × Token × Bool) :=
  let h := x.atF heads
  let blocked := (upTo 3).any (fun i =>
    decide (x.consumed.getD i 0 + 16 ≤ x.forwarded) && (x.lagging heads i).isNone)
  if blocked then none
  else
    match h 0, h 1, h 2 with
    | some a, some b, c =>
      if agree a b then some ([0, 1], a, false)
      else
        match c with
        | some c =>
          if agree a c then some ([0, 2], a, false)
          else if agree b c then some ([1, 2], b, false)
          else some ([0, 1, 2], { a with err := true }, true)
        | none => none
    | some a, none, some c => if agree a c then some ([0, 2], a, false) else none
    | none, some b, some c => if agree b c then some ([1, 2], b, false) else none
    | _, _, _ => none

/-- Add 1, saturating at 16 bits. -/
def satInc16 (n : Nat) : Nat := if n < 65535 then n + 1 else n

/-- A list with the values at some positions changed. -/
def mapAt (l : List Nat) (is : List Nat) (f : Nat → Nat) : List Nat :=
  (upTo l.length).map (fun i => if is.contains i then f (l.getD i 0) else l.getD i 0)

def execVote (d a b : Opnd) (c : Fin 32) (s : State) : Answer :=
  .next (s.elemOp (.vote d a b c) (fun v =>
    let ins := [a, b, .ch c]
    let x := v.el.voter
    let heads := ins.map (fun o => ((v.read o).tok).map Prod.snd)
    let lag := (upTo 3).filter (fun i => (x.lagging heads i).isSome)
    let fwd := x.forward heads
    if fwd.isNone && lag.isEmpty then v.starve
    else
      let held := (fwd.map (fun q => q.1)).getD []
      let out := (fwd.map (fun q => q.2.1)).toList
      let noMaj := fwd.any (fun q => q.2.2)
      let dis := lag.filter (fun i => (x.lagging heads i).any (fun p => !agree p.1 p.2))
      let taken := held ++ lag
      let ev := (dis.filterMap (fun i => (x.lagging heads i).map Prod.snd)) ++ (if noMaj then out else [])
      let x' : Voter :=
        { forwarded := x.forwarded + out.length
          window := (x.window ++ out).drop (x.window.length + out.length - 16)
          consumed := mapAt x.consumed taken (· + 1)
          counts := mapAt x.counts dis satInc16
          noMajority := if noMaj then satInc16 x.noMajority else x.noMajority
          first := x.first.orElse (fun _ => ev.head?.map (fun t => (t.round, t.tag))) }
      let toks (l : List Nat) : List (Nat × Token) := l.filterMap (fun i => ((ins[i]?).bind (fun o => (v.read o).tok)))
      v.onRound (toks taken)
        (v.consume (toks taken) ++ out.map (v.result 1 (opndDst d) 0xFFFF#16) ++ [.voter x' (dis.map (· + 1)) noMaj]
          ++ sinkEffs ((toks lag).map Prod.snd)
          ++ (if out.any Token.err then [] else sinkEffs ((toks held).map Prod.snd)))))

/-! ### Retire tags and the owner's declaration (R249, R257) -/

def execRtag (e : Fin 16) (fwd : Option Opnd) (a : Opnd) (s : State) : Answer :=
  .next (s.elemOp (.rtag e fwd a) (fun v =>
    if v.starved a then v.starve
    else
      let t := v.asTok a
      v.onRound (v.taken a)
        (v.consume (v.taken a) ++ [.report e.val t.leaving]
          ++ (match fwd with | some d => v.send (opndDst d) t | none => []))))

def execRmw (op : RmwOp) (dbl : Bool) (ret : Option Opnd) (a b : Opnd) (s : State) : Answer :=
  .next (s.elemOp (.rmw op dbl ret a b) (fun v => [.owner (.rmw op dbl ret a b) v.f.ksel]))

end Sys2Proof.Machine
end

