-- ==== Sys2Proof/Machine/Vat.lean ====
section
/-! DEFINITION. The Vat (R261 to R282): sheets, group reads, schedule words, firings and drains. -/

namespace Sys2Proof.Machine

abbrev VatAnswer := Host.Outcome State Fault Refusal

/-! ### Sizes of a sheet (R262, R275) -/

/-- Products per lane as numerator and denominator, and operand bits of A and of B. -/
def sheetWidths (f : Fmt) (balt : Bool) : Nat × Nat × Nat × Nat :=
  match f with
  | .i4 => (2, 1, 4, 4)
  | .i4x => if balt then (1, 1, 4, 8) else (2, 1, 4, 4)
  | .f16 | .bf16 => (1, 4, 16, 16)
  | _ => (1, 1, 8, 8)

/-- The B format (R262). -/
def sheetB (f : Fmt) (balt : Bool) : Fmt :=
  match f, balt with
  | .e4m3, true => .e5m2
  | .e5m2, true => .e4m3
  | .i4x, true => .e4m3
  | f, _ => f

/-- N_o and M_o of OUTER; 1:1 when dense (R275). -/
def outerNM (outer : Nat) : Nat × Nat :=
  match outer with
  | 1 => (1, 2)
  | 2 => (2, 4)
  | 3 => (1, 4)
  | _ => (1, 1)

/-- N_i and M_i of INNER. -/
def innerNM (inner : Nat) : Nat × Nat :=
  match inner with
  | 1 => (2, 4)
  | 2 => (1, 4)
  | 3 => (4, 8)
  | _ => (1, 1)

/-- P: products of a firing, which is also the length of the A vector. -/
def SheetMap.products (m : SheetMap) (balt : Bool) : Nat :=
  let (num, den, _, _) := sheetWidths m.fmt balt
  8 * m.count * (m.chain + 1) * num / den

/-- D: dense elements of the B vector. -/
def SheetMap.dense (m : SheetMap) (balt : Bool) : Nat :=
  let (no, mo) := outerNM m.outer
  let (ni, mi) := innerNM m.inner
  m.products balt * mo / no * mi / ni

/-- Bytes of the A or the B vector. -/
def SheetMap.bytes (m : SheetMap) (balt opB : Bool) : Nat :=
  let (_, _, wa, wb) := sheetWidths m.fmt balt
  if opB then (m.dense balt * wb + 7) / 8 else (m.products balt * wa + 7) / 8

/-- The default mask of a block (R275). -/
def defaultMask (m : SheetMap) (block : Nat) : BitVec 16 :=
  if m.outer = 0 then 0xFFFF#16
  else
    let (no, mo) := outerNM m.outer
    let (ni, mi) := innerNM m.inner
    if block % mo < no then BitVec.ofNat 16 (pack 1 (fun i => if i % mi < ni then 1 else 0) 16) else 0#16

/-- A mask is zero or meets the inner rule. -/
def maskOk (inner : Nat) (x : Nat) : Bool :=
  let (ni, mi) := innerNM inner
  x == 0 || (if inner = 0 then x == 0xFFFF else (upTo (16 / mi)).all (fun k => popNat (bits x (mi * k) mi) mi == ni))

/-- The first malformed block among blocks `first` to `first + ms.length - 1`, with its mask (R275). -/
def badBlock (m : SheetMap) (first : Nat) (ms : List Nat) : Option (Nat × Nat) :=
  let (no, mo) := outerNM m.outer
  let n := ms.length
  (upTo n).findSome? (fun i =>
    let g := (upTo mo).map (fun k => ms.getD (i / mo * mo + k) 0)
    if !maskOk m.inner (ms.getD i 0) then some (first + i, ms.getD i 0)
    else if i % mo = 0 ∧ (g.filter (· != 0)).length ≠ no then some (first + i, ms.getD i 0)
    else none)

/-! ### Sheets of a region -/

/-- The key of a sheet: home segment and first lane, in units of 8 (R43). -/
def Region.sheetKey (x : Region) (b : Nat) (m : SheetMap) : Nat := segmentOf (x.dieBench b) * 4096 + m.first

/-- The map entry of a bench. -/
def Region.sheetMap (x : Region) (b i : Nat) : Option SheetMap := (x.bench b).plane.sheets.find? i

/-- A sheet. -/
def Region.sheet (x : Region) (key : Nat) : Sheet := x.sheets.getD key .init

/-- A sheet changed. -/
def Region.updSheet (x : Region) (key : Nat) (f : Sheet → Sheet) : Region :=
  { x with sheets := x.sheets.put key (f (x.sheet key)) }

def State.updSheet (s : State) (r key : Nat) (f : Sheet → Sheet) : State := s.updReg r (fun x => x.updSheet key f)

/-- The BALT under which a schedule word names a sheet index. -/
def wordBalt (i : Nat) : Instr → Option Bool
  | .vldb _ t _ balt _ _ => if t.val = i then some balt else none
  | .vmac _ t _ _ balt _ _ => if t.val = i then some balt else none
  | _ => none

/-- BALT of a sheet: that of the words naming it; 0 when none does (R262, R263). -/
def Region.sheetBalt (x : Region) (key : Nat) : Bool :=
  (x.benches.findSome? (fun b => b.2.plane.sheets.findSome? (fun e =>
    if x.sheetKey b.1 e.2 = key then b.2.plane.sched.findSome? (wordBalt e.1) else none))).getD false

/-- A node changed. -/
def State.updNode (s : State) (r b : Nat) (f : Node → Node) : State :=
  s.updBench r b (fun y => { y with node := f y.node })

/-- The position of a schedule word (R281). -/
def State.vpos (s : State) (i : Instr) : DWord :=
  let x := s.reg s.focus.region
  posWord x.place.die (x.dieBench s.focus.bench) 15 ((x.bench s.focus.bench).node.slot) 0 (opByte i)

/-- A cause of a schedule word. -/
def State.vraise (s : State) (cause : Nat) (i0 i1 i2 i3 : DWord) : State :=
  s.raiseRound s.focus.region
    (roundCause cause (((s.reg s.focus.region).bench s.focus.bench).node.dtag) i0 i1 i2 i3)

/-- A matrix node's log takes a record of an error met (R354). -/
def State.nodeLog (s : State) (round : BitVec 24) (group unit : Nat) (pos : DWord) : State :=
  let r := s.focus.region
  let b := s.focus.bench
  if logFull 16 ((s.reg r).bench b).node.logs round then
    s.raiseRound r ((⟨round, 0#24, group, unit⟩ : ErrLog).record 0#24 0xA5 true pos)
  else s.updNode r b (fun n => { n with logs := n.logs ++ [⟨round, BitVec.ofNat 24 group, group, unit⟩] })

/-! ### Group reads (R269) -/

/-- A row pointer of a node. -/
def Node.row (n : Node) (g : Nat) : RowPtr := n.rows.getD g .init

/-- RP after ADV (R269). -/
def RowPtr.advance (p : RowPtr) (adv : Adv) : RowPtr :=
  match adv with
  | .keep => p
  | .advance => { p with rp := if p.rp = p.lim then p.base else (p.rp + 1) % 3072 }
  | .reset => { p with rp := p.base }

/-- One chunk into a vector: bytes past its end are discarded, and the chunk takes the read's ERR. -/
def Sheet.load (sh : Sheet) (opB : Bool) (len chunk : Nat) (bs : List Byte) (err : Bool) : Sheet :=
  if len ≤ 1024 * chunk then sh
  else
    let put (m : FMap Byte) : FMap Byte :=
      ((bs.take (len - 1024 * chunk)).foldl (fun (acc : FMap Byte × Nat) b => (acc.1.set 0#8 acc.2 b, acc.2 + 1))
        (m, 1024 * chunk)).1
    let mark (l : List Nat) : List Nat := if err then (if l.contains chunk then l else l ++ [chunk]) else l.erase chunk
    if opB then { sh with b := put sh.b, bErr := mark sh.bErr } else { sh with a := put sh.a, aErr := mark sh.aErr }

/-- The receivers of a group: the sheets of every bench whose multicast entry names them. -/
def Region.receivers (x : Region) (g : Nat) : List (Nat × SheetMap) :=
  x.benches.flatMap (fun b =>
    let mask := b.2.plane.mcast.getD g 0
    (b.2.plane.sheets.filter (fun e => bit mask e.1)).map (fun e => (x.sheetKey b.1 e.2, e.2)))

/-- A schedule word occupies the banks of a logical group in its cycle; a read of a bank group that another region's
words read in the same cycle raises 0x60 in both regions (R268, R281). -/
def State.occupy (s : State) (g : Nat) (pos : DWord) : State :=
  let r := s.focus.region
  let x := s.reg r
  let group := x.place.groups.getD g 0
  let s' := s.updReg r (fun x => { x with fab := { x.fab with
    reads := x.fab.reads.filter (fun q => q.1 == s.cycle) ++ [(s.cycle, group, pos)] } })
  match s.regions.findSome? (fun q =>
      if q.1 = r ∨ q.2.place.die ≠ x.place.die then none
      else (q.2.fab.reads.find? (fun e => e.1 == s.cycle && e.2.1 == group)).map (fun e => (q.1, e.2.2))) with
  | some (r', first) =>
    let rec_ := roundCause 0x60 0#24 (BitVec.ofNat 64 (16 * group)) first pos (BitVec.ofNat 64 group)
    (s'.raiseRound r' rec_).raiseRound r rec_
  | none => s'

/-- A group read delivers a chunk to every receiver, and RP moves (R269). -/
def State.groupRead (s : State) (i : Instr) (g : Nat) (opB : Bool) (adv : Adv) (chunk : Nat) : State :=
  let r := s.focus.region
  let x := s.reg r
  let node := (x.bench s.focus.bench).node
  let p := node.row g
  let die := x.place.die
  let group := x.place.groups.getD g 0
  let pa := groupAddr die group (1024 * p.rp)
  let bs := s.mem.readBytes pa 1024
  let err := s.badBytes pa 1024
  let pos := s.vpos i
  let s := s.updReg r (fun x =>
    (x.receivers g).foldl (fun x e =>
      x.updSheet e.1 (fun sh => sh.load opB (e.2.bytes (x.sheetBalt e.1) opB) chunk bs err)) x)
  let s := s.updNode r s.focus.bench (fun n => { n with rows := n.rows.put g (p.advance adv) })
  let s := if err then s.nodeLog node.mround g (pa / 64) pos else s
  s.occupy g pos

def execVlda (slot : Fin 64) (t : Fin 128) (g : Fin 64) (adv : Adv) (chunk : Fin 128) (s : State) : VatAnswer :=
  .next (s.groupRead (.vlda slot t g adv chunk) g.val false adv chunk.val)

def execVldb (slot : Fin 64) (t : Fin 128) (g : Fin 64) (balt : Bool) (adv : Adv) (chunk : Fin 128) (s : State) :
    VatAnswer :=
  .next (s.groupRead (.vldb slot t g balt adv chunk) g.val true adv chunk.val)

/-! ### Effects on a sheet in firing order (R266, R267) -/

/-- The cycle at which an entry of a sheet's queue takes effect. -/
def SheetOp.due : SheetOp → Nat
  | .sample _ _ d | .fire _ _ _ d | .zero d | .drain _ _ _ _ _ _ _ _ _ d | .send _ _ d | .recv _ _ d
  | .punct _ _ _ d | .reset d | .mark d => d

/-- An entry at the end of a sheet's queue, no earlier than those before it. -/
def Sheet.enqueue (sh : Sheet) (d : Nat) (f : Nat → SheetOp) : Sheet :=
  let last := (sh.queue.getLast?.map SheetOp.due).getD 0
  { sh with queue := sh.queue ++ [f (if d < last then last else d)] }

/-- ERR that enters SFLAG in firing order (R267, R274). -/
def Sheet.markErr (sh : Sheet) (err : Bool) (now : Nat) : Sheet := if err then sh.enqueue now .mark else sh

/-- Cycles from a firing to its merge (R267). -/
def SheetMap.mergeDelay (m : SheetMap) : Nat := 11 + 2 * m.chain + (if m.xdie then 28 else 0)

/-- The node and the map entry that the word in focus names. -/
def State.wordSheet (s : State) (t : Nat) : Option (Nat × SheetMap) :=
  let x := s.reg s.focus.region
  (x.sheetMap s.focus.bench t).map (fun m => (x.sheetKey s.focus.bench m, m))

def execVmac (slot : Fin 64) (t : Fin 128) (ga gb : Fin 64) (balt : Bool) (adv : Adv) (chunk : Fin 128) (s : State) :
    VatAnswer :=
  let i : Instr := .vmac slot t ga gb balt adv chunk
  let s := (s.groupRead i ga.val false adv chunk.val).groupRead i gb.val true adv chunk.val
  match s.wordSheet t.val with
  | none => .next s
  | some (key, m) =>
    let due := (s.reg s.focus.region).fab.ucycle + m.mergeDelay
    .next (s.updSheet s.focus.region key (fun sh =>
      let sh := sh.enqueue due (.sample m balt)
      { sh with lastMerge := (sh.queue.getLast?.map SheetOp.due).getD due }))

def execVzero (_slot : Fin 64) (t : Fin 128) (s : State) : VatAnswer :=
  match s.wordSheet t.val with
  | none => .next s
  | some (key, _) =>
    .next (s.updSheet s.focus.region key (fun sh => sh.enqueue (s.reg s.focus.region).fab.ucycle .zero))

def execVnop (_slot : Fin 64) (s : State) : VatAnswer := .next s

/-- VEND: the words of its cycle are already chosen, so STOP holds from the next on (R270). -/
def execVend (_slot : Fin 64) (s : State) : VatAnswer :=
  .next (s.updNode s.focus.region s.focus.bench (fun n => { n with stop := true, quiesced := false }))

def execVdrain (_slot : Fin 64) (t : Fin 128) (bsel : Fin 4) (clr push : Bool) (pos : Fin 4) (s : State) : VatAnswer :=
  let r := s.focus.region
  let b := s.focus.bench
  let node := ((s.reg r).bench b).node
  match s.wordSheet t.val with
  | none => .next s
  | some (key, _) =>
    let c := (s.reg r).fab.ucycle
    let dbar := if bsel = 0 then 0 else node.dbar.getD bsel.val 0
    let s := s.updSheet r key (fun sh =>
      let d := if sh.lastMerge + 1 < c + 2 then c + 2 else sh.lastMerge + 1
      sh.enqueue d (.drain b t.val pos.val clr push dbar (64 * c + s.focus.slot) node.mround node.dtag))
    .next (if push then s.updNode r b (fun n => { n with dtag := n.dtag + 1 }) else s)

/-- The bench whose sheet map DIR of a VCHAIN selects (R278). -/
def chainBench (cols b : Nat) : ChainDir → Nat
  | .here => b
  | .east => if b % cols + 4 < cols then b + 4 else b
  | .west => if 4 ≤ b % cols then b - 4 else b

def execVchain (_slot : Fin 64) (t ts : Fin 128) (dir : ChainDir) (s : State) : VatAnswer :=
  let r := s.focus.region
  let x := s.reg r
  let b' := chainBench x.place.cols s.focus.bench dir
  match s.wordSheet t.val, x.sheetMap b' ts.val with
  | some (key, _), some m' =>
    let key' := x.sheetKey b' m'
    let (s, id) := s.fresh
    let s := s.updSheet r key (fun sh => sh.enqueue x.fab.ucycle (.send id key'))
    .next (s.updReg r (fun x => { x with fab := { x.fab with recvs := x.fab.recvs ++ [(id, key')] } }))
  | _, _ => .next s

/-! ### Scales and metadata (R274, R276) -/

/-- Groups of 32 elements of an operand. -/
def SheetMap.groups (m : SheetMap) (balt opB : Bool) : Nat :=
  ((if opB then m.dense balt else m.products balt) + 31) / 32

/-- The kind 4 channel of element 15 with a sheet as its peer, in a direction. -/
def Region.vatChan (x : Region) (b sheet : Nat) (out : Bool) : Option Nat :=
  (List.find? (fun c => c.2.kind == 4 && c.2.out == out && c.2.peer == sheet) ((x.bench b).rec_ 15).chans).map Prod.fst

def execVscale (slot : Fin 64) (t : Fin 128) (chunk : Fin 128) (opB : Bool) (s : State) : VatAnswer :=
  let r := s.focus.region
  let b := s.focus.bench
  let buf := ((s.reg r).bench b).node.scaleBufs.getD t.val []
  match buf, s.wordSheet t.val with
  | tok :: rest, some (key, m) =>
    if tok.kind.isData then
      let s := s.updNode r b (fun n => { n with scaleBufs := n.scaleBufs.set [] t.val rest })
      let len := m.groups ((s.reg r).sheetBalt key) opB
      let put (v : FMap Byte) : FMap Byte :=
        ((upTo 64).filter (fun j => decide (64 * chunk.val + j < len))).foldl
          (fun v j => v.set 0x7F#8 (64 * chunk.val + j) (BitVec.ofNat 8 (value tok.data 8 j))) v
      .next (s.updSheet r key (fun sh =>
        let sh := if opB then { sh with bscale := put sh.bscale } else { sh with ascale := put sh.ascale }
        sh.markErr tok.err (s.reg r).fab.ucycle))
    else .next (s.vraise 0x90 (s.vpos (.vscale slot t chunk opB)) tok.header 0#64 0#64)
  | _, _ => .next s

/-- How the metadata read of a VSPMETA stands (R276). -/
inductive MetaRes where
  | bytes (bs : List Byte) (err : Bool)
  | park (va reason : Nat)
  | wait
  /-- A line under copy is locked (R232). -/
  | lock
  | fail (cause : Nat) (i0 i2 i3 : Nat)
  deriving DecidableEq, Repr

/-- The read of a VSPMETA: translation, the window check, and the lines of the round named. -/
def State.metaRead (s : State) (r b g : Nat) (delta : Nat) : MetaRes :=
  let x := s.reg r
  let n := (x.bench b).node
  let va := n.mbase + 1024 * n.mrow
  match s.walk x.job va with
  | .malformed epa lv => .fail 0x48 va epa lv
  | .unbackedTable pa lv => .fail 0x49 va pa lv
  | .invalid => .park va 1
  | .leaf l =>
    if !peRes l.entry then .park va (if peMig l.entry then 2 else 0)
    else if !peRd l.entry then .fail 0x45 va 0 l.entry
    else if !s.backed l.pa 1024 then .fail 0x49 va l.pa 0
    else
      let group := x.place.groups.getD g 0
      let lo := groupAddr x.place.die group 0
      if !peVerp l.entry || !decide (lo ≤ l.pa ∧ l.pa + 1024 ≤ lo + 3 * 2 ^ 20) then .fail 0x62 va l.entry g
      else
        let round := n.mround - BitVec.ofNat 24 delta
        if s.reqLocked (s.touched x.writer (some round) none [⟨va, 1024, l⟩]) then .lock
        else
        match s.readPart x.writer (some round) ⟨va, 1024, l⟩ with
        | .bytes bs err => .bytes bs err
        | .wait => .wait
        | .fail c a k => .fail c a round.toNat k

def execVspmeta (slot : Fin 64) (t : Fin 128) (g : Fin 64) (delta : Fin 4) (adv : Bool) (chunk : Fin 128) (s : State) :
    VatAnswer :=
  let i : Instr := .vspmeta slot t g delta adv chunk
  let r := s.focus.region
  let b := s.focus.bench
  let pos := s.vpos i
  let read := s.metaRead r b g.val delta.val
  let s := match read with | .bytes _ _ => s.occupy g.val pos | _ => s
  match read, s.wordSheet t.val with
  | .fail c i0 i2 i3, _ => .next (s.vraise c (BitVec.ofNat 64 i0) pos (BitVec.ofNat 64 i2) (BitVec.ofNat 64 i3))
  | .bytes bs err, some (key, m) =>
    let x := s.reg r
    let blocks := m.dense (x.sheetBalt key) / 16
    let first := 512 * chunk.val
    let ms := (upTo (if blocks - first < 512 then blocks - first else 512)).map (fun k =>
      leNat [bs.getD (2 * k) 0#8, bs.getD (2 * k + 1) 0#8])
    match badBlock m first ms with
    | some (k, mask) =>
      .next (s.vraise 0x63 (BitVec.ofNat 64 ((x.bench b).node.mbase + 1024 * (x.bench b).node.mrow)) pos
        (BitVec.ofNat 64 k) (BitVec.ofNat 64 mask))
    | none =>
      let s := s.updSheet r key (fun sh =>
        { sh.markErr err x.fab.ucycle with
          meta_ := (ms.foldl (fun (acc : FMap (BitVec 16) × Nat) v =>
            (acc.1.set (defaultMask m acc.2) acc.2 (BitVec.ofNat 16 v), acc.2 + 1)) (sh.meta_, first)).1 })
      let s := if adv then s.updNode r b (fun n => { n with mrow := if n.mrow = n.mlim then 0 else n.mrow + 1 }) else s
      .next (if err then s.nodeLog (x.bench b).node.mround g.val 0 pos else s)
  | _, _ => .next s

/-! ### Round punctuation (R279) -/

/-- Punctuation sent on every kind 4 input channel of element 15, behind what was sent there before. A channel whose PEER
names no sheet takes it at once. -/
def State.sendPunct (s : State) (r b : Nat) (t : Token) : State :=
  ((((s.reg r).bench b).rec_ 15).chans.filter (fun c => c.2.kind == 4 && !c.2.out)).foldl (fun s c =>
    let p := c.2.peer
    let tok : Token := { t with chan := BitVec.ofNat 8 p }
    match (s.reg r).sheetMap b p with
    | some m => s.updReg r (fun x => x.updSheet (x.sheetKey b m) (fun sh => sh.enqueue x.fab.ucycle (.punct b p tok)))
    | none => s.updElem r b 15 (fun el => el.push c.1 tok)) s

/-- The sheets of a node's map reset behind the work already fired (R265). -/
def State.resetSheets (s : State) (r b : Nat) : State :=
  s.updReg r (fun x =>
    ((x.bench b).plane.sheets).foldl (fun x e =>
      x.updSheet (x.sheetKey b e.2) (fun sh => sh.enqueue x.fab.ucycle .reset)) x)

/-- RP, MROW and STOP kept as a round begins, for its void (R265). -/
def Node.keepRows (n : Node) (round : BitVec 24) : Node :=
  { n with rowsAt := n.rowsAt.put round.toNat (n.rows, n.mrow, n.stop) }

/-- RP, MROW and STOP as a round of the node begins (R265). -/
def Node.markRound (n : Node) (round : BitVec 24) : Node :=
  { n.keepRows round with mround := round, dtag := 0#24 }

def execVwait (slot : Fin 64) (ch : Fin 32) (s : State) : VatAnswer :=
  let r := s.focus.region
  let b := s.focus.bench
  let x := s.reg r
  match ((x.bench b).elem 15).bufs.getD ch.val [] with
  | [] => .next s
  | t :: _ =>
    let node := (x.bench b).node
    if t.kind.isData then .next (if t.err then (s.popTok r b 15 ch.val).sink r t.round t.tag else s.popTok r b 15 ch.val)
    else
      match t.kind with
      | .marker | .switch =>
        if t.round = node.mround then
          let s := ((s.popTok r b 15 ch.val).sendPunct r b t).resetSheets r b
          .next (s.updNode r b (fun n => n.markRound (t.round + 1)))
        else .next (s.vraise 0x90 (s.vpos (.vwait slot ch)) t.header 0#64 0#64)
      | .done => .next (((s.popTok r b 15 ch.val).sendPunct r b t).updNode r b (fun n => { n with stop := true, quiesced := false }))
      | _ => .next ((s.popTok r b 15 ch.val).sendPunct r b t)

/-! ### Firings (R172, R173, R272) -/

/-- Element k of a vector in a format, before scaling, and whether an ill-formed word was consulted. -/
def latchElem (f : Fmt) (v : FMap Byte) (k : Nat) : FVal × Bool :=
  let w := Fmt.bits f
  let word := leNat ((upTo 4).map (fun i => v.getD (w * k / 32 * 4 + i) 0#8))
  elemVal f word (k % (32 / w))

/-- The element as it enters a product: I4X elements carry their group's scale (R164, R274). -/
def scaledElem (f : Fmt) (v scales : FMap Byte) (k : Nat) : FVal × Bool :=
  let e := latchElem f v k
  if f = .i4x then (scaleVal (scales.getD (k / 32) 0x7F#8).toNat e.1, e.2) else e

/-- The mask of a block of the metadata vector. -/
def Sheet.mask (sh : Sheet) (m : SheetMap) (block : Nat) : BitVec 16 := sh.meta_.getD block (defaultMask m block)

/-- idx(p) for every product: the kept dense elements in ascending order (R262). -/
def Sheet.index (sh : Sheet) (m : SheetMap) (balt : Bool) : List Nat :=
  if m.outer = 0 then upTo (m.products balt)
  else (upTo (m.dense balt / 16)).flatMap (fun k =>
    ((upTo 16).filter (bit (sh.mask m k).toNat)).map (fun j => 16 * k + j))

/-- A vector's chunk that holds element k. -/
def chunkOf (w k : Nat) : Nat := w * k / 8 / 1024

/-- The firing of a sheet from its latches: token, FMT and ERR (R272). -/
def Sheet.firing (sh : Sheet) (m : SheetMap) (balt : Bool) : BitVec 128 × Bool × Bool :=
  let idx := sh.index m balt
  let fb := sheetB m.fmt balt
  let (_, _, wa, wb) := sheetWidths m.fmt balt
  let ps := (upTo idx.length).map (fun p =>
    let a := scaledElem m.fmt sh.a sh.ascale p
    let b := scaledElem fb sh.b sh.bscale (idx.getD p 0)
    (prodOf a.1 b.1, a.2 || b.2))
  let fmt := ps.any Prod.snd
  let err := (upTo idx.length).any (fun p =>
    sh.aErr.contains (chunkOf wa p) || sh.bErr.contains (chunkOf wb (idx.getD p 0)))
  let used := (idx.map (· / 32)).eraseDups
  let nsc := fb == .i4x && sh.bscale.any (fun e => e.2 == 0xFF#8 && !used.contains e.1)
  let vals := ps.map Prod.fst
  let tok := match m.fmt with
    | .i8 | .i4 => firingInt vals
    | _ => firingFloat nsc vals
  (tok, fmt, err)

/-- The samples of this cycle become firings; the transfers of this cycle stand behind every word of it (R267,
R278). -/
def Region.sampleSheets (x : Region) : Region :=
  let sample (sh : Sheet) : Sheet :=
    { sh with queue := sh.queue.map (fun o =>
      match o with
      | SheetOp.sample m balt d => let f := sh.firing m balt; SheetOp.fire f.1 f.2.1 f.2.2 d
      | o => o) }
  let y : Region := { x with sheets := x.sheets.mapVal (fun _ sh => sample sh) }
  let z := y.fab.recvs.foldl (fun (z : Region) e =>
    z.updSheet e.2 (fun sh => sh.enqueue z.fab.ucycle (SheetOp.recv e.1 none))) y
  { z with fab := { z.fab with recvs := [] } }

/-! ### Merges and drains (R174, R277, R280) -/

/-- The accumulator after a firing. -/
def Sheet.merge (sh : Sheet) (tok : BitVec 128) (fmt err : Bool) : Sheet :=
  { sh with acc := csMerge sh.acc tok, sfmt := sh.sfmt || fmt, serr := sh.serr || err }

/-- The accumulator and SFLAG cleared. -/
def Sheet.clear (sh : Sheet) : Sheet := { sh with acc := csZero, sfmt := false, serr := false }

/-- The head of a sheet's queue, when its time has come. -/
def Sheet.ready (sh : Sheet) (now : Nat) : Option (SheetOp × List SheetOp) :=
  match sh.queue with
  | [] => none
  | o :: rest =>
    match o with
    | .sample _ _ _ => none
    | .recv _ none _ => none
    | o => if o.due ≤ now then some (o, rest) else none

/-- A drain that waits, held until a cycle. -/
def SheetOp.drainFrom (d : Nat) : SheetOp → SheetOp
  | .drain b t pos clr push dbar fired round tag d' => .drain b t pos clr push dbar fired round tag (if d' < d then d else d')
  | o => o

/-- A transfer's token put where its target waits for it; drains behind it land one cycle after it (R267). -/
def fillRecv (id : Nat) (p : BitVec 128 × Bool × Bool) (due : Nat) : List SheetOp → List SheetOp
  | [] => []
  | .recv i none d :: rest =>
    if i = id then
      let m := if d < due then due else d
      .recv i (some p) m :: rest.map (SheetOp.drainFrom (m + 1))
    else .recv i none d :: fillRecv id p due rest
  | o :: rest => o :: fillRecv id p due rest

/-- A transfer's token handed to its target (R278). -/
def Region.deliver (x : Region) (id target : Nat) (p : BitVec 128 × Bool × Bool) (due : Nat) : Region :=
  x.updSheet target (fun sh =>
    { sh with
      lastMerge := if sh.lastMerge < due then due else sh.lastMerge
      queue := fillRecv id p due sh.queue })

/-- A firing is merged into its sheet's accumulator one cycle after it is ready (R267): segment b, first lane s. -/
def execFiringMerge (r b t : Nat) (s : State) : VatAnswer :=
  let x := s.reg r
  let key := b * 4096 + t
  match (x.sheet key).ready x.fab.ucycle with
  | some (.fire tok fmt err _, rest) =>
    .next (s.updSheet r key (fun sh => { sh.merge tok fmt err with queue := rest }))
  | some (.recv _ (some (tok, fmt, err)) _, rest) =>
    .next (s.updSheet r key (fun sh => { sh.merge tok fmt err with queue := rest }))
  | some (.zero _, rest) => .next (s.updSheet r key (fun sh => { sh.clear with queue := rest }))
  | some (.reset _, rest) =>
    .next (s.updSheet r key (fun sh => { sh.clear with buf := csZeros, bufErr := [], queue := rest }))
  | some (.mark _, rest) => .next (s.updSheet r key (fun sh => { sh with serr := true, queue := rest }))
  | some (.send id target due, rest) =>
    let sh := x.sheet key
    .next (s.updReg r (fun x =>
      (x.updSheet key (fun sh => { sh.clear with queue := rest })).deliver id target (sh.acc, sh.sfmt, sh.serr) due))
  | _ => .next s

/-- The status word of a drain (R280). -/
def drainStatus (sh : Sheet) : Word :=
  BitVec.ofNat 32 (2 ^ 31 + (csDecode sh.acc).f.drainCode + sh.sfmt.toNat * 2 ^ 6 + sh.serr.toNat * 2 ^ 7)

/-- A payload with one token position replaced. -/
def setTok (p : Payload) (pos : Nat) (t : BitVec 128) : Payload :=
  csPayload (fun j => if j = pos then t else csTok p j)

/-- A token lands in element 15's kind 4 input for a sheet. -/
def State.landVat (s : State) (r b sheet : Nat) (t : Token) : State :=
  match (s.reg r).vatChan b sheet false with
  | some n => s.updElem r b 15 (fun el => el.push n t)
  | none => s

/-- A drain takes effect, and its token lands in element 15's channel (R277). A recorded status waits for its round's
commit; behind a round that has committed it arrives at once (R280). -/
def execDrainTokenLanding (r b t : Nat) (s : State) : VatAnswer :=
  let x := s.reg r
  let key := b * 4096 + t
  let sh := x.sheet key
  match sh.ready x.fab.ucycle with
  | some (.drain bench sheet pos clr push dbar fired round tag _, rest) =>
    let st := drainStatus sh
    let buf := setTok sh.buf pos (csResolve sh.acc)
    let berr := if sh.serr then pos :: sh.bufErr.erase pos else sh.bufErr.erase pos
    let sh' := { (if clr then sh.clear else sh) with
      buf := if push then csZeros else buf, bufErr := if push then [] else berr, queue := rest }
    let s := s.updSheet r key (fun _ => sh')
    let s := if push then s.landVat r bench sheet ⟨.data, !berr.isEmpty, round, tag, BitVec.ofNat 8 sheet, buf⟩ else s
    let s := s.updNode r bench (fun n => { n with vnstat := n.vnstat ||| st })
    .next (
      if dbar = 0 then s
      else if precedes round (s.graph x.graph).next then s.now (.barrierArrival x.job dbar r st)
      else s.updNode r bench (fun n => { n with drains := n.drains ++ [⟨round, fired, dbar, st⟩] }))
  | some (.punct bench sheet tok _, rest) =>
    .next ((s.updSheet r key (fun sh => { sh with queue := rest })).landVat r bench sheet tok)
  | _ => .next s

/-- The next entry of some sheet that is ready, as an event. -/
def Region.sheetEvent (x : Region) (r : Nat) : Option Event :=
  x.sheets.findSome? (fun e =>
    match e.2.ready x.fab.ucycle with
    | some (.drain .., _) | some (.punct .., _) => some (.drainTokenLanding r (e.1 / 4096) (e.1 % 4096))
    | some _ => some (.firingMerge r (e.1 / 4096) (e.1 % 4096))
    | none => none)

end Sys2Proof.Machine
end

