-- ==== Sys2Proof/Machine/Port.lean ====
section
/-! DEFINITION. The memory port and the owner node (R212 to R217, R242 to R251): page walks, parked accesses,
performed requests, replies and updates. -/

namespace Sys2Proof.Machine

/-! ### Results land (R180 to R182) -/

/-- A payload under a lane mask: selected lanes new, the others old. -/
def blend (old new : Payload) (m : BitVec 16) : Payload :=
  ofLanes (fun i => if bit m.toNat i then lane new i else lane old i)

/-- A result written to a register, mask or scale register (R182). DESIGN CHOICE (log 96): where two results of one cycle land in
one register, the lanes that the later one does not select keep those of the earlier one. -/
def Element.land (el : Element) (d : Dst) (t : Token) (lanes : BitVec 16) : Element :=
  match d with
  | .reg n =>
    { el with regs := el.regs.set .zero n ⟨blend (el.regs.getD n .zero).val t.data lanes, t.err⟩ }
  | .mask n => if n = 0 then el else { el with masks := el.masks.set .zero n ⟨t.data.setWidth 16, t.err⟩ }
  | .scale n => { el with scales := el.scales.put n (t.data.setWidth 8), scaleBad := el.scaleBad.filter (· != n) }
  | .chan _ => el

/-- A result of element 0 that its memory port makes: it lands in the next cycle that is not frozen (R103, R181). -/
def State.portResult (s : State) (r b : Nat) (d : Dst) (t : Token) (pos : DWord) : State :=
  let x := s.reg r
  let chan := match d with | .chan n => ((x.bench b).rec_ 0).chanField n | _ => t.chan
  s.updElem r b 0 (fun el =>
    { el with pipe := el.pipe ++ [⟨x.fab.ucycle, 4 * x.fab.ucycle + 3, d, { t with chan := chan }, 0xFFFF#16, pos⟩] })

/-- A result of an element, wherever it goes. -/
def State.landResult (s : State) (r b e : Nat) (d : Dst) (t : Token) (lanes : BitVec 16) (pos : DWord) : State :=
  match d with
  | .chan n => s.pushTok r b e n t pos
  | d => s.updElem r b e (fun el => el.land d t lanes)

/-! ### The request list of a port -/

/-- The port of a bench changed. -/
def State.updPort (s : State) (r b : Nat) (f : Port → Port) : State :=
  s.updBench r b (fun y => { y with port := f y.port })

/-- The port of a bench. -/
def State.port (s : State) (r b : Nat) : Port := ((s.reg r).bench b).port

/-- A request changed, by its number. -/
def Port.updReq (p : Port) (n : Nat) (f : Request → Request) : Port :=
  { p with reqs := p.reqs.map (fun q => if q.seq = n then f q else q) }

/-- A request removed. -/
def Port.drop (p : Port) (n : Nat) : Port := { p with reqs := p.reqs.filter (fun q => q.seq != n) }

/-- A request is past its accesses. -/
def Request.finished (q : Request) : Bool :=
  match q.state with
  | .performed | .failed => true
  | _ => false

/-- The request of a stream that is next to be performed. -/
def Port.next (p : Port) (st : Nat) : Option Request := p.reqs.find? (fun q => q.stream == st && !q.finished)

/-- Requests of a stream in its queue (R243). -/
def Port.queued (p : Port) (st : Nat) : Nat := (p.reqs.filter (fun q => q.stream == st)).length

/-- A request enters the port (R243, R246). -/
def State.enterReq (s : State) (r b : Nat) (q : Request) : State :=
  let (s, t) := s.ticket
  let due := s.cycle + 1 + Config.portLatency t
  s.updPort r b (fun p =>
    { p with
      reqs := p.reqs ++ [{ q with seq := p.nextSeq, due := due }]
      nextSeq := p.nextSeq + 1
      badCount := if p.badCount + q.badIdx.length < 2 ^ 32 then p.badCount + q.badIdx.length else 2 ^ 32 - 1
      badFirst := p.badFirst.orElse (fun _ => q.badIdx.head?.map (fun x => (q.round, q.tag, x.1, x.2))) })

/-- The kind of a request's accesses: 0 read, 1 write (R214). -/
def ReqKind.access : ReqKind → Nat
  | .store | .scatter => 1
  | _ => 0

/-- A cause of a request (R234): the request is done with, and the round is voided. -/
def State.reqRaise (s : State) (r b : Nat) (q : Request) (cause i0 i2 i3 : Nat) : State :=
  (s.updPort r b (fun p => p.updReq q.seq (fun q => { q with state := .failed }))).raiseRound r
    (roundCause cause q.ttag (BitVec.ofNat 64 i0) q.pos (BitVec.ofNat 64 i2) (BitVec.ofNat 64 i3))

/-- The pages that probes of the rounds in flight have pinned. -/
def Port.pinSet (p : Port) : List Pin := p.pins.flatMap Prod.snd

/-- Steps 3 to 7 of R212 for one access of a request. -/
def State.accWalk (s : State) (r b : Nat) (q : Request) (a : Access) : PortRes :=
  s.portWalk (s.reg r).job (ReqKind.access q.kind) a.ver a.addr a.len (s.port r b).pinSet

/-- Steps 3 to 7 of R212 for every access of a request. -/
def State.reqWalk (s : State) (r b : Nat) (q : Request) : PortRes :=
  q.accs.foldl (fun acc a =>
    match acc with
    | .ok ps =>
      match s.accWalk r b q a with
      | .ok qs => .ok (ps ++ qs)
      | r => r
    | r => r) (.ok [])

/-! ### Parked accesses (R214 to R216) -/

/-- Doubleword 0 of a parked-access entry (R214). -/
def Parked.code (p : Parked) (dieBench : Nat) : DWord :=
  BitVec.ofNat 64 (2 ^ 63 + p.probe.toNat * 2 ^ 62 + p.kind * 2 ^ 60 + p.step * 2 ^ 55 + dieBench * 2 ^ 47
    + p.stream % 16 * 2 ^ 39 + p.range * 2 ^ 35 + p.reason * 2 ^ 33 + p.round.toNat)

/-- The first free entry of a die's parked-access table. -/
def Die.freeParked (d : Die) : Option Nat := (upTo 1024).find? (fun i => (d.parked.find? i).isNone)

/-- An access takes an entry of the table and S receives 0x46, or waits at its port (R215). -/
def State.park (s : State) (p : Parked) : State :=
  let x := s.reg p.region
  let d := x.place.die
  match (s.die d).freeParked with
  | some i =>
    let p := { p with retryAt := s.cycle + 1024, step := 0 }
    (s.updDie d (fun y => { y with parked := y.parked.put i p })).event p.region 0x46 (BitVec.ofNat 64 p.va) p.pos
      (p.code (x.dieBench p.bench)) (BitVec.ofNat 64 i)
  | none => s.updDie d (fun y => { y with parkWait := y.parkWait ++ [p] })

/-- A parked access of a region's bench. -/
def State.parkAccess (s : State) (r b stream seq kind range va reason : Nat) (round : BitVec 24) (pos : DWord) : State :=
  s.park { region := r, bench := b, stream := stream, seq := seq, pos := pos, va := va, kind := kind,
           range := range, reason := reason, round := round, probe := false,
           retryAt := 0, step := 0, passed := false, since := s.cycle }

/-- A request's access at an address parks (R214, R215). -/
def State.parkReq (s : State) (r b : Nat) (q : Request) (va reason : Nat) : State :=
  let range := ((q.accs.find? (fun a => a.addr == va)).map Access.range).getD 0
  (s.updPort r b (fun p => p.updReq q.seq (fun q => { q with state := .parked }))).parkAccess r b q.stream q.seq
    (ReqKind.access q.kind) range va reason q.round q.pos

/-- The region has an access parked, in the table or waiting for an entry. -/
def State.hasParked (s : State) (r : Nat) (probe : Bool) : Bool :=
  let d := s.die (s.reg r).place.die
  d.parked.any (fun p => p.2.region == r && p.2.probe == probe) || (!probe && d.parkWait.any (fun p => p.region == r))

/-- Pages probes of a round have pinned. -/
def Port.pinned (p : Port) (round : BitVec 24) : List Pin := p.pins.getD round.toNat []

/-- A probe's pages enter the pin set, or the page that would be the 65th (R247). -/
def addPins (old : List Pin) (parts : List Part) : Except Nat (List Pin) :=
  parts.foldl (fun acc p =>
    match acc with
    | .ok l =>
      let page := p.va - p.va % p.leaf.size
      if l.any (fun x => x.page == page) then .ok l
      else if 64 ≤ l.length then .error page
      else .ok (l ++ [⟨page, p.leaf.size, p.leaf.frame, p.leaf.entry⟩])
    | e => e) (.ok old)

/-- The validity token of a probe: 1 in the lanes translated, 0 elsewhere (R246, R247). -/
def probePayload (q : Request) : Payload :=
  ofLanes (fun i => if q.accs.any (fun a => a.lane == i) then 1#32 else 0#32)

/-- A request passed steps 3 to 7: a probe pins and answers, another waits for its turn at memory. -/
def State.walked (s : State) (r b : Nat) (q : Request) (parts : List Part) : State :=
  match q.kind with
  | .probe dst =>
    match addPins ((s.port r b).pinned q.round) parts with
    | .error page => s.reqRaise r b q 0x4C page 0 0
    | .ok l =>
      (s.updPort r b (fun p => { p.drop q.seq with pins := p.pins.put q.round.toNat l })).portResult r b dst
        ⟨.data, q.err, q.round, q.tag, 0#8, probePayload q⟩ q.pos
  | _ =>
    let (s, t) := s.ticket
    s.updPort r b (fun p => p.updReq q.seq (fun q =>
      { q with state := .translated, due := s.cycle + Config.portLatency t }))

/-- The bytes a request names, lane by lane for index forms. -/
def Request.overlaps (q o : Request) : Bool :=
  q.accs.any (fun a => o.accs.any (fun c => decide (a.addr < c.addr + c.len ∧ c.addr < a.addr + a.len)))

/-- MORD lets a request be performed: every request before each earlier MORD is performed, or at most 16 are not
and none of them overlaps it (R245). -/
def Port.released (p : Port) (q : Request) : Bool :=
  p.reqs.all (fun m =>
    match m.kind with
    | .mord _ _ =>
      if m.seq < q.seq then
        let before := p.reqs.filter (fun o => decide (o.seq < m.seq) && !o.finished && o.stream != mordStream)
        before.isEmpty || (decide (before.length ≤ 16) && q.stream != mordStream && before.all (fun o => !q.overlaps o))
      else true
    | _ => true)

/-- A request waits for its walk now; a probe is performed by it, in its turn and after what a MORD puts before it. -/
def Port.walking (p : Port) (now : Nat) (q : Request) : Bool :=
  q.state == .waiting && decide (q.due ≤ now)
    && (q.stream != probeStream || p.next probeStream == some q && p.released q)

/-- The walk of the first request of a stream that waits for one (R212). -/
def execPageWalk (r b st : Nat) (s : State) : Answer :=
  match (s.port r b).reqs.find? (fun q => q.stream == st && (s.port r b).walking s.cycle q) with
  | none => .next s
  | some q =>
    match s.reqWalk r b q with
    | .ok parts => .next (s.walked r b q parts)
    | .park va reason => .next (s.parkReq r b q va reason)
    | .fail c i0 i2 i3 => .next (s.reqRaise r b q c i0 i2 i3)

/-- A waiting access takes the entry that was freed, in order of arrival (R215). -/
def execParkedAccessAdmit (die : Nat) (s : State) : Answer :=
  match (s.die die).parkWait, (s.die die).freeParked with
  | p :: rest, some _ => .next ((s.updDie die (fun d => { d with parkWait := rest })).park p)
  | _, _ => .next s

/-- The entry freed. -/
def State.freeParkedAt (s : State) (die idx : Nat) : State :=
  s.updDie die (fun d => { d with parked := d.parked.del idx })

/-- A failed retry: STEP rises to at most CEILSTEP, and the next retry is set (R215). -/
def State.retryFailed (s : State) (die idx : Nat) (p : Parked) : State :=
  let step := if p.step < (s.die die).ceil then p.step + 1 else p.step
  s.updDie die (fun d => { d with parked := d.parked.put idx { p with step := step, retryAt := s.cycle + 2 ^ (10 + step) } })

/-- The stream number of an owner's access and of a metadata read among the parked ones. -/
def ownerStream : Nat := 18
def metaStream : Nat := 19

/-- Steps 3 to 7 for the one page an entry names. -/
def State.entryWalk (s : State) (p : Parked) : PortRes :=
  let x := s.reg p.region
  let ver := p.stream == metaStream || (rangeOf (x.bench p.bench).plane p.va 1).any Range.ver
  s.portWalk x.job p.kind ver p.va 1 []

/-- A retry of a parked access (R215). A probe entry that ends in a cause counts as passed. -/
def execParkedRetry (die idx : Nat) (s : State) : Answer :=
  match (s.die die).parked.find? idx with
  | none => .next s
  | some p =>
    if s.cycle < p.retryAt then .next s
    else
      let req := (s.port p.region p.bench).reqs.find? (fun q => q.seq == p.seq && q.stream == p.stream && q.state == .parked)
      match p.probe, req with
      | false, some q =>
        match s.reqWalk p.region p.bench q with
        | .ok parts => .next ((s.freeParkedAt die idx).walked p.region p.bench q parts)
        | .park va reason =>
          .next (if va = p.va then s.retryFailed die idx p
            else (s.freeParkedAt die idx).parkReq p.region p.bench q va reason)
        | .fail c i0 i2 i3 => .next ((s.freeParkedAt die idx).reqRaise p.region p.bench q c i0 i2 i3)
      | _, _ =>
        match s.entryWalk p with
        | .park _ _ => .next (s.retryFailed die idx p)
        | _ => .next (s.freeParkedAt die idx)

/-! ### Performing requests (R221, R243 to R246) -/

/-- A pad reply, or the bytes past LEN, as R243 lays them out. -/
def padBytes (w : Word) : List Byte := (upTo 64).map (fun j => byteOf w.toNat (j % 4))

/-- A request's read of memory: 64 bytes, or one value per lane. -/
def State.readReq (s : State) (r b : Nat) (q : Request) : ReadRes :=
  let x := s.reg r
  let named := match q.kind with | .load n => n | _ => none
  let one (a : Access) : ReadRes :=
    match s.accWalk r b q a with
    | .ok ps => s.readParts x.writer named ps
    | _ => .wait
  match q.kind with
  | .load _ =>
    match q.pad with
    | some w => .bytes ((padBytes w).take q.len) false
    | none => match q.accs with | a :: _ => one a | [] => .bytes [] false
  | _ =>
    q.accs.foldl (fun acc a =>
      match acc with
      | .bytes bs e =>
        match one a with
        | .bytes cs f =>
          .bytes ((upTo 64).map (fun j => if j / 4 = a.lane then cs.getD (j % 4) 0#8 else bs.getD j 0#8)) (e || f)
        | r => r
      | r => r) (.bytes [] false)

/-- The bytes of a store at an access: the byte or none for each. -/
def Request.storeBytes (q : Request) (a : Access) : List (Option Byte) :=
  match q.kind with
  | .scatter => (upTo a.len).map (fun j => some (byteOf (lane q.data a.lane).toNat j))
  | _ => (upTo a.len).map (fun j =>
      if bit q.lanes.toNat (j / 4) && bit q.bmask.toNat j then some (byteOf q.data.toNat j) else none)

/-- Some bytes of a plain page written, the others left. -/
def State.plainStore (s : State) (pa : Nat) (bs : List (Option Byte)) : State :=
  (bs.foldl (fun (acc : State × Nat) b =>
    (match b with | some x => acc.1.storeBytes acc.2 [x] | none => acc.1, acc.2 + 1)) (s, pa)).1

/-- The marks of the units that a store covers whole. -/
def State.healUnits (s : State) (pa : Nat) (bs : List (Option Byte)) : State :=
  if bs.all Option.isSome then
    { s with uerr := s.uerr.filter (fun u => !decide (pa ≤ 64 * u ∧ 64 * u + 64 ≤ pa + bs.length)) }
  else s

/-- The pieces of an access stored, page by page. -/
def State.storeParts (s : State) (r : Nat) (q : Request) (bs : List (Option Byte)) (parts : List Part) : StoreRes :=
  (parts.foldl (fun (acc : StoreRes × List (Option Byte)) p =>
    match acc.1 with
    | .done s =>
      let mine := acc.2.take p.len
      let rest := acc.2.drop p.len
      if peVerp p.leaf.entry then (s.versStore r q.round p mine, rest)
      else (.done ((s.plainStore p.leaf.pa mine).healUnits p.leaf.pa mine), rest)
    | x => (x, acc.2)) (.done s, bs)).1

/-- A store request performed, access by access in ascending lane order (R246). -/
def State.storeReq (s : State) (r b : Nat) (q : Request) : StoreRes :=
  if q.err then .done s
  else
    q.accs.foldl (fun acc a =>
      match acc with
      | .done s =>
        match s.accWalk r b q a with
        | .ok ps => s.storeParts r q (q.storeBytes a) ps
        | _ => .wait
      | x => x) (.done s)

/-- A performed read waits for its turn in the stream (R213). -/
def State.readDone (s : State) (r b : Nat) (q : Request) (pa : Nat) (bs : List Byte) (err : Bool) : State :=
  let (s, t) := s.ticket
  let bs := bs ++ List.replicate (64 - bs.length) 0#8
  let s := s.updPort r b (fun p => p.updReq q.seq (fun q =>
    { q with state := .performed, data := BitVec.ofNat 512 (leNat bs), err := q.err || err,
             due := s.cycle + Config.portLatency t }))
  if err then s.elog r b 0 ⟨q.round, q.tag, q.stream, pa / 64⟩ q.pos else s

/-- The addresses that a request touches. -/
def State.reqTouched (s : State) (r : Nat) (q : Request) (parts : List Part) : List Nat :=
  s.touched (s.reg r).writer (match q.kind with | .load n => n | _ => none)
    (if ReqKind.access q.kind = 1 then some q.round else none) parts

/-- An access waits: for a line under evacuation, or one cycle for a bank that a group read uses (R232, R268). -/
def State.reqHeld (s : State) (pas : List Nat) : Bool := s.reqLocked pas || pas.any s.vatBusy

/-- A memory port uses the banks of some addresses in this cycle (R268). -/
def State.useBanks (s : State) (r : Nat) (pas : List Nat) : State :=
  s.updReg r (fun x => x.use s.cycle (pas.filterMap vatKey))

/-- The request that is next in a stream is performed, when nothing holds it back. -/
def execMemoryRequestPerformed (r b st : Nat) (s : State) : Answer :=
  let p := s.port r b
  match p.next st with
  | none => .next s
  | some q =>
    if q.state != .translated || s.cycle < q.due || !p.released q then .next s
    else
      match q.kind with
      | .mord _ emit =>
        if p.reqs.any (fun o => decide (o.seq < q.seq) && !o.finished) then .next s
        else
          let s := s.updPort r b (fun p => p.drop q.seq)
          match emit with
          | some d => .next (s.portResult r b d ⟨.data, q.err, q.round, q.tag, 0#8, 0#512⟩ q.pos)
          | none => .next s
      | .probe _ => .next (s.walked r b q [])
      | .pass d t => .next ((s.updPort r b (fun p => p.drop q.seq)).portResult r b d t q.pos)
      | _ =>
        match s.reqWalk r b q with
        | .park va reason => .next (s.parkReq r b q va reason)
        | .fail c i0 i2 i3 => .next (s.reqRaise r b q c i0 i2 i3)
        | .ok parts =>
          let pas := s.reqTouched r q parts
          if s.reqHeld pas then .next s
          else
          let s := s.useBanks r pas
          if ReqKind.access q.kind = 1 then
            match s.storeReq r b q with
            | .done s' => .next (s'.updPort r b (fun p => p.drop q.seq))
            | .wait => .next s
            | .fail c va k => .next (s.reqRaise r b q c va q.round.toNat k)
            | .uncorrectable => .next ((s.updPort r b (fun p => p.drop q.seq)).sink r q.round q.tag)
          else
            match s.readReq r b q with
            | .bytes bs err => .next (s.readDone r b q ((parts.map (fun p => p.leaf.pa)).headD 0) bs err)
            | .wait => .next s
            | .fail c va k =>
              let named := match q.kind with | .load (some n) => n.toNat | _ => 0
              .next (s.reqRaise r b q c va named k)

/-- The version wait of a request: the round it names, or 0 (R102 source 6, R216). -/
def State.versionWait (s : State) (r b : Nat) (q : Request) : Bool :=
  if q.state != .translated || s.cycle < q.due || q.accs.isEmpty || !(s.port r b).released q then false
  else
    match s.reqWalk r b q with
    | .ok parts =>
      if s.reqLocked (s.reqTouched r q parts) then false
      else if ReqKind.access q.kind = 1 then (match s.storeReq r b q with | .wait => true | _ => false)
      else (match s.readReq r b q with | .wait => true | _ => false)
    | _ => false

/-- A request meets a locked line (R102 source 7). -/
def State.lockWait (s : State) (r b : Nat) (q : Request) : Bool :=
  if q.state != .translated || s.cycle < q.due then false
  else match s.reqWalk r b q with | .ok parts => s.reqLocked (s.reqTouched r q parts) | _ => false

/-- The kind 3 input of a bench that receives a stream's replies (R243). -/
def Bench.streamInput (y : Bench) (st : Nat) : Option (Nat × Nat) :=
  y.plane.elems.findSome? (fun e =>
    (List.find? (fun c => c.2.kind == 3 && !c.2.out && c.2.peer == st) e.2.chans).map (fun c => (e.1, c.1)))

/-- The reply at the head of a stream lands in its consumer's buffer, in request order (R213). -/
def execMemoryReply (r b st : Nat) (s : State) : Answer :=
  let p := s.port r b
  match p.reqs.find? (fun q => q.stream == st) with
  | none => .next s
  | some q =>
    if q.state != .performed || s.cycle < q.due then .next s
    else
      match ((s.reg r).bench b).streamInput st with
      | none => .next (s.updPort r b (fun p => p.drop q.seq))
      | some (e, n) =>
        if (s.reg r).bufFull b e n then .next s
        else
          .next ((s.updPort r b (fun p => p.drop q.seq)).updElem r b e (fun el =>
            el.push n ⟨.data, q.err, q.round, q.tag, BitVec.ofNat 8 st, q.data⟩))

/-! ### The owner node (R249 to R251) -/

/-- The inputs of an RMW as channels. -/
def opndChan : Opnd → Option Nat
  | .ch n => some n.val
  | .v _ => none

/-- What an owner is configured to do. -/
structure OwnerCfg where
  op : RmwOp
  dbl : Bool
  ret : Option Nat
  ins : List Nat

/-- The configuration an RMW names (R249). -/
def ownerCfg : Option Instr → Option OwnerCfg
  | some (.rmw op dbl ret a b) =>
    some ⟨op, dbl, ret.bind opndChan, (opndChan a).toList ++ (opndChan b).toList⟩
  | _ => none

/-- Bytes of an update. -/
def OwnerCfg.width (c : OwnerCfg) : Nat := if c.op = .csadd then 16 else if c.dbl then 8 else 4

/-- The update is applied in tag order (R249). -/
def rmwOrdered : RmwOp → Bool
  | .adds | .addsn | .fadd | .xch | .csadd => true
  | _ => false

/-- The new value of a word, double or token, and its flags (R249). -/
def rmwValue (op : RmwOp) (w m x : Nat) : Nat × Flags :=
  let sel (unsigned : Bool) (gt : Bool) : Nat :=
    if gt then (if intVal w unsigned m < intVal w unsigned x then x else m)
    else (if intVal w unsigned x < intVal w unsigned m then x else m)
  let sat (unsigned : Bool) : Nat × Flags :=
    let v := intVal w unsigned m + intVal w unsigned x
    let c := clampInt (intMin w unsigned) (intMax w unsigned) v
    (wrapInt w c, flagIf (c != v) fSAT)
  match op with
  | .add => ((m + x) % 2 ^ w, 0#8)
  | .and => (m &&& x, 0#8)
  | .or => (m ||| x, 0#8)
  | .xor => (m ^^^ x, 0#8)
  | .min => (sel false false, 0#8)
  | .max => (sel false true, 0#8)
  | .minn => (sel true false, 0#8)
  | .maxn => (sel true true, 0#8)
  | .adds => sat false
  | .addsn => sat true
  | .fadd => let r := faddW (BitVec.ofNat 32 m) (BitVec.ofNat 32 x); (r.1.toNat, r.2)
  | .xch => (x, 0#8)
  | .csadd => ((csMerge (BitVec.ofNat 128 m) (BitVec.ofNat 128 x)).toNat, 0#8)

/-- The operand of an update token. -/
def updOperand (c : OwnerCfg) (p : Payload) : Nat :=
  if c.op = .csadd then (csTok p 1).toNat
  else if c.dbl then dlane p 2 + dlane p 3 * 2 ^ 32 else dlane p 2

/-- NULL of an update token. -/
def updNull (p : Payload) : Bool := bit (dlane p 8) 0

/-- An update token is malformed: a reserved bit or a misaligned address (R249, R258). -/
def updMalformed (c : OwnerCfg) (p : Payload) : Bool :=
  (c.op != .csadd && (upTo 4).any (fun i => dlane p (4 + i) != 0)) || dlane p 8 / 2 != 0
    || (upTo 7).any (fun i => dlane p (9 + i) != 0) || reqAddr p % c.width != 0

/-- The token that returns an old value (R250). -/
def oldToken (c : OwnerCfg) (t : Token) (old : Nat) (err : Bool) : Token :=
  let cs := c.op == .csadd
  { t with
    err := t.err || err
    data := ofValues 32 9 (fun i =>
      if i < 2 then dlane t.data i
      else if i < 4 then (if cs then 0 else old / 2 ^ (32 * (i - 2)))
      else if i < 8 then (if cs then old / 2 ^ (32 * (i - 4)) else 0)
      else (updNull t.data).toNat) }

/-- The owner of a bench changed. -/
def State.updOwner (s : State) (r b : Nat) (f : Owner → Owner) : State :=
  s.updPort r b (fun p => { p with owner := f p.owner })

/-- The phase at which an element's RMW stands. -/
def ElemRec.rmwPhase (x : ElemRec) : Nat :=
  ((List.find? (fun u => u.2.c.any (fun t => match t.op with | .rmw .. => true | _ => false)) x.wheel).map
    Prod.fst).getD 0

/-- The position word of an owner: that of its RMW (R184). -/
def State.ownerPos (s : State) (r b : Nat) : DWord :=
  let x := s.reg r
  posWord x.place.die (x.dieBench b) 0 (((x.bench b).rec_ 0).rmwPhase) 2 0xE2

/-- Flags raised in element 0's set of a round (R171). -/
def State.raiseFlags (s : State) (r b e : Nat) (round : BitVec 24) (f : Flags) : State :=
  s.updElem r b e (fun el =>
    { el with roundFlags := el.roundFlags.set 0#8 round.toNat (el.roundFlags.getD round.toNat 0#8 ||| f) })

/-! ### Iteration contexts (R179, R182, R183, R203, R236) -/

/-- CROUND becomes a round: the first time, the context and the positions of the kernel's generators, and of those that
no kernel has used, are kept for a void (R203, R236). -/
def Element.beginRound (el : Element) (k : Nat) (n : BitVec 24) : Element :=
  let c : Ctx := { (el.ctxs.getD k .init) with cround := n }
  let kept := el.ctxAt.getD n.toNat []
  let el := { el with ctxs := el.ctxs.put k c }
  if (kept.find? k).isSome then el
  else
    { el with
      ctxAt := el.ctxAt.put n.toNat (kept.put k c)
      genAt := el.genAt.put n.toNat (((upTo 4).filter (fun g => (el.gens.find? g).all (fun x => x.owner == k))).foldl
        (fun m g => FMap.put m g (el.gens.getD g .init).pos) (el.genAt.getD n.toNat [])) }

/-- The context after a consumed data token. -/
def Element.tookData (el : Element) (k : Nat) (round tag : BitVec 24) : Element :=
  let el := if (el.ctxs.getD k .init).cround = round then el else el.beginRound k round
  { el with ctxs := el.ctxs.put k { (el.ctxs.getD k .init) with ctag := tag } }

/-- The context after a consumed token. -/
def Element.consumed (el : Element) (k : Nat) (t : Token) : Element :=
  if t.kind.isData then el.tookData k t.round t.tag
  else if t.kind == .marker || t.kind == .switch then el.beginRound k (t.round + 1)
  else if t.kind == .pass then { el with passed := k :: el.passed }
  else el

/-! ### Updates of an owner (R250) -/

/-- One arriving token per input enters the window while it has room; data off its input's round raises 0x90 (R294), a
tag out of order 0x91. -/
def State.ownerIntake (s : State) (r b : Nat) (c : OwnerCfg) : State :=
  c.ins.foldl (fun s n =>
    let o := (s.port r b).owner
    let el := ((s.reg r).bench b).elem 0
    match el.bufs.getD n [] with
    | [] => s
    | t :: _ =>
      if 32 ≤ o.window.length then s
      else if t.kind.isData && t.round != el.inRound.getD n el.round0 then
        s.raiseRound r (roundCause 0x90 t.tag (s.ownerPos r b) t.header 0#64 0#64)
      else
        let last := o.lastTag.find? (t.round.toNat * 32 + n)
        if t.kind.isData && last.any (fun l => !precedes l t.tag) then
          s.raiseRound r (roundCause 0x91 t.tag (s.ownerPos r b) t.header 0#64 0#64)
        else
          ((s.popTok r b 0 n).updElem r b 0 (fun el => el.consumed o.slotK t)).updOwner r b (fun o =>
            { o with
              window := o.window ++ [⟨n, t⟩]
              lastTag := if t.kind.isData then o.lastTag.put (t.round.toNat * 32 + n) t.tag else o.lastTag })) s

/-- The first token in the window of each input. -/
def Owner.heads (o : Owner) (c : OwnerCfg) : List (Option OwnTok) :=
  c.ins.map (fun n => o.window.find? (fun w => w.input == n))

/-- What the owner does next (R250). -/
inductive OwnerNext where
  | idle
  | apply (w : OwnTok)
  /-- Every input's head ends round n, or is one punctuation that passes. -/
  | punct (t : Token)
  | raise (cause : Nat) (ts : List Token)
  deriving DecidableEq, Repr

/-- The next act: the first arrival of the round when order is free, the earliest tag when every input has a
token otherwise. -/
def Owner.next (o : Owner) (c : OwnerCfg) : OwnerNext :=
  let hs := o.heads c
  let data := o.window.filter (fun w => w.tok.kind.isData && w.tok.round == o.round)
  if !rmwOrdered c.op && !data.isEmpty then
    match data with
    | w :: _ => .apply w
    | [] => .idle
  else
    match hs with
    | [some w] =>
      if w.tok.kind.isData then (if w.tok.round = o.round then .apply w else .raise 0x90 [w.tok]) else .punct w.tok
    | [some v, some w] =>
      match pickTag v.tok w.tok with
      | .left => if v.tok.round = o.round then .apply v else .raise 0x90 [v.tok]
      | .right => if w.tok.round = o.round then .apply w else .raise 0x90 [w.tok]
      | .both => .punct (endToken v.tok.round [v.tok, w.tok])
      | .raise cause => .raise cause [v.tok, w.tok]
    | _ => .idle

/-- The 32-byte line of an address. -/
def lineOf (va : Nat) : Nat := va / 32 * 32

/-- The undo log of a round with a line saved before its first change (R251); none when a 65th is needed. -/
def undoSave (log : List (Nat × List Byte)) (va : Nat) (old : List Byte) : Option (List (Nat × List Byte)) :=
  if log.any (fun l => l.1 == lineOf va) then some log
  else if 64 ≤ log.length then none
  else some (log ++ [(lineOf va, old)])

/-- An old value, or the marker of a round, goes to d and its update is made; without credit it waits, and its update
with it (R250). -/
def State.ownerSend (s : State) (r b : Nat) (c : OwnerCfg) (t : Token) (act : State → State) : State :=
  match c.ret with
  | none => act s
  | some n =>
    if s.outFree r b 0 n then
      let t := { t with chan := ((((s.reg r).bench b).rec_ 0).chanField n) }
      ((act (s.updOwner r b (fun o => { o with out := none }))).spendCredit r b 0 n).pushTok r b 0 n t (s.ownerPos r b)
    else s.updOwner r b (fun o => { o with out := some t })

/-- An update is not applied and keeps its place: reported as an ERR sink (R249). -/
def State.ownerSkip (s : State) (r b : Nat) (c : OwnerCfg) (w : OwnTok) : State :=
  s.ownerSend r b c (oldToken c { w.tok with err := true } 0 true) (fun s =>
    (s.updOwner r b (fun o => { o with window := o.window.erase w })).sink r w.tok.round w.tok.tag)

/-- An update applied at memory (R249, R251). -/
def State.ownerApply (s : State) (r b : Nat) (c : OwnerCfg) (w : OwnTok) : State :=
  let x := s.reg r
  let t := w.tok
  let pos := s.ownerPos r b
  let va := reqAddr t.data
  let raise (cause i0 i2 i3 : Nat) : State :=
    s.raiseRound r (roundCause cause t.tag (BitVec.ofNat 64 i0) pos (BitVec.ofNat 64 i2) (BitVec.ofNat 64 i3))
  if t.err || (c.op == .csadd && !(csDecode (csTok t.data 1)).parOk) then s.ownerSkip r b c w
  else if updMalformed c t.data then s.raiseRound r (roundCause 0x93 t.tag pos t.header 0#64 0#64)
  else
    match portCheck (x.bench b).plane ownerStream 2 false va c.width with
    | some (cause, i2) => raise cause va i2 0
    | none =>
      let a := accessAt (x.bench b).plane va c.width 0
      match s.portWalk x.job 2 a.ver va c.width (s.port r b).pinSet with
      | .fail cause i0 i2 i3 => raise cause i0 i2 i3
      | .park va reason => s.parkAccess r b ownerStream 0 2 a.range va reason t.round pos
      | .ok [] => s
      | .ok (p :: _) =>
        let pa := p.leaf.pa
        if s.reqHeld [pa] then s
        else if s.badBytes pa c.width then s.ownerSkip r b c w
        else
          let s := s.useBanks r [pa]
          let m := s.mem.readNat pa c.width
          let res := rmwValue c.op (8 * c.width) m (updOperand c t.data)
          let null := updNull t.data
          let log := (s.port r b).owner.undo.getD t.round.toNat []
          match (if null then some log else undoSave log va (s.mem.readBytes (pa - va % 32) 32)) with
          | none => raise 0x4D (lineOf va) 0 0
          | some log =>
            s.ownerSend r b c (oldToken c t m false) (fun s =>
              let s := if null then s else (s.storeBytes pa (leBytes res.1 c.width)).countAtomic pa x.place.die
              let s := if null || res.2 == 0#8 then s else s.raiseFlags r b 0 t.round res.2
              s.updOwner r b (fun o => { o with window := o.window.erase w, undo := o.undo.put t.round.toNat log }))

/-- Punctuation at every input: the round's completion is reported, or a pass or done token goes by (R250). -/
def State.ownerPunct (s : State) (r b : Nat) (c : OwnerCfg) (t : Token) : State :=
  let ends := t.kind == .marker || t.kind == .switch
  s.ownerSend r b c t (fun s => s.updOwner r b (fun o =>
    let hs := (o.heads c).filterMap id
    { o with
      window := o.window.filter (fun w => !hs.contains w)
      done := if ends then o.done ++ [t.round] else o.done
      round := if ends then t.round + 1 else o.round }))

/-- One cycle of an owner node (R249 to R251): arrivals, then at most one update. -/
def execOwnerUpdate (r b : Nat) (s : State) : Answer :=
  match ownerCfg (s.port r b).owner.cfg with
  | none => .next s
  | some c =>
    let s := s.ownerIntake r b c
    match (s.port r b).owner.next c with
    | .idle => .next s
    | .apply w => .next (s.ownerApply r b c w)
    | .punct t => .next (s.ownerPunct r b c t)
    | .raise cause ts =>
      .next (s.raiseRound r (roundCause cause (earliest 0#24 (ts.map Token.tag)) (s.ownerPos r b)
        ((ts.map Token.header).getD 0 0#64) ((ts.map Token.header).getD 1 0#64) 0#64))

end Sys2Proof.Machine
end

