-- ==== Sys2Proof/Machine/Fabric.lean ====
section
/-! DEFINITION. A cycle of a region's fabric (R79, R98 to R104, R181): what freezes it, which bundles and
schedule words issue, how their effects are applied, and how results land. -/

namespace Sys2Proof.Machine

/-! ### What an operation reads and writes (R99, R102) -/

/-- The source operands of an element operation that have to be present. MARK, MERGE.C, VOTE and RMW follow
rules of their own. -/
def opSrcs : Instr → List Opnd
  | .fadd _ a b _ | .fsub _ a b _ | .fmul _ a b _ | .fmax _ a b _ | .fmin _ a b _ | .fcmp _ _ _ a b _
  | .qnt _ _ _ _ _ a b _ | .eSel _ _ a b _ | .shuf _ _ a b _ | .eFshr _ a b (some _) _ | .eFshl _ a b (some _) _
  | .steer _ _ a b | .mergeT _ a b | .join _ _ a b | .gate _ _ a b | .mst _ a b _ | .mstm _ a b _
  | .mgath _ _ _ _ a b _ | .mprobe _ _ _ a b _ | .lst _ a b _ | .lstm _ a b _ | .csacc _ _ a b | .red _ _ _ a b _ =>
    [a, b]
  | .fma d a b _ | .eFshr d a b none _ | .eFshl d a b none _ | .cnt _ d a b _ | .mscat _ _ _ _ d a b _ => [a, b, d]
  | .fabs _ a _ | .fneg _ a _ | .frcp _ a _ | .frsq _ a _ | .fexp2 _ a _ | .flog2 _ a _ | .iabs _ a _ | .eClz _ a _
  | .ePopc _ a _ | .cvt _ _ _ _ _ a _ | .dqnt _ _ _ _ a _ | .outl _ a _ | .gmax _ _ _ a _ | .gmin _ _ _ a _
  | .gsum _ _ _ _ a _ | .gscan _ _ _ _ a _ | .fork _ _ a | .ctltok _ a | .mov _ a _ | .agrw _ _ a | .agpad _ a
  | .mld _ a _ | .lld _ _ _ a _ | .csnorm _ _ _ a _ | .sphdr _ _ a | .sptree _ _ a | .rtag _ _ a => [a]
  | .iadd _ a b _ | .isub _ a b _ | .iadds _ _ a b _ | .isubs _ _ a b _ | .imul _ a b _ | .imulh _ _ a b _
  | .imin _ _ a b _ | .imax _ _ a b _ | .eAnd _ a b _ | .eOr _ a b _ | .eXor _ a b _ | .eAndn _ a b _ | .eShl _ a b _
  | .eShr _ a b _ | .eSra _ a b _ => a :: iargSrcs b
  | .bext _ a f _ => a :: (match f with | .opnd o => [o] | .imm _ _ => [])
  | .bdep d a f _ => a :: (match f with | .opnd o => [o, d] | .imm _ _ => [d])
  | .splat _ src _ => match src with | .lane a _ => [a] | .imm _ => []
  | .agstep _ n => match n with | .opnd a => [a] | .imm _ => []
  | .mord _ _ w => w.toList
  | _ => []

/-- The destinations an operation may push a token to. -/
def opDsts : Instr → List Opnd
  | .fadd d _ _ _ | .fsub d _ _ _ | .fmul d _ _ _ | .fma d _ _ _ | .fmax d _ _ _ | .fmin d _ _ _ | .fabs d _ _
  | .fneg d _ _ | .frcp d _ _ | .frsq d _ _ | .fexp2 d _ _ | .flog2 d _ _ | .iadd d _ _ _ | .isub d _ _ _
  | .iadds _ d _ _ _ | .isubs _ d _ _ _ | .imul d _ _ _ | .imulh _ d _ _ _ | .imin _ d _ _ _ | .imax _ d _ _ _
  | .iabs d _ _ | .eAnd d _ _ _ | .eOr d _ _ _ | .eXor d _ _ _ | .eAndn d _ _ _ | .eShl d _ _ _ | .eShr d _ _ _
  | .eSra d _ _ _ | .eFshr d _ _ _ _ | .eFshl d _ _ _ _ | .eClz d _ _ | .ePopc d _ _ | .bext d _ _ _ | .bdep d _ _ _
  | .cvt _ _ _ _ d _ _ | .qnt _ _ _ _ d _ _ _ | .dqnt _ _ _ d _ _ | .outl d _ _ | .gmax _ _ d _ _ | .gmin _ _ d _ _
  | .gsum _ _ _ d _ _ | .gscan _ _ _ d _ _ | .shuf _ d _ _ _ | .splat d _ _ | .eSel _ d _ _ _ | .mergeT d _ _
  | .mergeC d _ _ _ | .join _ d _ _ | .gate _ d _ _ | .mark d _ _ | .taggen d _ | .ctltok d _ | .mov d _ _
  | .agen d _ | .agwin d _ | .mprobe _ _ d _ _ _ | .lld _ _ d _ _ | .csacc _ d _ _ | .red _ _ d _ _ _
  | .csnorm _ _ d _ _ | .sphdr _ d _ | .sptree _ d _ | .vote d _ _ _ => [d]
  | .steer d f _ _ => [d, .ch f]
  | .fork d y _ => [d, .ch y]
  | .mord _ e _ => e.toList
  | .rtag _ f _ => f.toList
  | _ => []

/-- The stream whose queue an operation enters (R243, R246). -/
def opStream : Instr → Option Nat
  | .mld st _ _ | .mst st _ _ _ | .mstm st _ _ _ | .mgath st _ _ _ _ _ _ | .mscat st _ _ _ _ _ _ _ => some st.val
  | _ => none

/-- The operands that an operation in its present state waits for (R200, R202). -/
def View.needed (v : View) (i : Instr) : List Opnd :=
  match i with
  | .mark _ a b => if (v.read b).tok.isSome then [] else [a]
  | .mergeC _ a b c =>
    if v.starved (.ch c) then [.ch c]
    else if (v.asTok (.ch c)).kind.isData then [if control (v.asTok (.ch c)) then a else b]
    else [a, b]
  | .vote _ a b c =>
    let ins := [a, b, .ch c]
    let heads := ins.map (fun o => ((v.read o).tok).map Prod.snd)
    if (v.el.voter.forward heads).isSome || (upTo 3).any (fun k => (v.el.voter.lagging heads k).isSome) then [] else ins
  | i => opSrcs i

/-- The destinations that an operation in its present state may write: a CSACC that merges writes none (R252). -/
def View.writes (v : View) (i : Instr) : List Opnd :=
  match i with
  | .csacc k d a b =>
    let ts := (v.taken a ++ (if isNoOpnd b then [] else v.taken b)).map Prod.snd
    if !(v.el.accs.getD k.val .init).emit && ts.any (fun t => t.kind.isData) then [] else [d]
  | i => opDsts i

/-- The freeze source of an empty input, by the channel's kind (R102); 0 when it does not freeze. -/
def emptySource (kind : Nat) : Nat :=
  match kind with
  | 2 => 1
  | 3 => 3
  | 4 => 5
  | 5 => 11
  | _ => 0

/-- The freeze source of an output that cannot take a token. -/
def fullSource (kind : Nat) : Nat :=
  match kind with
  | 2 => 2
  | 4 => 5
  | _ => 0

/-- The local addresses an LLD, LST or LSTM touches. -/
def View.localBytes (v : View) (i : Instr) : List Nat :=
  let words (off : BitVec 10) (m : LMask) (f : Nat → Word × Nat) : List Nat :=
    (((upTo 16).filter (bit (v.mask m).val.toNat)).flatMap (fun k =>
      [v.lmAddr (f k).1 off (f k).2, v.lmAddr (f k).1 off ((f k).2 + 3)]))
  match i with
  | .lld g off _ a m => let p := (v.read a).val; words off m (fun k => if g then (lane p k, 0) else (lane p 0, 4 * k))
  | .lst off a _ m => let p := (v.read a).val; words off m (fun k => (lane p 0, 4 * k))
  | .lstm off a _ m => let p := (v.read a).val; words off m (fun k => (lane p k, 0))
  | _ => []

/-- The local memory banks that the bundles of a cycle use, by die and key (R232). -/
def State.localUses (s : State) (l : List (Focus × Instr)) : List (Nat × Nat) :=
  (l.flatMap (fun q =>
    match ({ s with focus := q.1 } : State).view q.2 with
    | none => []
    | some v => (v.localBytes q.2).map (fun a =>
        (v.reg.place.die, bankKey 0 (v.reg.dieBench q.1.bench) q.1.elem (a / 8192))))).eraseDups

/-- The freeze sources that a slot of a bundle raises (R102). -/
def State.slotFreeze (s : State) (f : Focus) (i : Instr) : List Nat :=
  match ({ s with focus := f } : State).view i with
  | none => []
  | some v =>
    let kind (n : Nat) : Nat := ((v.chan n).map Chan.kind).getD 0
    let ins := (v.needed i).filterMap (fun o =>
      match o with
      | .ch n => if v.starved o then some (emptySource (kind n.val)) else none
      | .v _ => none)
    let outs := (v.writes i).filterMap (fun o =>
      match o with
      | .ch n => if s.outFree f.region f.bench f.elem n.val then none else some (fullSource (kind n.val))
      | .v _ => none)
    let queue := match opStream i with
      | some st => if 16 ≤ v.bench.port.queued st then [3] else []
      | none => []
    let locked := if (v.localBytes i).any (s.localLocked v.reg.place.die (v.reg.dieBench f.bench) f.elem) then [7] else []
    (ins ++ outs ++ queue ++ locked).filter (· != 0)

/-- A kind 4 input of element 15 cannot take another token behind what is buffered, on its way, and sent by so many
words of the cycle that come first (R277). -/
def Region.drainFull (x : Region) (b sheet before : Nat) : Bool :=
  match x.vatChan b sheet false with
  | none => false
  | some n =>
    let coming := (x.sheets.flatMap (fun e => e.2.queue)).filter (fun o =>
      match o with
      | .drain b' t _ _ push _ _ _ _ _ => b' == b && t == sheet && push
      | .punct b' t _ _ => b' == b && t == sheet
      | _ => false)
    match x.chan b 15 n with
    | some c => decide (c.buf ≤ x.bufLen b 15 n + coming.length + before)
    | none => false

/-- Words of a node that send a token to the kind 4 input for a sheet: drains that push, and VWAITs that take
punctuation (R277, R279). -/
def Bench.sends (y : Bench) (sheet : Nat) (before : List Instr) : Nat :=
  (before.filter (fun i =>
    match i with
    | .vdrain _ t _ _ push _ => push && t.val == sheet
    | .vwait _ ch => ((y.elem 15).bufs.getD ch.val []).head?.any (fun t => !t.kind.isData)
    | _ => false)).length

/-- The freeze sources that a schedule word raises behind the words of its node that fire before it in the cycle (R266,
R267, R274, R276, R277, R279). -/
def State.wordFreeze (s : State) (r b : Nat) (before : List Instr) (i : Instr) : List Nat :=
  let x := s.reg r
  let y := x.bench b
  let locked (g : Nat) : List Nat :=
    if s.rowLocked x.place.die (x.place.groups.getD g 0) (y.node.row g).rp then [7] else []
  match i with
  | .vlda _ _ g _ _ => locked g.val
  | .vldb _ _ g _ _ _ => locked g.val
  | .vmac _ _ ga gb _ _ _ => locked ga.val ++ locked gb.val
  | .vscale _ t _ _ =>
    let taken := before.filter (fun j => match j with | .vscale _ u _ _ => u == t | _ => false)
    if (y.node.scaleBufs.getD t.val []).length ≤ taken.length then [5] else []
  | .vdrain _ t _ _ push _ => if push && x.drainFull b t.val (y.sends t.val before) then [5] else []
  | .vspmeta _ _ g delta _ _ =>
    match s.metaRead r b g.val delta.val with
    | .park _ _ => [4]
    | .wait => [6]
    | .lock => [7]
    | _ => []
  | .vwait _ ch =>
    let taken := before.filter (fun j => match j with | .vwait _ c => c == ch | _ => false)
    match ((y.elem 15).bufs.getD ch.val []).drop taken.length with
    | [] => (((x.chan b 15 ch.val).map (fun c => emptySource c.kind)).toList).filter (· != 0)
    | t :: _ =>
      if t.kind.isData then []
      else if ((y.rec_ 15).chans.filter (fun c => c.2.kind == 4 && !c.2.out)).any
          (fun c => x.drainFull b c.2.peer (y.sends c.2.peer before))
      then [5] else []
  | _ => []

/-- The slots of a bundle with their numbers. -/
def Bundle.slots (u : Bundle) : List (Nat × Slot) :=
  (u.a.map (fun x => (0, x))).toList ++ (u.b.map (fun x => (1, x))).toList ++ (u.c.map (fun x => (2, x))).toList

/-! ### What a marker has passed (R54, R85, R295) -/

/-- Tokens that the channels of a region hold: inputs, scale buffers, and queue memory of its elastic inputs, or of
those alone that the active context binds. Those of control lines count only if asked for. -/
def State.chanHeld (s : State) (r : Nat) (active lines : Bool) : List Token :=
  let x := s.reg r
  x.benches.flatMap (fun y =>
    y.2.elems.flatMap (fun e => (e.2.bufs.filter (fun b => lines
        || !(x.chan y.1 e.1 b.1).any (fun k => k.kind == 5))).flatMap Prod.snd) ++ y.2.node.scaleBufs.flatMap Prod.snd)
    ++ ((s.graph x.graph).chans.filter (fun c => c.2.dst.1 == r
        && (!active || (x.chan c.2.dst.2.1 c.2.dst.2.2.1 c.2.dst.2.2.2).any (fun k => k.kind == 2 && !k.out && k.peer == c.1)))).flatMap
          (fun c => c.2.qmem)

/-- Tokens in the buffers of a region, with those that wait for its sequencer. -/
def State.buffered (s : State) (r : Nat) (active : Bool) : List Token :=
  s.chanHeld r active true ++ (s.reg r).seq.ctlq.flatMap (fun l => l.2.map Prod.snd)

/-- Every token that a region holds: buffers, pipelines, control lines, the sequencer's queues, the owner's window
and queue memory of its inputs. -/
def State.tokens (s : State) (r : Nat) (active : Bool) : List Token :=
  let x := s.reg r
  s.buffered r active ++ x.fab.lines.map (fun l => l.2.2)
    ++ x.benches.flatMap (fun y => y.2.port.owner.window.map OwnTok.tok ++ y.2.port.owner.out.toList
      ++ y.2.elems.flatMap (fun e => e.2.pipe.map Pending.tok))

/-- The operations that are stateful nodes, an exit of the couch unit among them (R295). -/
def isStateful : Instr → Bool
  | .mergeT .. | .mergeC .. | .join .. | .red .. | .csacc .. | .vote .. | .rtag .. => true
  | _ => false

/-- A kernel's slots of an element hold a stateful node. -/
def ElemRec.stateful (x : ElemRec) (k : Nat) : Bool :=
  x.wheel.any (fun u => u.2.slots.any (fun t => t.2.ksel == k && isStateful t.2.op))

/-- The schedule of a live node has a VWAIT. -/
def BenchPlane.waits (p : BenchPlane) : Bool := p.ven && p.sched.any (fun i => match i with | .vwait .. => true | _ => false)

/-- The VWAITs of a bench have taken marker n. -/
def Bench.waited (y : Bench) (n : BitVec 24) : Bool := !y.plane.waits || precedes n y.node.mround

/-- The punctuation that ends what a switch ends: the pass marker of the current context, or the marker or switch
token of its round (R54, R85). -/
def Region.endsBy (x : Region) (w : Switching) (t : Token) : Bool :=
  if w.pass && decide (x.place.ctx < x.place.fold) then
    t.kind == .pass && t.round == w.round && t.tag == BitVec.ofNat 24 x.place.ctx
  else atOrBefore t.round w.round && (t.kind == .marker || t.kind == .switch)

/-- The marker or switch token of round n has reached every stateful node: none of its kind is on its way, and every
stateful node has passed it (R54, R295). -/
def State.drained (s : State) (r : Nat) (w : Switching) : Bool :=
  let x := s.reg r
  let inner := w.pass && decide (x.place.ctx < x.place.fold)
  !(s.tokens r inner).any (x.endsBy w)
    && x.benches.all (fun y => (inner || y.2.waited w.round
        && (y.2.port.owner.cfg.isNone || precedes w.round y.2.port.owner.round))
      && y.2.plane.elems.all (fun e =>
        (upTo 4).all (fun k =>
          let ker := e.2.klist.getD k 255
          let el := y.2.elem e.1
          ker == 255 || !e.2.stateful k || (x.kernels.find? ker).any Kernel.finished
            || inner && el.passed.contains k || (precedes w.round (el.ctxs.getD k .init).cround))))

/-- A shadow plane is being filled. -/
def Region.filling (x : Region) : Bool := x.benches.any (fun y => y.2.shadow.state == 1)

/-! ### What issues in a cycle (R79, R98, R100) -/

/-- A kernel's slots issue: it has not finished, and no switch token of it has passed (R54, R79). -/
def Region.slotLive (x : Region) (b e ksel : Nat) : Bool :=
  let k := x.kernelOf b e ksel
  let done := (x.kernels.find? k).any Kernel.finished
  let past := match x.switching with
    | some w =>
      let el := (x.bench b).elem e
      !w.done && ((el.ctxs.getD ksel .init).cround == w.round + 1 || (w.pass && el.passed.contains ksel))
    | none => false
  let held := x.preq.any (fun n => (((x.bench b).elem e).ctxs.getD ksel .init).cround == BitVec.ofNat 24 (n + 1))
  k != 255 && !done && !past && !held

/-- The bundles of the phase: bench, element and bundle. -/
def Region.bundles (x : Region) : List (Nat × Nat × Bundle) :=
  x.benches.flatMap (fun y => y.2.plane.elems.filterMap (fun e =>
    (e.2.wheel.find? x.fab.phase).map (fun u => (y.1, e.1, u))))

/-- The scale registers that an operation reads (R191, R192). -/
def ElemRec.scalesOf (x : ElemRec) : Instr → List Nat
  | .qnt _ n ws _ _ _ _ _ => if ws then [] else [n.val]
  | .dqnt _ n part _ a _ =>
    let base := match a with
      | .v _ => n.val
      | .ch k => (x.chans.find? k.val).elim 0 Chan.scale
    [(base + part.val / 2) % 16]
  | _ => []

/-- An operation looks its address up in the range table (R212). -/
def usesRanges : Instr → Bool
  | .mld .. | .mst .. | .mstm .. | .mgath .. | .mscat .. | .mprobe .. | .rmw .. => true
  | _ => false

/-- What a bundle uses when it issues fails its parity (R125, R364): its wheel entry, a scale register that it reads, or an
entry of the range table that it searches. -/
def Bench.bundleLost (y : Bench) (e : Nat) (u : Bundle) : Bool :=
  u.parity || u.slots.any (fun t =>
    ((y.rec_ e).scalesOf t.2.op).any (y.elem e).scaleBad.contains
      || usesRanges t.2.op && y.plane.partParity.any (fun k => decide (64 ≤ k ∧ k < 128)))

/-- What a schedule word uses when it fires fails its parity: the word, its sheet's map entry, or a multicast entry. -/
def BenchPlane.wordLost (p : BenchPlane) (k : Nat) (w : Instr) : Bool :=
  p.partParity.contains k || (wordSheetIdx w).any (fun m => p.partParity.contains (128 + m))
    || (wordGroups w).any (fun g => p.partParity.contains (256 + g))

/-- The slots that issue in this cycle. -/
def Region.issuing (x : Region) (r : Nat) : List (Focus × Instr) :=
  x.bundles.flatMap (fun (b, e, u) =>
    if (x.bench b).bundleLost e u then []
    else (u.slots.filter (fun t => x.slotLive b e t.2.ksel)).map (fun t =>
      (⟨r, b, e, t.1, t.2.ksel, x.fab.phase⟩, t.2.op)))

/-- The firing slot of a schedule word (R266). -/
def wordSlot : Instr → Nat
  | .vnop t | .vend t | .vlda t _ _ _ _ | .vldb t _ _ _ _ _ | .vmac t _ _ _ _ _ _ | .vzero t _ | .vscale t _ _ _
  | .vspmeta t _ _ _ _ _ | .vdrain t _ _ _ _ _ | .vchain t _ _ _ | .vwait t _ => t.val
  | _ => 64

/-- STOP as it stands for this cycle: a VGO takes effect when the slot counter is 0 (R330). -/
def Node.stopNow (n : Node) : Bool := n.stop && !(n.goArmed && n.slot == 0)

/-- The schedule words that fire in this cycle, in ascending table index (R266). -/
def Region.firing (x : Region) (r : Nat) : List (Focus × Instr) :=
  x.benches.flatMap (fun y =>
    if !y.2.plane.ven || y.2.node.stopNow then []
    else ((upTo y.2.plane.sched.length).filterMap (fun k =>
      match y.2.plane.sched[k]? with
      | some w => if wordSlot w = y.2.node.slot then some (⟨r, y.1, 15, k, 0, y.2.node.slot⟩, w) else none
      | none => none)))

/-- The words that fire in this cycle, each with those of its node before it. -/
def Region.firingBehind (x : Region) (r : Nat) : List (Focus × Instr × List Instr) :=
  let l := x.firing r
  (upTo l.length).filterMap (fun k => (l[k]?).map (fun q =>
    (q.1, q.2, ((l.take k).filter (fun p => p.1.bench == q.1.bench)).map Prod.snd)))

/-- The accesses of a region that are parked, with bench and element (R102 source 4, R104). -/
def State.parkedAt (s : State) (r : Nat) : List (Nat × Nat × Nat) :=
  let d := s.die (s.reg r).place.die
  let mine := (d.parked.map Prod.snd ++ d.parkWait).filter (fun p => p.region == r && !p.probe)
  mine.map (fun p => (4, p.bench, if p.stream = metaStream then 15 else 0))

/-- Every freeze source that holds, with bench and element (R102). -/
def State.freezes (s : State) (r : Nat) : List (Nat × Nat × Nat) :=
  let x := s.reg r
  let all (c : Bool) (k : Nat) : List (Nat × Nat × Nat) := if c then [(k, 0, 0)] else []
  let slots := (x.issuing r).flatMap (fun q => (s.slotFreeze q.1 q.2).map (fun k => (k, q.1.bench, q.1.elem)))
  let words := (x.firingBehind r).flatMap (fun q => (s.wordFreeze r q.1.bench q.2.2 q.2.1).map (fun k => (k, q.1.bench, 15)))
  let ports := x.benches.flatMap (fun y =>
    (if y.2.port.reqs.any (y.2.port.walking s.cycle) then [(3, y.1, 0)] else [])
    ++ (y.2.port.reqs.flatMap (fun q =>
      if y.2.port.next q.stream == some q then
        (if s.versionWait r y.1 q then [(6, y.1, 0)] else []) ++ (if s.lockWait r y.1 q then [(7, y.1, 0)] else [])
      else [])))
  let pass := match x.switching with
    | some w => w.pass && !w.done && w.start.isNone && x.filling && s.drained r w
    | none => false
  slots ++ words ++ ports ++ s.parkedAt r ++ all x.seq.hold.atS.isSome 8
    ++ all (x.fab.stop && decide (x.fab.stopSince < s.cycle)) 9 ++ all pass 10

/-- The fabric of a region advances at all: it runs, its graph is not held, and no switch stands in its cycles 0 to 2
or waits for its fill. -/
def State.fabricLive (s : State) (r : Nat) : Bool :=
  let x := s.reg r
  let sw := match x.switching with
    | some w => w.start.any (fun c => decide (s.cycle < c + 3)) || !w.pass && w.start.isNone && s.drained r w
    | none => false
  let off := x.preq.any (fun n => precedes (BitVec.ofNat 24 n) x.seq.csrs.round
    && s.drained r ⟨BitVec.ofNat 24 n, none, false, false⟩)
  x.life == .running && !(s.graph x.graph).held && !sw && !off

/-- The freeze record of a frozen cycle (R104): the lowest source of the first cycle stands. DESIGN CHOICE (log 97): where several
raise it, the first one in the list, and where the source is the whole region's, bench 0 and element 0. -/
def Freeze.hold (f : Freeze) (phase : Nat) (l : List (Nat × Nat × Nat)) : Freeze :=
  if f.frozen then { f with cycles := if f.cycles < 2 ^ 32 - 1 then f.cycles + 1 else f.cycles }
  else
    let low := l.foldl (fun m x => if x.1 < m.1 then x else m) (l.headD (0, 0, 0))
    ⟨true, low.1, low.2.1, low.2.2, phase, 1⟩

/-- The metadata reads of this cycle whose page is absent take entries of the parked-access table (R276, R215). -/
def State.parkMeta (s : State) (r : Nat) : State :=
  ((s.reg r).firing r).foldl (fun s q =>
    match q.2 with
    | .vspmeta _ _ g delta _ _ =>
      match s.metaRead r q.1.bench g.val delta.val with
      | .park va reason =>
        let d := s.die (s.reg r).place.die
        if d.parked.any (fun p => p.2.region == r && p.2.bench == q.1.bench && p.2.stream == metaStream)
            || d.parkWait.any (fun p => p.region == r && p.bench == q.1.bench && p.stream == metaStream) then s
        else
          s.parkAccess r q.1.bench metaStream 0 0 0 va reason (((s.reg r).bench q.1.bench).node.mround)
            (({ s with focus := q.1 } : State).vpos q.2)
      | _ => s
    | _ => s) s

/-- The round that a region executes: the latest that a kernel has begun. -/
def Region.executing (x : Region) : BitVec 24 :=
  (x.benches.flatMap (fun y => y.2.elems.flatMap (fun e => e.2.ctxs.map (fun c => c.2.cround)))).foldl
    (fun a b => if precedes a b then b else a) x.lastRnd

/-- FREEZE budget in cycles (R216): 850 for each microsecond of FREEZE, 42,500 when it is 0. -/
def State.freezeBudget (s : State) (r : Nat) : Nat :=
  let f := (s.rnode r).eff.freeze
  if f = 0 then 42500 else f * 850

/-- The count of the cycles before this one has reached the freeze budget (R216). -/
def State.budgetSpent (s : State) (r : Nat) : Bool :=
  let x := s.reg r
  x.fab.budgetRound == x.executing && decide (s.freezeBudget r ≤ x.fab.budget)

/-- A bundle or a schedule word that uses what fails its parity (R125, R365). -/
def State.parityRaises (s : State) (r : Nat) : State :=
  let x := s.reg r
  let bad := (x.bundles.filter (fun (b, e, u) => (x.bench b).bundleLost e u)).map (fun (b, e, _) =>
    (posWord x.place.die (x.dieBench b) e x.fab.phase 0 0, ((((x.bench b).elem e).ctxs).getD 0 .init).ctag))
  let badW := (x.firing r).filter (fun q => (x.bench q.1.bench).plane.wordLost q.1.slot q.2)
  let s := bad.foldl (fun s p => s.raiseRound r (roundCause 0xA1 p.2 0#64 0#64 p.1 0#64)) s
  badW.foldl (fun s q =>
    s.raiseRound r (roundCause 0xA1 0#24 0#64 0#64 (({ s with focus := q.1 } : State).vpos q.2) 0#64)) s

/-- The elements whose results may land in this cycle. -/
def Region.landing (x : Region) : List (Nat × Nat) :=
  x.benches.flatMap (fun y => (y.2.elems.filter (fun e =>
    !e.2.pipe.isEmpty || ((y.2.rec_ e.1).wheel.find? x.fab.phase).isSome)).map (fun e => (y.1, e.1)))

/-- The benches with an owner node. -/
def Region.owners (x : Region) : List Nat :=
  (x.benches.filter (fun y => y.2.port.owner.cfg.isSome)).map Prod.fst

/-- The fabric cycles and owners that the present cycle still holds ahead of its arrivals. -/
def Work.ofFabrics : Work → Bool
  | .fabric _ | .ev (.ownerUpdate _ _) => true
  | _ => false

/-- One cycle of a region's fabric: a freeze record, or the jobs of an unfrozen cycle in order: bundles and words,
their effects, landing results, sheets; owners act once every fabric has read (R268). -/
def State.fabricCycle (s : State) (r : Nat) : State :=
  if !s.fabricLive r then
    s.updReg r (fun x => { x with fab := { x.fab with freeze := { x.fab.freeze with frozen := false } } })
  else if s.budgetSpent r then s.now (.freezeBudgetExpiry r)
  else
    match s.freezes r with
    | [] =>
      let x := s.reg r
      let s := s.parityRaises r
      let words := (x.firing r).filter (fun q => !(x.bench q.1.bench).plane.wordLost q.1.slot q.2)
      let used := s.localUses (x.issuing r)
      let s := s.updReg r (fun x => { x.use s.cycle used with
        fab := { (x.use s.cycle used).fab with freeze := { x.fab.freeze with frozen := false } }
        benches := x.benches.mapVal (fun _ y =>
          { y with node := { y.node with stop := y.node.stopNow,
                                         goArmed := y.node.goArmed && y.node.slot != 0 } }) })
      { s with work :=
          (x.issuing r).map (fun q => .slot q.1 q.2) ++ words.map (fun q => .slot q.1 q.2) ++ [.apply r]
            ++ x.landing.map (fun p => .ev (.resultWriteback r p.1 p.2))
            ++ [.sheets r] ++ s.work.takeWhile Work.ofFabrics ++ x.owners.map (fun b => .ev (.ownerUpdate r b))
            ++ s.work.dropWhile Work.ofFabrics }
    | l =>
      let s := s.parkMeta r
      let counted := l.any (fun q => q.1 == 4 || q.1 == 6)
      let x := s.reg r
      let cur := x.executing
      let n := (if x.fab.budgetRound = cur then x.fab.budget else 0) + (if counted then 1 else 0)
      s.updReg r (fun x =>
        { x with fab := { x.fab with
            freeze := x.fab.freeze.hold x.fab.phase l, budget := n, budgetRound := cur
            budgetParked := if counted then l.any (fun q => q.1 == 4) else x.fab.budgetParked } })

/-! ### Effects (R99, R181) -/

/-- The effects of one bundle: the slots' effects in slot order. -/
def bundleEffs (l : List Issue) : List Eff := l.flatMap Issue.effs

/-- The elements with effects in a cycle. -/
def issuersOf (l : List Issue) : List (Nat × Nat) := (l.map (fun i => (i.bench, i.elem))).eraseDups

/-- The effects of one of them. -/
def issuesOf (l : List Issue) (p : Nat × Nat) : List Issue := l.filter (fun i => i.bench == p.1 && i.elem == p.2)

/-- Channels consumed by a bundle, each once (R99). -/
def consumedChans (l : List Eff) : List Nat :=
  (l.filterMap (fun e => match e with | .consume n => some n | _ => none)).eraseDups

/-- The causes that a bundle's slots raise when they issue. -/
def bundleRaises (l : List Issue) : List TrapRec :=
  (bundleEffs l).filterMap (fun f => match f with | .raise t => some t | _ => none)

/-- The results of a bundle: of two slots that write one channel the later one's token stands (R99). -/
def bundleResults (l : List Issue) : List (Nat × Nat × Dst × Token × BitVec 16) :=
  let all := l.flatMap (fun i => i.effs.filterMap (fun e =>
    match e with
    | .result lat d t m => some (i.slot, lat, d, t, m)
    | _ => none))
  all.filter (fun x => !(x.2.2.1.isChan && all.any (fun y => y.2.2.1 == x.2.2.1 && decide (x.1 < y.1))))

/-- The couch unit's check of a report (R382). -/
def reportCause (reps : List ExitRep) (p : ExitRep) : Option Nat :=
  if !(p.kind == .data || p.kind == .control) then none
  else
    let mine := reps.filter (fun q => q.exit == p.exit)
    if mine.any (fun q => (q.kind == .marker || q.kind == .switch) && q.round == p.round) then some 0x90
    else if mine.any (fun q => q.kind == .done) then some 0x90
    else
      match (mine.filter (fun q => (q.kind == .data || q.kind == .control) && q.round == p.round)).getLast? with
      | some q => if precedes p.tag q.tag || unordered p.tag q.tag then some 0x91 else none
      | none => none

/-- One effect applied. -/
def State.applyEff (s : State) (r b e : Nat) (pos : Nat → DWord) (slot : Nat) (f : Eff) : State :=
  match f with
  | .consume _ => s
  | .result _ _ _ _ => s
  | .ctxRT k round tag => s.updElem r b e (fun el => el.tookData k round tag)
  | .ctxTag k ntag =>
    let ker := (s.reg r).kernelOf b e k
    let n := (((s.reg r).bench b).elem e).ctxs.getD k .init
    (s.updElem r b e (fun el => { el with ctxs := el.ctxs.put k { n with ntag := ntag, ctag := ntag } })).updReg r
      (fun x => { x with kernels := x.kernels.modify ker (fun q =>
        { q with issued := q.issued.put n.cround.toNat (q.issued.getD n.cround.toNat 0 + 1) }) })
  | .marker k n => s.updElem r b e (fun el => el.beginRound k (n + 1))
  | .passEnd k => s.updElem r b e (fun el => { el with passed := k :: el.passed })
  | .flags round f => s.raiseFlags r b e round f
  | .gen g x => s.updElem r b e (fun el => { el with gens := el.gens.put g x })
  | .acc k x => s.updElem r b e (fun el => { el with accs := el.accs.put k x })
  | .localWrite bs => s.updElem r b e (fun el =>
      { el with
        local_ := bs.foldl (fun m p => m.set 0#8 p.1 p.2) el.local_
        localErr := el.localErr.filter (fun u => !(upTo 8).all (fun j => bs.any (fun p => p.1 == 8 * u + j))) })
  | .request q =>
    let s := match q.kind with
      | .mord _ (some (.chan n)) | .probe (.chan n) | .pass (.chan n) _ => s.spendCredit r b e n
      | _ => s
    s.enterReq r b q
  | .elog round tag st unit => s.elog r b e ⟨round, tag, st, unit⟩ (pos slot)
  | .report exit t =>
    let x := s.reg r
    let ks := (x.bundles.find? (fun u => u.1 == b && u.2.1 == e)).bind (fun u => (u.2.2.slots.find? (fun q => q.1 == slot)).map
      (fun q => q.2.ksel))
    let p : ExitRep := ⟨exit, x.kernelOf b e (ks.getD 0), t.kind, t.round, t.tag, t.err⟩
    match reportCause x.reps p with
    | some c => s.raiseRound r (roundCause c t.tag (pos slot) t.header 0#64 0#64)
    | none => s.report r p
  | .sink round tag => s.sink r round tag
  | .voter v copies noMaj =>
    let s := s.updElem r b e (fun el => { el with voter := v })
    let s := copies.foldl (fun s k => s.event r 0xA3 0#64 0#64 (pos slot) (BitVec.ofNat 64 k)) s
    if noMaj then s.event r 0xA4 0#64 0#64 (pos slot) 0#64 else s
  | .sparse ch p => s.updElem r b e (fun el => { el with sparse := el.sparse.set 0 ch p })
  | .owner i k => s.updPort r b (fun p => { p with owner := { p.owner with cfg := some i, slotK := k } })
  | .raise _ => s

/-- A result that lands in its own cycle, as a write to an output channel of some kind. -/
def Region.writes (x : Region) (b e kind : Nat) (lat : Nat) (d : Dst) : Option Chan :=
  match d with
  | .chan n => if lat = 1 then (x.chan b e n).filter (fun c => c.kind == kind) else none
  | _ => none

/-- Tokens that earlier bundles of an element push to an output in this cycle. -/
def Region.dueOn (x : Region) (b e n : Nat) : Nat :=
  (((x.bench b).elem e).pipe.filter (fun p => decide (p.due ≤ x.fab.ucycle) && p.dst == .chan n)).length

/-- Writers of a control line in this cycle: bundles that issue, and results that are due (R108). -/
def Region.lineWriters (x : Region) (line : Nat) (l : List Issue) : Nat :=
  ((issuersOf l).map (fun p => ((bundleResults (issuesOf l p)).filter (fun q =>
      (x.writes p.1 p.2 5 q.2.1 q.2.2.1).any (fun c => c.peer == line))).length)).foldl (· + ·) 0
    + (x.benches.map (fun y => (y.2.elems.map (fun e =>
        ((upTo 32).map (fun n => if (x.chan y.1 e.1 n).any (fun c => c.kind == 5 && c.out && c.peer == line)
          then x.dueOn y.1 e.1 n else 0)).foldl (· + ·) 0)).foldl (· + ·) 0)).foldl (· + ·) 0

/-- The cause of a result that lands in its own cycle, with the tokens of the cycle taken out of `x`: a full peer buffer
(R102), a full receiver of a control line or a second writer of it (R108). -/
def Region.pushCause (x : Region) (b e : Nat) (l : List Issue) (q : Nat × Nat × Dst × Token × BitVec 16) : Option Nat :=
  match q.2.2.1 with
  | .chan n =>
    match x.writes b e 1 q.2.1 q.2.2.1, x.writes b e 5 q.2.1 q.2.2.1 with
    | some c, _ =>
      match x.neighbour b e c.link with
      | some (b', e') =>
        if ((x.chan b' e' c.peer).map (fun k => decide (k.buf ≤ x.bufLen b' e' c.peer + x.dueOn b e n))).getD true then
          some 0x99
        else none
      | none => none
    | _, some c => if !x.lineRoom c.peer || decide (2 ≤ x.lineWriters c.peer l) then some 0x9A else none
    | _, _ => none
  | _ => none

/-- A bundle's effects applied, or its causes raised and nothing else (R99, R184): causes that its slots raise, that its
pushes of this cycle meet in `base`, where the tokens of the cycle are taken out, or that its reports and error records
raise. -/
def State.applyBundle (s : State) (r b e : Nat) (base : Region) (all l : List Issue) : State :=
  let effs := bundleEffs l
  let raises := bundleRaises l
  if !raises.isEmpty then raises.foldl (fun s t => s.raiseRound r t) s
  else
    let x := s.reg r
    let ops := (x.bundles.find? (fun u => u.1 == b && u.2.1 == e)).map (fun u => u.2.2.slots)
    let pos (slot : Nat) : DWord :=
      let op := ((ops.getD []).find? (fun q => q.1 == slot)).map (fun q => opByte q.2.op)
      posWord x.place.die (x.dieBench b) e x.fab.phase slot (op.getD 0)
    let res := bundleResults l
    match res.filterMap (fun q => (base.pushCause b e all q).map (fun c => (c, q))) with
    | c :: cs => (c :: cs).foldl (fun s c =>
        s.raiseRound r (roundCause c.1 c.2.2.2.2.1.tag (pos c.2.1) c.2.2.2.2.1.header 0#64 0#64)) s
    | [] =>
      let before := s
      let s := (consumedChans effs).foldl (fun s n => s.popTok r b e n) s
      let s := l.foldl (fun s i => i.effs.foldl (fun s f => s.applyEff r b e pos i.slot f) s) s
      let raised := (s.graph x.graph).raised
      if (before.graph x.graph).raised.length < raised.length then before.updGraph x.graph (fun g => { g with raised := raised })
      else
      res.foldl (fun s q =>
        let s := match q.2.2.1 with | .chan n => s.spendCredit r b e n | _ => s
        s.updElem r b e (fun el => { el with pipe := el.pipe ++
          [⟨x.fab.ucycle + q.2.1 - 1, 4 * x.fab.ucycle + q.1, q.2.2.1, q.2.2.2.1, q.2.2.2.2, pos q.1⟩] })) s

/-- The tokens that the bundles of the cycle consume, taken out of their buffers. -/
def State.popIssues (s : State) (r : Nat) (l : List Issue) : State :=
  (issuersOf l).foldl (fun s p =>
    let q := issuesOf l p
    if (bundleRaises q).isEmpty then (consumedChans (bundleEffs q)).foldl (fun s n => s.popTok r p.1 p.2 n) s else s) s

/-- The effects of the cycle, bundle by bundle. -/
def State.applyIssues (s : State) (r : Nat) : State :=
  let l := (s.reg r).fab.issues
  let base := (s.popIssues r l).reg r
  let s := (issuersOf l).foldl (fun s p => s.applyBundle r p.1 p.2 base l (issuesOf l p)) s
  s.updReg r (fun x => { x with fab := { x.fab with issues := [] } })

/-- The results of an element that are due, in the order of issue; the ones to the same register that an earlier bundle
issued and that would land later are discarded (R99, R181). -/
def State.writeback (s : State) (r b e : Nat) : Nat → State
  | 0 => s
  | fuel + 1 =>
    let x := s.reg r
    let el := (x.bench b).elem e
    match el.pipe.find? (fun p => decide (p.due ≤ x.fab.ucycle)) with
    | none => s
    | some p =>
      let s := s.updElem r b e (fun el =>
        { el with pipe := el.pipe.filter (fun q =>
            q != p && !(q.dst == p.dst && !p.dst.isChan && decide (q.order / 4 < p.order / 4))) })
      (s.landResult r b e p.dst p.tok p.lanes p.pos).writeback r b e fuel

/-- Results land (R181). -/
def execResultWriteback (r b e : Nat) (s : State) : Answer :=
  .next (s.writeback r b e (((s.reg r).bench b).elem e).pipe.length)

/-- The counters move on at the end of an unfrozen cycle (R98, R100). -/
def Region.advance (x : Region) : Region :=
  { x with
    fab := { x.fab with phase := (x.fab.phase + 1) % (x.place.ii + 1), ucycle := x.fab.ucycle + 1 }
    benches := x.benches.mapVal (fun _ y =>
      { y with node := { y.node with slot := (y.node.slot + 1) % (y.plane.sper + 1) } }) }

/-- The sheets of a region, one event at a time; then the counters move on. -/
def State.sheetsCycle (s : State) (r : Nat) : State :=
  let s := s.updReg r Region.sampleSheets
  match (s.reg r).sheetEvent r with
  | some i => { s with work := .ev i :: .sheets r :: s.work }
  | none => s.updReg r Region.advance

/-- The cause 0x47 of a version wait that outlasts the budget (R216, R234). -/
def State.waitRecord (s : State) (r : Nat) : TrapRec :=
  let x := s.reg r
  match x.benches.findSome? (fun y => (y.2.port.reqs.find? (fun q => s.versionWait r y.1 q)).map (fun q => q)) with
  | some q =>
    let n := match q.kind with | .load (some n) => n | _ => q.round
    roundCause 0x47 q.ttag (BitVec.ofNat 64 ((q.accs.map Access.addr).headD 0)) q.pos (BitVec.ofNat 64 n.toNat) 0#64
  | none =>
    match (x.firing r).find? (fun q => (s.wordFreeze r q.1.bench [] q.2).contains 6) with
    | some q =>
      let n := (x.bench q.1.bench).node
      let delta := match q.2 with | .vspmeta _ _ _ d _ _ => d.val | _ => 0
      roundCause 0x47 n.dtag (BitVec.ofNat 64 (n.mbase + 1024 * n.mrow)) (({ s with focus := q.1 } : State).vpos q.2)
        (BitVec.ofNat 64 (n.mround - BitVec.ofNat 24 delta).toNat) 0#64
    | none => roundCause 0x47 0#24 0#64 0#64 0#64 0#64

/-- The freeze budget runs out (R216): the round that the region executes is voided, and an expiry by source 6 alone
raises 0x47. -/
def execFreezeBudgetExpiry (r : Nat) (s : State) : Answer :=
  let x := s.reg r
  if x.fab.budget < s.freezeBudget r then .next s
  else if x.fab.budgetParked then .next (s.updGraph x.graph (fun g => { g with voidReq := some x.executing }))
  else .next ((s.raiseRound r (s.waitRecord r)).updGraph x.graph (fun g => { g with voidReq := some x.executing }))

end Sys2Proof.Machine
end

