-- ==== Sys2Proof/Machine/SeqCore.lean ====
section
/-! DEFINITION. The word in turn of a block in flight (R94, R96, R120, R136, R137, R307): what it reads, how
it fires, waits or raises a cause, and what static rules make of it. -/

namespace Sys2Proof.Machine

/-! ### What a word reads and writes -/

/-- The general registers an S word reads (R139 to R155, R310 to R342). -/
def seqReads : Instr → List GReg
  | .add _ a b | .sub _ a b | .and _ a b | .or _ a b | .xor _ a b | .andn _ a b | .shl _ a b | .shr _ a b | .sra _ a b
  | .min _ a b | .max _ a b | .minn _ a b | .maxn _ a b | .mul _ a b | .mulh _ a b | .mulhn _ a b | .div _ a b
  | .divn _ a b | .rem _ a b | .remn _ a b | .sel _ a b _ | .addx _ a b _ | .cmpeq _ a b | .cmpne _ a b | .cmplt _ a b
  | .cmpltn _ a b | .cmple _ a b | .cmplen _ a b | .ldver _ a b _ _ | .reclaim a b | .aadd _ a b _ _ _
  | .aadds _ a b _ _ _ | .amin _ a b _ _ _ | .amax _ a b _ _ _ | .aand _ a b _ _ _ | .aor _ a b _ _ _
  | .axor _ a b _ _ _ | .axch _ a b _ _ _ | .afadd _ a b _ _ | .scopy _ a b | .sload _ a b | .sstore _ a b
  | .sgath _ a b | .sscat _ a b | .sprobe _ a b | .speer _ a b | .scoll _ a b | .fload a b | .finj a b | .vmap a b
  | .rndwait _ a b | .bararr a b | .barwait _ a b | .notify a b | .caprd _ a b => [a, b]
  | .fshl d a b | .fshr d a b | .acas d a b _ _ _ | .flagwait d a b => [a, b, d]
  | .clz _ a | .ctz _ a | .popc _ a | .addi _ a _ | .andi _ a _ | .ori _ a _ | .xori _ a _ | .shli _ a _ | .shri _ a _
  | .srai _ a _ | .cmpeqImm _ a _ | .cmpneImm _ a _ | .cmpltImm _ a _ | .cmpltnImm _ a _ | .cmpleImm _ a _
  | .cmplenImm _ a _ | .exitr _ _ _ a | .ret _ _ _ a | .ld _ a _ _ | .ldSigned _ a _ _ | .squery _ a | .fshrink a
  | .fstat _ a | .fext _ a | .vgo a | .vstat _ a | .vquiesce a | .rndend a | .barstat _ a => [a]
  | .st r a _ _ | .stver r a _ _ => [r, a]
  | .fdrain _ b => [b]
  | .limh d _ => [d]
  | .csrw r _ | .csrs r _ | .csrc r _ => [r]
  | .svc n _ | .trap n _ | .brk n _ | .hint n _ => [n]
  | _ => []

/-- The predicates an S word reads. -/
def seqReadsP : Instr → List PReg
  | .sel _ _ _ p => [p]
  | .pand _ a b | .por _ a b | .pxor _ a b => [a, b]
  | .pnot _ a => [a]
  | .exit _ q _ _ | .exitr _ q _ _ | .call _ q _ _ | .ret _ q _ _ => [q]
  | _ => []

/-- The destination of a late instruction (R306). -/
def lateDest : Instr → Option GReg
  | .aadd d _ _ _ _ _ | .aadds d _ _ _ _ _ | .amin d _ _ _ _ _ | .amax d _ _ _ _ _ | .aand d _ _ _ _ _
  | .aor d _ _ _ _ _ | .axor d _ _ _ _ _ | .axch d _ _ _ _ _ | .acas d _ _ _ _ _ | .afadd d _ _ _ _ | .scopy d _ _
  | .sload d _ _ | .sstore d _ _ | .sgath d _ _ | .sscat d _ _ | .sprobe d _ _ | .speer d _ _ | .scoll d _ _
  | .squery d _ | .fstat d _ | .vstat d _ => some d
  | _ => none

/-- The general register a word writes when it fires. -/
def fireDest : Instr → Option GReg
  | .add d _ _ | .sub d _ _ | .and d _ _ | .or d _ _ | .xor d _ _ | .andn d _ _ | .shl d _ _ | .shr d _ _ | .sra d _ _
  | .fshl d _ _ | .fshr d _ _ | .min d _ _ | .max d _ _ | .minn d _ _ | .maxn d _ _ | .clz d _ | .ctz d _ | .popc d _
  | .mul d _ _ | .mulh d _ _ | .mulhn d _ _ | .div d _ _ | .divn d _ _ | .rem d _ _ | .remn d _ _ | .sel d _ _ _
  | .addx d _ _ _ | .addi d _ _ | .andi d _ _ | .ori d _ _ | .xori d _ _ | .shli d _ _ | .shri d _ _ | .srai d _ _
  | .limm d _ | .limh d _ | .ld d _ _ _ | .ldSigned d _ _ _ | .ldver d _ _ _ _ | .fdrain d _ | .fext d _
  | .rndwait d _ _ | .barwait d _ _ | .barstat d _ | .flagwait d _ _ | .csrr d _ | .caprd d _ _ | .bmaprd d => some d
  | _ => none

/-- The predicate a word writes when it fires. -/
def fireDestP : Instr → Option PReg
  | .cmpeq p _ _ | .cmpne p _ _ | .cmplt p _ _ | .cmpltn p _ _ | .cmple p _ _ | .cmplen p _ _ | .cmpeqImm p _ _
  | .cmpneImm p _ _ | .cmpltImm p _ _ | .cmpltnImm p _ _ | .cmpleImm p _ _ | .cmplenImm p _ _ | .pand p _ _
  | .por p _ _ | .pxor p _ _ | .pnot p _ | .pset p _ => some p
  | _ => none

/-! ### Static rules of a block (R119, R120, R307) -/

/-- The waiting instructions, RNDEND among them (R306). -/
def isWaiting : Instr → Bool
  | .ldver _ _ _ _ _ | .rndwait _ _ _ | .barwait _ _ _ | .flagwait _ _ _ | .fdrain _ _ | .rndend _ => true
  | _ => false

/-- Commit, late and trap instructions (R306). -/
def actsAtCommit (i : Instr) : Bool :=
  (lateDest i).isSome || (match i with
    | .stver _ _ _ _ | .reclaim _ _ | .fence _ _ | .rndend _ | .bararr _ _ | .notify _ _ | .fload _ _ | .fswitch
    | .fshrink _ | .fgrow | .fstop | .frun | .finj _ _ | .vgo _ | .vmap _ _ | .vquiesce _ | .csrw _ _ | .csrs _ _
    | .csrc _ _ | .svc _ _ | .trap _ _ | .brk _ _ | .tret | .yield => true
    | _ => false)

/-- A fence of ordering AR or SC, or an acquire-release atomic (R307). -/
def isFullFence : Instr → Bool
  | .fence o _ => o == .acqRel || o == .seqCst
  | .aadd _ _ _ _ _ r | .aadds _ _ _ _ _ r | .amin _ _ _ _ _ r | .amax _ _ _ _ _ r | .aand _ _ _ _ _ r
  | .aor _ _ _ _ _ r | .axor _ _ _ _ _ r | .axch _ _ _ _ _ r | .acas _ _ _ _ _ r | .afadd _ _ _ _ r => r
  | _ => false

/-- A store, STVER, atomic or engine command, for reason 13. -/
def isStoreLike (i : Instr) : Bool :=
  match i with
  | .st _ _ _ _ | .stver _ _ _ _ => true
  | .fstat _ _ | .vstat _ _ => false
  | i => (lateDest i).isSome

/-- A load, LDVER or waiting instruction, for reason 13. -/
def isLoadLike (i : Instr) : Bool :=
  match i with
  | .ld _ _ _ _ | .ldSigned _ _ _ _ => true
  | i => isWaiting i

/-- Some full fence of a list stands later than a store of it. -/
def fenceAfterStore : List Instr → Bool
  | [] => false
  | i :: is => (isStoreLike i && is.any isFullFence) || fenceAfterStore is

/-- Reason 12 or 13 of a word, from the instructions that stand earlier in its block (R307). -/
def placeReason (before : List Instr) (i : Instr) : Option Nat :=
  if (seqReads i).any (fun r => r != 0 && before.any (fun j => lateDest j == some r)) then some 12
  else if (isWaiting i && before.any actsAtCommit) || (isLoadLike i && fenceAfterStore before)
      || (match i with
          | .rndend _ => before.any (fun j => match j with | .rndend _ => true | _ => false)
          | _ => false) then some 13
  else none

/-- An exit word and its exit index (R119). -/
def exitIndex (w : Word) : Option Nat :=
  let major := fld w.toNat 26 6
  if 0x10 ≤ major ∧ major ≤ 0x13 then some (fld w.toNat 20 2) else none

/-- A word that counts against the header's store count (R119). -/
def countsAsStore (w : Word) : Bool :=
  let major := fld w.toNat 26 6
  major == 0x19 || major == 0x1B || major == 0x1C || major == 0x1D || major == 0x20 || major == 0x24 || major == 0x28
    || (major == 0x2C && (fld w.toNat 0 8 == 3 || fld w.toNat 0 8 == 6))

/-- Reason 7 or 8 of a header (R119, R120): the body's exits and stores against the header's counts. -/
def headerReason (nex nst : Nat) (body : List Word) : Option Nat :=
  let xs := body.filterMap exitIndex
  if !(xs.length == nex && (upTo nex).all xs.contains) then some 7
  else if (body.filter countsAsStore).length ≠ nst then some 8
  else none

/-! ### Control registers (R118) -/

/-- Width of a control register and what J and T may do: 0 nothing, 1 read, 2 read and clear, 3 read and write. -/
def csrInfo (k : Nat) : Option (Nat × Nat × Nat) :=
  if k = 0x001 then some (24, 1, 1)
  else if k = 0x002 then some (4, 1, 1)
  else if k = 0x003 then some (64, 1, 1)
  else if k = 0x004 then some (1, 1, 1)
  else if k = 0x005 then some (8, 2, 2)
  else if k = 0x006 then some (64, 3, 3)
  else if k = 0x100 then some (57, 1, 3)
  else if k = 0x101 then some (8, 0, 3)
  else if k = 0x102 then some (57, 0, 3)
  else if k = 0x103 then some (24, 0, 3)
  else if 0x104 ≤ k ∧ k ≤ 0x107 then some (64, 0, 3)
  else none

/-- A CSR access: the register, and what it needs (1 read, 2 clear, 3 write). -/
def csrNeed : Instr → Option (Nat × Nat)
  | .csrr _ k => some (k.toNat, 1)
  | .csrw _ k | .csrs _ k => some (k.toNat, 3)
  | .csrc _ k => some (k.toNat, 2)
  | _ => none

/-- Reasons 9 to 11 of a word (R120), PRIV being that of its block. -/
def csrReason (priv : Bool) (i : Instr) : Option Nat :=
  match i with
  | .tret => if priv then none else some 11
  | i =>
    match csrNeed i with
    | none => none
    | some (k, need) =>
      match csrInfo k with
      | none => some 9
      | some (_, j, t) => if t < need then some 10 else if (if priv then t else j) < need then some 11 else none

/-! ### The word in turn -/

/-- A block of which nothing has fired. -/
def Block.entry (c : Csrs) : Block :=
  { fired := [], gw := [], gpos := [], pw := [], csrs := c, csrPoison := false, exits := [], failed := 0, acts := [],
    exc := none, capClear := 0#8, addr := 0, words := [], idx := 0, waits := [], slots := [], seen := [], mark := none,
    stopAtEntry := false }

/-- The block in flight of the region in focus. -/
structure SeqView where
  r : Nat
  reg : Region
  blk : Block

/-- The view of the sequencer in focus, when it has a block in flight. -/
def State.seqView (s : State) : Option SeqView :=
  match s.regions.find? s.focus.region with
  | some x => x.seq.block.map (fun b => ⟨s.focus.region, x, b⟩)
  | none => none

/-- The block in flight of the region in focus replaced. -/
def State.setBlock (s : State) (b : Block) : State := s.updSeq s.focus.region (fun q => { q with block := some b })

/-- A committed general register; g0 reads zero (R136). -/
def Seq.gval (q : Seq) (n : Nat) : DWord := if n = 0 then 0#64 else q.g.getD n 0#64

/-- A committed predicate; p0 reads true (R136). -/
def Seq.pval (q : Seq) (n : Nat) : Bool := n == 0 || q.p.getD n false

/-- A general register as the word in turn reads it (R137). -/
def SeqView.gs (v : SeqView) (n : GReg) : SVal :=
  if n = 0 then ⟨0#64, false⟩ else v.blk.gw.getD n.val ⟨v.reg.seq.gval n.val, false⟩

/-- Its value. -/
def SeqView.g (v : SeqView) (n : GReg) : DWord := (v.gs n).val

/-- A predicate as the word in turn reads it, with its poison. -/
def SeqView.ps (v : SeqView) (n : PReg) : Bool × Bool :=
  if n = 0 then (true, false) else v.blk.pw.getD n.val (v.reg.seq.pval n.val, false)

/-- Its value. -/
def SeqView.p (v : SeqView) (n : PReg) : Bool := (v.ps n).1

/-- A word reads a poisoned operand (R96). -/
def SeqView.poisoned (v : SeqView) (i : Instr) : Bool :=
  (seqReads i).any (fun r => (v.gs r).poison) || (seqReadsP i).any (fun p => (v.ps p).2)
    || (v.blk.csrPoison && (match i with | .csrr _ _ | .bmaprd _ => true | _ => false))

/-- A result in a general register; a write of g0 is discarded (R121). -/
def Block.setG (b : Block) (n : GReg) (x : SVal) : Block :=
  if n = 0 then b else { b with gw := b.gw.put n.val x, gpos := b.gpos.put n.val b.idx }

/-- A clean result. -/
def Block.put (b : Block) (n : GReg) (x : DWord) : Block := b.setG n ⟨x, false⟩

/-- A result in a predicate; a write of p0 is discarded (R121). -/
def Block.setP (b : Block) (n : PReg) (x : Bool × Bool) : Block :=
  if n = 0 then b else { b with pw := b.pw.put n.val x }

/-- The word has fired. -/
def Block.advance (b : Block) : Block := { b with idx := b.idx + 1, fired := b.idx :: b.fired }

/-- A waiting word has its operands from now on, unless it had them before (R308). -/
def Block.wait (b : Block) (time cycle : Nat) : Block :=
  if (b.waits.find? b.idx).isSome then b else { b with waits := b.waits.put b.idx (time, cycle) }

/-- An act put behind those of earlier words. -/
def insertAct (p : Nat) (a : Act) : List (Nat × Act) → List (Nat × Act)
  | [] => [(p, a)]
  | x :: xs => if p < x.1 then (p, a) :: x :: xs else x :: insertAct p a xs

/-- An act of the commit, at the word's position: acts stand in block order. -/
def Block.act (b : Block) (a : Act) : Block := { b with acts := insertAct b.idx a b.acts }

/-- A cause of kind block at the word's position (R96): of several, the lowest in block order stands. -/
def Block.raise (b : Block) (cause : Nat) (i0 i1 i2 i3 : DWord) : Block :=
  let t : TrapRec := ⟨BitVec.ofNat 8 cause, .block, BitVec.ofNat 57 b.addr, 0#24, i0, i1, i2, i3, 0⟩
  { b with exc := match b.exc with
                  | none => some (b.idx, t)
                  | some e => if b.idx < e.1 then some (b.idx, t) else some e }

/-- The word's index, as TRAPINFO1 holds it (R152, R344), with a field above. -/
def Block.info1 (b : Block) (high : Nat) : DWord := BitVec.ofNat 64 (b.idx % 256 + high * 2 ^ 8)

/-- The cause of a word that is no instruction or may not run (R120): illegal 0x01, privileged 0x02. -/
def Block.illegal (b : Block) (reason : Nat) : Block :=
  b.raise (if reason = 11 then 0x02 else 0x01) ((b.words.getD b.idx 0#32).setWidth 64) (b.info1 reason) 0#64 0#64

/-- The poisoned result of a word (R96). -/
def Block.poison (b : Block) (i : Instr) : Block :=
  let b := match fireDest i with | some d => b.setG d ⟨0#64, true⟩ | none => b
  let b := match fireDestP i with | some p => b.setP p (false, true) | none => b
  match i with
  | .csrw _ _ | .csrs _ _ | .csrc _ _ => { b with csrPoison := true }
  | _ => b

/-- A cause raised by the word in turn: its result is poisoned and it has fired. -/
def Block.fault (b : Block) (i : Instr) (cause : Nat) (i0 i1 i2 i3 : DWord) : Block :=
  (b.raise cause i0 i1 i2 i3).poison i

/-- The instructions of the words before the one in turn. -/
def Block.before (b : Block) : List Instr :=
  ((b.words.take b.idx).drop 1).filterMap (fun w => (decodeS w).toOption)

/-- The reason for which the word in turn is none or may not run: the lowest of those it meets (R120). -/
def SeqView.reason (v : SeqView) (i : Instr) : Option Nat :=
  match csrReason v.blk.csrs.priv i with
  | some k => some k
  | none => placeReason v.blk.before i

/-- What firing a word does: the state, and the block after it; nothing while the word has to wait. -/
abbrev Fired := Option (State × Block)

/-- An S word in turn: it is refused by reason, fires poisoned, fires, or waits (R94, R96, R120). -/
def State.seqOp (s : State) (i : Instr) (f : SeqView → Fired) : Answer :=
  match s.seqView with
  | none => .next s
  | some v =>
    match v.reason i with
    | some k => .next (s.setBlock ((v.blk.illegal k).poison i).advance)
    | none =>
      if v.poisoned i then .next (s.setBlock (v.blk.poison i).advance)
      else
        match f v with
        | some (s', b) => .next (s'.setBlock b.advance)
        | none =>
          .next (s.setBlock (v.blk.wait s.time s.cycle))

/-- A word that reads registers and writes one. -/
def State.seqFn (s : State) (i : Instr) (d : GReg) (f : SeqView → DWord) : Answer :=
  s.seqOp i (fun v => some (s, v.blk.put d (f v)))

/-- A word that writes one predicate. -/
def State.seqPred (s : State) (i : Instr) (p : PReg) (f : SeqView → Bool) : Answer :=
  s.seqOp i (fun v => some (s, v.blk.setP p (f v, false)))

/-- A word that acts at commit. -/
def State.seqAct (s : State) (i : Instr) (f : SeqView → Act) : Answer :=
  s.seqOp i (fun v => some (s, v.blk.act (f v)))

/-! ### The header (R119, R138) -/

/-- BLK: reasons 7 and 8 at index 0, reason 5 inside a body. -/
def execBlk (l : Fin 128) (x : Fin 4) (n : Fin 32) (f : Bool) (s : State) : Answer :=
  s.seqOp (.blk l x n f) (fun v =>
    if v.blk.idx ≠ 0 then some (s, v.blk.illegal 5)
    else
      match headerReason (x.val + 1) (if f then 32 else n.val) (v.blk.words.drop 1) with
      | some k => some (s, v.blk.illegal k)
      | none => some (s, v.blk))

end Sys2Proof.Machine
end

