-- ==== Sys2Proof/Machine/SeqAlu.lean ====
section
/-! DEFINITION. The integer, predicate and exit words of the sequencer (R139 to R150). -/

namespace Sys2Proof.Machine

/-! ### Integer forms of major 0x01 (R139) -/

/-- The low 64 bits of a number. -/
def dw (x : Nat) : DWord := BitVec.ofNat 64 x

/-- A left shift of 128 bits, upper half: d shifts and a enters (R139). -/
def funnelLeft (d a : DWord) (n : Nat) : DWord := dw ((d.toNat * 2 ^ 64 + a.toNat) * 2 ^ n / 2 ^ 64)

/-- A right shift of 128 bits, lower half. -/
def funnelRight (d a : DWord) (n : Nat) : DWord := dw ((a.toNat * 2 ^ 64 + d.toNat) / 2 ^ n)

/-- The shift amount b[5:0]. -/
def amount (b : DWord) : Nat := b.toNat % 64

/-- The result of DIV and REM, signed with the quotient toward zero, as a number modulo 2^64 (R140). -/
def divSigned (a b : DWord) : DWord := BitVec.ofInt 64 (a.toInt.tdiv b.toInt)
def remSigned (a b : DWord) : DWord := BitVec.ofInt 64 (a.toInt - a.toInt.tdiv b.toInt * b.toInt)

def execAdd (d a b : GReg) (s : State) : Answer :=
  s.seqFn (.add d a b) d (fun v => let a := v.g a; let b := v.g b; a + b)

def execSub (d a b : GReg) (s : State) : Answer :=
  s.seqFn (.sub d a b) d (fun v => let a := v.g a; let b := v.g b; a - b)

def execAnd (d a b : GReg) (s : State) : Answer :=
  s.seqFn (.and d a b) d (fun v => let a := v.g a; let b := v.g b; a &&& b)

def execOr (d a b : GReg) (s : State) : Answer :=
  s.seqFn (.or d a b) d (fun v => let a := v.g a; let b := v.g b; a ||| b)

def execXor (d a b : GReg) (s : State) : Answer :=
  s.seqFn (.xor d a b) d (fun v => let a := v.g a; let b := v.g b; a ^^^ b)

def execAndn (d a b : GReg) (s : State) : Answer :=
  s.seqFn (.andn d a b) d (fun v => let a := v.g a; let b := v.g b; a &&& ~~~b)

def execShl (d a b : GReg) (s : State) : Answer :=
  s.seqFn (.shl d a b) d (fun v => let a := v.g a; let b := v.g b; a <<< amount b)

def execShr (d a b : GReg) (s : State) : Answer :=
  s.seqFn (.shr d a b) d (fun v => let a := v.g a; let b := v.g b; a >>> amount b)

def execSra (d a b : GReg) (s : State) : Answer :=
  s.seqFn (.sra d a b) d (fun v => let a := v.g a; let b := v.g b; a.sshiftRight (amount b))

def execMin (d a b : GReg) (s : State) : Answer :=
  s.seqFn (.min d a b) d (fun v => let a := v.g a; let b := v.g b; if a.slt b then a else b)

def execMax (d a b : GReg) (s : State) : Answer :=
  s.seqFn (.max d a b) d (fun v => let a := v.g a; let b := v.g b; if a.slt b then b else a)

def execMinn (d a b : GReg) (s : State) : Answer :=
  s.seqFn (.minn d a b) d (fun v => let a := v.g a; let b := v.g b; if a.ult b then a else b)

def execMaxn (d a b : GReg) (s : State) : Answer :=
  s.seqFn (.maxn d a b) d (fun v => let a := v.g a; let b := v.g b; if a.ult b then b else a)

def execMul (d a b : GReg) (s : State) : Answer :=
  s.seqFn (.mul d a b) d (fun v => let a := v.g a; let b := v.g b; a * b)

def execMulh (d a b : GReg) (s : State) : Answer :=
  s.seqFn (.mulh d a b) d (fun v => let a := v.g a; let b := v.g b; BitVec.ofInt 64 (a.toInt * b.toInt / 2 ^ 64))

def execMulhn (d a b : GReg) (s : State) : Answer :=
  s.seqFn (.mulhn d a b) d (fun v => let a := v.g a; let b := v.g b; dw (a.toNat * b.toNat / 2 ^ 64))

def execFshl (d a b : GReg) (s : State) : Answer :=
  s.seqFn (.fshl d a b) d (fun v => funnelLeft (v.g d) (v.g a) (amount (v.g b)))

def execFshr (d a b : GReg) (s : State) : Answer :=
  s.seqFn (.fshr d a b) d (fun v => funnelRight (v.g d) (v.g a) (amount (v.g b)))

def execClz (d a : GReg) (s : State) : Answer :=
  s.seqFn (.clz d a) d (fun v => dw (clzNat 64 (v.g a).toNat))

def execCtz (d a : GReg) (s : State) : Answer :=
  s.seqFn (.ctz d a) d (fun v => dw (ctzNat 64 (v.g a).toNat))

def execPopc (d a : GReg) (s : State) : Answer :=
  s.seqFn (.popc d a) d (fun v => dw (popNat (v.g a).toNat 64))

def execSel (d a b : GReg) (p : PReg) (s : State) : Answer :=
  s.seqFn (.sel d a b p) d (fun v => if v.p p then v.g a else v.g b)

def execAddx (d a b : GReg) (k : Fin 4) (s : State) : Answer :=
  s.seqFn (.addx d a b k) d (fun v => v.g a + v.g b <<< k.val)

/-! ### Division (R140) -/

/-- A division: divide-by-zero, 0x20, or the result. -/
def State.seqDiv (s : State) (i : Instr) (d a b : GReg) (f : DWord → DWord → DWord) : Answer :=
  s.seqOp i (fun v =>
    if v.g b = 0#64 then some (s, v.blk.fault i 0x20 (v.g a) (v.blk.info1 0) 0#64 0#64)
    else some (s, v.blk.put d (f (v.g a) (v.g b))))

def execDiv (d a b : GReg) (s : State) : Answer := s.seqDiv (.div d a b) d a b divSigned

def execDivn (d a b : GReg) (s : State) : Answer := s.seqDiv (.divn d a b) d a b (fun a b => a / b)

def execRem (d a b : GReg) (s : State) : Answer := s.seqDiv (.rem d a b) d a b remSigned

def execRemn (d a b : GReg) (s : State) : Answer := s.seqDiv (.remn d a b) d a b (fun a b => a % b)

/-! ### Immediates (R142 to R144) -/

def execAddi (d a : GReg) (i : BitVec 14) (s : State) : Answer :=
  s.seqFn (.addi d a i) d (fun v => v.g a + i.signExtend 64)

def execAndi (d a : GReg) (i : BitVec 14) (s : State) : Answer :=
  s.seqFn (.andi d a i) d (fun v => v.g a &&& i.signExtend 64)

def execOri (d a : GReg) (i : BitVec 14) (s : State) : Answer :=
  s.seqFn (.ori d a i) d (fun v => v.g a ||| i.signExtend 64)

def execXori (d a : GReg) (i : BitVec 14) (s : State) : Answer :=
  s.seqFn (.xori d a i) d (fun v => v.g a ^^^ i.signExtend 64)

def execShli (d a : GReg) (n : Fin 64) (s : State) : Answer :=
  s.seqFn (.shli d a n) d (fun v => v.g a <<< n.val)

def execShri (d a : GReg) (n : Fin 64) (s : State) : Answer :=
  s.seqFn (.shri d a n) d (fun v => v.g a >>> n.val)

def execSrai (d a : GReg) (n : Fin 64) (s : State) : Answer :=
  s.seqFn (.srai d a n) d (fun v => (v.g a).sshiftRight n.val)

def execLimm (d : GReg) (i : BitVec 20) (s : State) : Answer :=
  s.seqFn (.limm d i) d (fun _ => i.signExtend 64)

def execLimh (d : GReg) (i : BitVec 20) (s : State) : Answer :=
  s.seqFn (.limh d i) d (fun v => v.g d <<< 20 ||| i.setWidth 64)

/-! ### Compares and predicates (R145, R146) -/

def execCmpeq (p : PReg) (a b : GReg) (s : State) : Answer :=
  s.seqPred (.cmpeq p a b) p (fun v => v.g a == v.g b)

def execCmpne (p : PReg) (a b : GReg) (s : State) : Answer :=
  s.seqPred (.cmpne p a b) p (fun v => v.g a != v.g b)

def execCmplt (p : PReg) (a b : GReg) (s : State) : Answer :=
  s.seqPred (.cmplt p a b) p (fun v => (v.g a).slt (v.g b))

def execCmpltn (p : PReg) (a b : GReg) (s : State) : Answer :=
  s.seqPred (.cmpltn p a b) p (fun v => (v.g a).ult (v.g b))

def execCmple (p : PReg) (a b : GReg) (s : State) : Answer :=
  s.seqPred (.cmple p a b) p (fun v => (v.g a).sle (v.g b))

def execCmplen (p : PReg) (a b : GReg) (s : State) : Answer :=
  s.seqPred (.cmplen p a b) p (fun v => (v.g a).ule (v.g b))

def execCmpeqImm (p : PReg) (a : GReg) (i : BitVec 14) (s : State) : Answer :=
  s.seqPred (.cmpeqImm p a i) p (fun v => v.g a == i.signExtend 64)

def execCmpneImm (p : PReg) (a : GReg) (i : BitVec 14) (s : State) : Answer :=
  s.seqPred (.cmpneImm p a i) p (fun v => v.g a != i.signExtend 64)

def execCmpltImm (p : PReg) (a : GReg) (i : BitVec 14) (s : State) : Answer :=
  s.seqPred (.cmpltImm p a i) p (fun v => (v.g a).slt (i.signExtend 64))

def execCmpltnImm (p : PReg) (a : GReg) (i : BitVec 14) (s : State) : Answer :=
  s.seqPred (.cmpltnImm p a i) p (fun v => (v.g a).ult (i.setWidth 64))

def execCmpleImm (p : PReg) (a : GReg) (i : BitVec 14) (s : State) : Answer :=
  s.seqPred (.cmpleImm p a i) p (fun v => (v.g a).sle (i.signExtend 64))

def execCmplenImm (p : PReg) (a : GReg) (i : BitVec 14) (s : State) : Answer :=
  s.seqPred (.cmplenImm p a i) p (fun v => (v.g a).ule (i.setWidth 64))

def execPand (p a b : PReg) (s : State) : Answer :=
  s.seqPred (.pand p a b) p (fun v => v.p a && v.p b)

def execPor (p a b : PReg) (s : State) : Answer :=
  s.seqPred (.por p a b) p (fun v => v.p a || v.p b)

def execPxor (p a b : PReg) (s : State) : Answer :=
  s.seqPred (.pxor p a b) p (fun v => v.p a != v.p b)

def execPnot (p a : PReg) (s : State) : Answer := s.seqPred (.pnot p a) p (fun v => !v.p a)

def execPset (p : PReg) (x : Bool) (s : State) : Answer := s.seqPred (.pset p x) p (fun _ => x)

/-! ### Exits (R147 to R150) -/

/-- An exit: its condition, its index and its target. -/
def State.seqExit (s : State) (i : Instr) (sense : Bool) (q : PReg) (x : Fin 4) (call : Bool) (target : SeqView → DWord) :
    Answer :=
  s.seqOp i (fun v =>
    if v.p q != sense then some (s, { v.blk with exits := v.blk.exits ++ [⟨x.val, target v, call, v.blk.idx⟩] })
    else some (s, { v.blk with failed := v.blk.failed ||| 2 ^ x.val }))

/-- The target of an SX word, counted from its block's header (R112, R147). -/
def SeqView.near (v : SeqView) (o : BitVec 20) : DWord := dw v.blk.addr + o.signExtend 64 <<< 2

def execExit (sense : Bool) (q : PReg) (x : Fin 4) (o : BitVec 20) (s : State) : Answer :=
  s.seqExit (.exit sense q x o) sense q x false (fun v => v.near o)

def execExitr (sense : Bool) (q : PReg) (x : Fin 4) (a : GReg) (s : State) : Answer :=
  s.seqExit (.exitr sense q x a) sense q x false (fun v => v.g a)

def execCall (sense : Bool) (q : PReg) (x : Fin 4) (o : BitVec 20) (s : State) : Answer :=
  s.seqExit (.call sense q x o) sense q x true (fun v => v.near o)

def execRet (sense : Bool) (q : PReg) (x : Fin 4) (a : GReg) (s : State) : Answer :=
  s.seqExit (.ret sense q x a) sense q x false (fun v => v.g a)

end Sys2Proof.Machine
end

