-- ==== Sys2Proof/Machine/SeqMem.lean ====
section
/-! DEFINITION. Loads, stores, versions, atomics and fences of the sequencer (R151 to R156, R310 to R314). -/

namespace Sys2Proof.Machine

/-! ### Checks (R152, R310, R313) -/

/-- Bytes of an access size. -/
def Size.bytes : Size → Nat
  | .b => 1
  | .h => 2
  | .w => 4
  | .d => 8

/-- The effective address of an SM word (R151). -/
def SeqView.ea (v : SeqView) (a : GReg) (z : Size) (o : BitVec 11) : Nat :=
  (v.g a + o.signExtend 64 * dw (Size.bytes z)).toNat

/-- The cause of a failed check, 1 to 5, with its records (R152). -/
def Block.accessFault (b : Block) (i : Instr) (store : Bool) (check va : Nat) : Block :=
  let info1 := b.info1 (check + (if store && check == 4 then 2 ^ 8 else 0))
  b.fault i (if check = 4 then 0x43 else if store then 0x42 else 0x41) (dw va) info1 0#64 0#64

/-- Check 5 on top of checks 1 to 4: `aligned` fails for some addresses. -/
def State.seqAccess (s : State) (job kind : Nat) (verp : Option Bool) (ea n : Nat) (aligned : Bool) : SeqRes :=
  match s.seqCheck job kind verp ea n with
  | .ok parts => if aligned then .ok parts else .fail 5 ea
  | r => r

/-- n bytes lie in one 32-byte line. -/
def oneLine (ea n : Nat) : Bool := ea / 32 == (ea + n - 1) / 32

/-! ### Bytes a load returns (R94, R154, R221) -/

/-- How finding the bytes of a load ends: the physical address of each byte (none: a line with no version), and whether
a directory read for it has an uncorrectable error (R218). -/
inductive AddrRes where
  | ok (addrs : List (Option Nat)) (err : Bool)
  | wait
  | fail (cause va slot : Nat)

/-- Where the bytes of a piece stand. -/
def State.partAddrs (s : State) (reader : Nat) (named : Option (BitVec 24)) (p : Part) : AddrRes :=
  if peVerp p.leaf.entry then
    (linesOf (p.len / 32 + 2) p.va p.len).foldl (fun acc l =>
      match acc with
      | .ok as err =>
        let pa := p.leaf.pa + (l.1 - p.va)
        let v : VLine := ({ p.leaf with pa := pa } : Leaf).vline
        let o := (pa - p.leaf.frame) % 32
        let derr := err || s.badBytes v.dir 32
        match versRead s.mem v.dir reader named with
        | .slot k => .ok (as ++ (upTo l.2).map (fun i => some (v.data k + o + i))) derr
        | .zero => .ok (as ++ List.replicate l.2 none) derr
        | .wait => .wait
        | .fail c k => .fail c l.1 k
      | r => r) (.ok [] false)
  else .ok ((upTo p.len).map (fun i => some (p.leaf.pa + i))) false

/-- Where the bytes of an access stand. -/
def State.addrs (s : State) (reader : Nat) (named : Option (BitVec 24)) : List Part → AddrRes
  | [] => .ok [] false
  | p :: ps =>
    match s.partAddrs reader named p with
    | .ok as e =>
      match s.addrs reader named ps with
      | .ok bs e' => .ok (as ++ bs) (e || e')
      | r => r
    | r => r

/-- The latest byte that an earlier store of the block puts at a physical address (R94). -/
def storedByte (acts : List (Nat × Act)) (pa : Nat) : Option Byte :=
  acts.foldl (fun found a =>
    let bs := match a.2 with
      | .store bs | .stver bs _ _ => bs
      | _ => []
    match (bs.filter (fun b => b.1 == pa)).getLast? with
    | some b => some b.2
    | none => found) none

/-- The byte a load reads: an earlier store's, else memory as committed before the block (R154). -/
def SeqView.loadByte (v : SeqView) (m : Memory) : Option Nat → Byte
  | some pa => (storedByte v.blk.acts pa).getD (m.read pa)
  | none => 0#8

/-- A byte that a load reads from memory lies in an uncorrectable unit (R156): one that the block stored does not. -/
def SeqView.lostByte (v : SeqView) (s : State) (a : Option Nat) : Bool :=
  a.any (fun pa => (storedByte v.blk.acts pa).isNone && s.badBytes pa 1)

/-- The directories of the lines of an access. -/
def partDirs (p : Part) : List Nat :=
  if peVerp p.leaf.entry then
    (linesOf (p.len / 32 + 2) p.va p.len).map (fun l => ({ p.leaf with pa := p.leaf.pa + (l.1 - p.va) } : Leaf).vline.dir)
  else []

/-- The bytes of memory that a read of some bytes rests on: those that the block has not stored, and the directories. -/
def SeqView.readBytes (v : SeqView) (m : Memory) (as : List (Option Nat)) (parts : List Part) : List (Nat × Byte) :=
  (as.filterMap (fun a => a.filter (fun pa => (storedByte v.blk.acts pa).isNone))
    ++ parts.flatMap (fun p => (partDirs p).flatMap (fun d => (upTo 32).map (d + ·)))).map (fun pa => (pa, m.read pa))

/-- A read behind an act of its block: the block commits only while memory still holds these bytes, so that the read takes
its place behind that act although it fires early (R287, R289, R293, R303). -/
def SeqView.sees (v : SeqView) (m : Memory) (as : List (Option Nat)) (parts : List Part) (b : Block) : Block :=
  if v.blk.before.any actsAtCommit then
    { b with seen := b.seen ++ v.readBytes m as parts, mark := some (b.mark.getD v.blk.toProgress) }
  else b

/-- The record of an uncorrectable unit met by a sequencer word (R156, R218, R367). -/
def SeqView.uncorrectable (v : SeqView) (i : Instr) (pa : Nat) : Block :=
  v.blk.fault i 0xA0 (dw (pa / 64 * 64)) (unitOf pa) (posWord v.reg.place.die (v.reg.dieBench 0) 0 0 0 0) 0#64

/-- The first byte address among some that lies in an uncorrectable unit, or the first. -/
def State.badUnit (s : State) (as : List (Option Nat)) : Nat :=
  let l := as.filterMap id
  (l.find? (fun a => s.badBytes a 1)).getD (l.headD 0)

/-- The bytes as a register value (R151). -/
def loadValue (sgn : Bool) (bs : List Byte) : DWord :=
  let n := leNat bs
  if sgn then BitVec.ofInt 64 (sext (8 * bs.length) n) else dw n

/-- A load from translated pieces, or what ends it. -/
def State.seqLoad (s : State) (v : SeqView) (i : Instr) (d : GReg) (sgn : Bool) (ea : Nat) (named : Option (BitVec 24))
    (parts : List Part) : Fired :=
  match s.addrs v.reg.writer named parts with
  | .wait => none
  | .fail c _ k => some (s, v.blk.fault i c (dw ea) (v.blk.info1 0) (dw (named.getD 0#24).toNat) (dw k))
  | .ok as err =>
    if as.any (fun a => a.any s.vatLocked) then none
    else if err || as.any (v.lostByte s) then some (s, v.uncorrectable i (s.badUnit as))
    else some (s, v.sees s.mem as parts (v.blk.put d (loadValue sgn (as.map (v.loadByte s.mem)))))

/-- LD (R151 to R156). -/
def State.seqLd (s : State) (i : Instr) (d a : GReg) (z : Size) (sgn : Bool) (o : BitVec 11) : Answer :=
  s.seqOp i (fun v =>
    match (s.tlb v.r).seqCheck v.reg.job 0 none (v.ea a z o) (Size.bytes z) with
    | .fail c va => some (s, v.blk.accessFault i false c va)
    | .ok parts => s.seqLoad v i d sgn (v.ea a z o) none parts)

def execLd (d a : GReg) (z : Size) (o : BitVec 11) (s : State) : Answer := s.seqLd (.ld d a z o) d a z false o

def execLdSigned (d a : GReg) (z : Size) (o : BitVec 11) (s : State) : Answer :=
  s.seqLd (.ldSigned d a z o) d a z true o

/-- ST: checked at firing, written at commit under the translation it checked (R154). -/
def execSt (r a : GReg) (z : Size) (o : BitVec 11) (s : State) : Answer :=
  s.seqOp (.st r a z o) (fun v =>
    match (s.tlb v.r).seqCheck v.reg.job 1 (some false) (v.ea a z o) (Size.bytes z) with
    | .fail c va => some (s, v.blk.accessFault (.st r a z o) true c va)
    | .ok parts =>
      let pas := parts.flatMap (fun p => (upTo p.len).map (fun i => p.leaf.pa + i))
      some (s, v.blk.act (.store (pas.zip (leBytes (v.g r).toNat (Size.bytes z))))))

/-! ### Versions (R310 to R312) -/

/-- LDVER: waits while R221 makes the read wait. -/
def execLdver (d a b : GReg) (g : Bool) (z : Size) (s : State) : Answer :=
  s.seqOp (.ldver d a b g z) (fun v =>
    let ea := (v.g a).toNat
    let n := Size.bytes z
    match (s.tlb v.r).seqAccess v.reg.job 0 (some true) ea n (oneLine ea n) with
    | .fail c va => some (s, v.blk.accessFault (.ldver d a b g z) false c va)
    | .ok parts => s.seqLoad v (.ldver d a b g z) d g ea (some (BitVec.ofNat 24 (v.g b).toNat)) parts)

/-- STVER: takes its slot when it fires, and waits while none is free (R311). -/
def execStver (r a : GReg) (z : Size) (o : BitVec 11) (s : State) : Answer :=
  s.seqOp (.stver r a z o) (fun v =>
    let i : Instr := .stver r a z o
    let ea := v.ea a z o
    let n := Size.bytes z
    match (s.tlb v.r).seqAccess v.reg.job 1 (some true) ea n (oneLine ea n) with
    | .fail c va => some (s, v.blk.accessFault i true c va)
    | .ok parts =>
      match parts with
      | [] => some (s, v.blk)
      | p :: _ =>
        let l : VLine := p.leaf.vline
        let off := (p.leaf.pa - p.leaf.frame) % 32
        let round := v.blk.csrs.round
        if s.badBytes l.dir 32 then some (s, v.uncorrectable i l.dir)
        else
          match versStoreSlot s.mem l.dir v.reg.writer round with
          | (.slot k, fresh) =>
            let s' := if fresh then { s with mem := versTake s.mem l k v.reg.writer round } else s
            let bs := (leBytes (v.g r).toNat n).zipIdx.map (fun b => (l.data k + off + b.2, b.1))
            some (s', { (v.blk.act (.stver bs l.dir round)) with
              slots := if fresh then v.blk.slots ++ [(l.dir, k)] else v.blk.slots })
          | (.fail c k, _) => some (s, v.blk.fault i c (dw ea) (v.blk.info1 0) (dw round.toNat) (dw k))
          | _ => none)

def execReclaim (a b : GReg) (s : State) : Answer :=
  s.seqOp (.reclaim a b) (fun v =>
    match (s.tlb v.r).seqCheck v.reg.job 1 (some true) (v.g a).toNat 1 with
    | .fail c va => some (s, v.blk.accessFault (.reclaim a b) true c va)
    | .ok [] => some (s, v.blk)
    | .ok (p :: _) =>
      let l : VLine := p.leaf.vline
      if s.badBytes l.dir 32 then some (s, v.uncorrectable (.reclaim a b) l.dir)
      else some (s, v.blk.act (.reclaim l.dir (BitVec.ofNat 24 (v.g b).toNat))))

/-! ### Atomics (R313) -/

/-- The new value of an atomic by its operation code: `w` bits, old value m, operand x, compared value c. -/
def atomicValue (op w m x c : Nat) : Nat :=
  match op with
  | 0 => (m + x) % 2 ^ w
  | 1 => wrapInt w (clampInt (intMin w false) (intMax w false) (sext w m + sext w x))
  | 2 => if sext w x < sext w m then x else m
  | 3 => if sext w m < sext w x then x else m
  | 4 => m &&& x
  | 5 => m ||| x
  | 6 => m ^^^ x
  | 7 => x
  | 8 => if m = c then x else m
  | _ => (faddW (BitVec.ofNat 32 m) (BitVec.ofNat 32 x)).1.toNat

/-- An atomic when it fires: checked with the permissions of an atomic and its alignment. -/
def State.seqAtomic (s : State) (i : Instr) (op : Nat) (d a b : GReg) (dbl : Bool) : Answer :=
  s.seqOp i (fun v =>
    let n := if dbl then 8 else 4
    let ea := (v.g a).toNat
    match (s.tlb v.r).seqAccess v.reg.job 2 (some false) ea n (ea % n == 0) with
    | .fail c va => some (s, v.blk.accessFault i true c va)
    | .ok parts => some (s, v.blk.act (.atomic op d ((parts.map (fun p => p.leaf.pa)).headD 0) dbl (v.g b) (v.g d))))

def execAadd (d a b : GReg) (z : Bool) (c : Scope) (r : Bool) (s : State) : Answer :=
  s.seqAtomic (.aadd d a b z c r) 0 d a b z

def execAadds (d a b : GReg) (z : Bool) (c : Scope) (r : Bool) (s : State) : Answer :=
  s.seqAtomic (.aadds d a b z c r) 1 d a b z

def execAmin (d a b : GReg) (z : Bool) (c : Scope) (r : Bool) (s : State) : Answer :=
  s.seqAtomic (.amin d a b z c r) 2 d a b z

def execAmax (d a b : GReg) (z : Bool) (c : Scope) (r : Bool) (s : State) : Answer :=
  s.seqAtomic (.amax d a b z c r) 3 d a b z

def execAand (d a b : GReg) (z : Bool) (c : Scope) (r : Bool) (s : State) : Answer :=
  s.seqAtomic (.aand d a b z c r) 4 d a b z

def execAor (d a b : GReg) (z : Bool) (c : Scope) (r : Bool) (s : State) : Answer :=
  s.seqAtomic (.aor d a b z c r) 5 d a b z

def execAxor (d a b : GReg) (z : Bool) (c : Scope) (r : Bool) (s : State) : Answer :=
  s.seqAtomic (.axor d a b z c r) 6 d a b z

def execAxch (d a b : GReg) (z : Bool) (c : Scope) (r : Bool) (s : State) : Answer :=
  s.seqAtomic (.axch d a b z c r) 7 d a b z

def execAcas (d a b : GReg) (z : Bool) (c : Scope) (r : Bool) (s : State) : Answer :=
  s.seqAtomic (.acas d a b z c r) 8 d a b z

def execAfadd (d a b : GReg) (c : Scope) (r : Bool) (s : State) : Answer :=
  s.seqAtomic (.afadd d a b c r) 9 d a b false

/-- FENCE: with every access whole at one instant of one order, stores at commit, and the reads behind an act of the block
as good at the commit as when they fired, its orders hold (R289, R314; log entry 7). -/
def execFence (o : FenceOrder) (c : Scope) (s : State) : Answer :=
  s.seqOp (.fence o c) (fun v => some (s, v.blk))

/-! ### The acts at commit -/

/-- Bytes written one by one; a 64-byte unit written whole loses its uncorrectable mark (R356). -/
def State.writeAt (s : State) (bs : List (Nat × Byte)) : State :=
  let units := ((bs.map (fun b => b.1 / 64)).eraseDups).filter (fun u =>
    (upTo 64).all (fun i => bs.any (fun b => b.1 == 64 * u + i)))
  { s with
    mem := bs.foldl (fun m b => m.write b.1 b.2) s.mem
    uerr := s.uerr.filter (fun u => !units.contains u) }

/-- A slot of round n joins those that the region's commit or void of n decides (R220). -/
def Region.ownsSlot (x : Region) (dir : Nat) (n : BitVec 24) : Region :=
  { x with vers := if x.vers.contains (dir, n) then x.vers else x.vers ++ [(dir, n)] }

/-- An atomic performed: the old value, zero-extended (R313). -/
def State.doAtomic (s : State) (die op pa : Nat) (dbl : Bool) (x c : DWord) : State × DWord :=
  let n := if dbl then 8 else 4
  let m := s.mem.readNat pa n
  let new := atomicValue op (8 * n) m (x.toNat % 2 ^ (8 * n)) (c.toNat % 2 ^ (8 * n))
  ((s.storeBytes pa (leBytes new n)).countAtomic pa die, dw m)

end Sys2Proof.Machine
end

