-- ==== Sys2Proof/Machine/SeqEngine.lean ====
section
/-! DEFINITION. Stream engine commands as a sequencer issues them (R315, R321). -/

namespace Sys2Proof.Machine

/-- The checks of an arrival's object when a word names it (R315, R335): checks 1 to 3 and 5 with the
permissions of an atomic. A page that is not resident makes the arrival wait (R305). -/
def State.arrivalCheck (s : State) (job ea : Nat) : Option (Nat × Nat) :=
  match s.seqAccess job 2 (some false) ea 16 (ea % 16 == 0) with
  | .ok _ => none
  | .fail 4 _ => if ea % 16 = 0 then none else some (5, ea)
  | .fail c va => some (c, va)

/-- A command: descriptor and barrier object are checked when it fires, and it acts at commit (R315). -/
def State.seqEngine (s : State) (i : Instr) (cmd : Nat) (d a b : GReg) : Answer :=
  s.seqOp i (fun v =>
    let ea := (v.g a).toNat
    match (s.tlb v.r).seqAccess v.reg.job 0 none ea 64 (ea % 64 == 0) with
    | .fail c va => some (s, v.blk.accessFault i false c va)
    | .ok parts =>
      let bar := (v.g b).toNat
      match (if bar = 0 then none else (s.tlb v.r).arrivalCheck v.reg.job bar) with
      | some (c, va) => some (s, v.blk.accessFault i true c va)
      | none =>
        match s.addrs v.reg.writer none parts with
        | .ok as err =>
          if err || as.any (v.lostByte s) then some (s, v.uncorrectable i (s.badUnit as))
          else some (s, v.blk.act (.engine cmd d ea bar v.blk.csrs.round))
        | _ => some (s, v.blk))

def execScopy (d a b : GReg) (s : State) : Answer := s.seqEngine (.scopy d a b) 1 d a b

def execSload (d a b : GReg) (s : State) : Answer := s.seqEngine (.sload d a b) 2 d a b

def execSstore (d a b : GReg) (s : State) : Answer := s.seqEngine (.sstore d a b) 3 d a b

def execSgath (d a b : GReg) (s : State) : Answer := s.seqEngine (.sgath d a b) 4 d a b

def execSscat (d a b : GReg) (s : State) : Answer := s.seqEngine (.sscat d a b) 5 d a b

def execSprobe (d a b : GReg) (s : State) : Answer := s.seqEngine (.sprobe d a b) 6 d a b

def execSpeer (d a b : GReg) (s : State) : Answer := s.seqEngine (.speer d a b) 7 d a b

def execScoll (d a b : GReg) (s : State) : Answer := s.seqEngine (.scoll d a b) 8 d a b

/-- SQUERY: answered at commit (R321). -/
def execSquery (d a : GReg) (s : State) : Answer :=
  s.seqAct (.squery d a) (fun v => .squery d ((v.g a).toNat % 2 ^ 16))

end Sys2Proof.Machine
end

