-- ==== Sys2Proof/Machine/SeqSync.lean ====
section
/-! DEFINITION. Rounds, barriers, flags and fabric drains as a sequencer issues and waits on them
(R326, R333 to R337). -/

namespace Sys2Proof.Machine

/-! ### RNDEND (R333) -/

/-- The region runs folded and this round end would inject a pass marker (R85, R333). -/
def Region.passEnds (x : Region) (fpass : BitVec 4) : Bool := decide (fpass.toNat < x.place.fold)

/-- ROUND and FPASS after an RNDEND. -/
def Csrs.afterRndend (c : Csrs) (x : Region) : Csrs :=
  if x.passEnds c.fpass then { c with fpass := c.fpass + 1 } else { c with round := c.round + 1, fpass := 0#4 }

/-- RNDEND fires only while the region holds fewer than two rounds in flight (R295). -/
def execRndend (a : GReg) (s : State) : Answer :=
  s.seqOp (.rndend a) (fun v =>
    let c := v.blk.csrs
    if c.round = v.reg.lastRnd + 1 then
      some (s, { (v.blk.act (.rndend ((v.g a).toNat % 256))) with csrs := c.afterRndend v.reg })
    else none)

/-! ### Waits with a time limit (R308) -/

/-- Bit 63 of a result, set by an expired limit (R308). -/
def timedOut (expired : Bool) (x : DWord) : DWord := if expired then x ||| dw (2 ^ 63) else x

/-- RNDWAIT (R334, R298). -/
def State.rndwait (s : State) (expired : Bool) (d a b : GReg) : Answer :=
  s.seqOp (.rndwait d a b) (fun v =>
    let n := BitVec.ofNat 24 (v.g a).toNat
    let l := v.reg.lastRnd
    if unordered n l then
      some (s, v.blk.fault (.rndwait d a b) 0x94 0#64 (v.blk.info1 0) 0#64 (dw (n.toNat * 2 ^ 24 + l.toNat)))
    else if atOrBefore n l then some (s, v.blk.put d (l.setWidth 64))
    else if expired then some (s, v.blk.put d (timedOut true (l.setWidth 64)))
    else none)

def execRndwait (d a b : GReg) (s : State) : Answer := s.rndwait false d a b

/-- FDRAIN (R326). -/
def State.fdrain (s : State) (expired : Bool) (d b : GReg) : Answer :=
  s.seqOp (.fdrain d b) (fun v =>
    let n := v.blk.csrs.round
    let l := v.reg.lastRnd
    if n = l + 1 && !(s.buffered v.r false).any (fun t => precedes t.round n) then some (s, v.blk.put d (l.setWidth 64))
    else if expired then some (s, v.blk.put d (timedOut true (l.setWidth 64)))
    else none)

def execFdrain (d b : GReg) (s : State) : Answer := s.fdrain false d b

/-- A read that observes memory and the block's earlier stores at one instant (R94, R336). -/
def State.seqObserve (s : State) (v : SeqView) (i : Instr) (ea n : Nat) (f : Nat → Fired) : Fired :=
  match (s.tlb v.r).seqCheck v.reg.job 0 none ea n with
  | .fail c va => some (s, v.blk.accessFault i false c va)
  | .ok parts =>
    match s.addrs v.reg.writer none parts with
    | .ok as err =>
      if as.any (fun a => a.any s.vatLocked) then none
      else if err || as.any (v.lostByte s) then some (s, v.uncorrectable i (s.badUnit as))
      else (f (leNat (as.map (v.loadByte s.mem)))).map (fun x => (x.1, v.sees s.mem as parts x.2))
    | _ => none

/-- What BARWAIT and BARSTAT return of a barrier object: STATUS, PHASE and ARRIVED (R302, R336). -/
def barrierView (obj : Nat) : DWord := dw (bits obj 64 32 + bits obj 63 1 * 2 ^ 32 + bits obj 0 24 * 2 ^ 33)

/-- BARWAIT (R336). -/
def State.barwait (s : State) (expired : Bool) (d a b : GReg) : Answer :=
  s.seqOp (.barwait d a b) (fun v =>
    let ga := (v.g a).toNat
    s.seqObserve v (.barwait d a b) (ga / 16 * 16) 16 (fun obj =>
      if bits obj 63 1 ≠ ga % 2 then some (s, v.blk.put d (barrierView obj))
      else if expired then some (s, v.blk.put d (timedOut true (barrierView obj)))
      else none))

def execBarwait (d a b : GReg) (s : State) : Answer := s.barwait false d a b

def execBarstat (d a : GReg) (s : State) : Answer :=
  s.seqOp (.barstat d a) (fun v =>
    s.seqObserve v (.barstat d a) ((v.g a).toNat / 16 * 16) 16 (fun obj => some (s, v.blk.put d (barrierView obj))))

/-- FLAGWAIT (R337). -/
def State.flagwait (s : State) (expired : Bool) (d a b : GReg) : Answer :=
  s.seqOp (.flagwait d a b) (fun v =>
    s.seqObserve v (.flagwait d a b) (v.g a).toNat 8 (fun x =>
      if (dw x - v.g d).toNat < 2 ^ 63 ∨ expired then some (s, v.blk.put d (dw x)) else none))

def execFlagwait (d a b : GReg) (s : State) : Answer := s.flagwait false d a b

/-- The general register that holds the limit of a waiting word (R308, R337). -/
def limitReg : Instr → Option GReg
  | .rndwait _ _ b | .barwait _ _ b | .flagwait _ _ b | .fdrain _ b => some b
  | _ => none

/-- The word in turn, decoded. -/
def Block.word (b : Block) : Decoded := decodeS (b.words.getD b.idx 0#32)

/-- The limit of the word in turn has passed: package time, in microseconds of 130,900 units (R308). -/
def SeqView.expired (v : SeqView) (now : Nat) : Bool :=
  match v.blk.word, v.blk.waits.find? v.blk.idx with
  | .instr i, some (t, _) =>
    match limitReg i with
    | some b => (v.g b).toNat != 0 && decide (t + (v.g b).toNat * 130900 ≤ now)
    | none => false
  | _, _ => false

/-- A waiting word whose limit passes fires with what its description states (R308). -/
def execWaitTimeout (r : Nat) (s : State) : Answer :=
  let s := { s with focus := { s.focus with region := r } }
  match s.seqView with
  | none => .next s
  | some v =>
    let e := v.expired s.time
    match v.blk.word with
    | .instr (.rndwait d a b) => s.rndwait e d a b
    | .instr (.barwait d a b) => s.barwait e d a b
    | .instr (.flagwait d a b) => s.flagwait e d a b
    | .instr (.fdrain d b) => s.fdrain e d b
    | _ => .next s

/-- An LDVER in turn has waited longer than the freeze budget (R310). -/
def State.ldverExpired (s : State) (v : SeqView) : Bool :=
  match v.blk.word, v.blk.waits.find? v.blk.idx with
  | .instr (.ldver _ _ _ _ _), some (_, c) => decide (c + s.freezeBudget v.r ≤ s.cycle)
  | _, _ => false

/-- Its wait ends in version-wait, 0x47, at its position (R310, R234). -/
def execLdverVersionWaitExpiry (r : Nat) (s : State) : Answer :=
  let s := { s with focus := { s.focus with region := r } }
  match s.seqView with
  | none => .next s
  | some v =>
    match v.blk.word with
    | .instr (.ldver d a b g z) =>
      if s.ldverExpired v then
        .next (s.setBlock (v.blk.fault (.ldver d a b g z) 0x47 (v.g a) (v.blk.info1 0)
          (dw ((v.g b).toNat % 2 ^ 24)) 0#64).advance)
      else .next s
    | _ => .next s

/-! ### Arrivals and flags (R335, R337) -/

def execBararr (a b : GReg) (s : State) : Answer :=
  s.seqOp (.bararr a b) (fun v =>
    match (s.tlb v.r).arrivalCheck v.reg.job (v.g a).toNat with
    | some (c, va) => some (s, v.blk.accessFault (.bararr a b) true c va)
    | none => some (s, v.blk.act (.bararr (v.g a).toNat ((v.g b).setWidth 32))))

def execNotify (a b : GReg) (s : State) : Answer :=
  s.seqOp (.notify a b) (fun v =>
    let ea := (v.g a).toNat
    match (s.tlb v.r).seqAccess v.reg.job 2 (some false) ea 8 (ea % 8 == 0) with
    | .fail c va => some (s, v.blk.accessFault (.notify a b) true c va)
    | .ok parts => some (s, v.blk.act (.notify ((parts.map (fun p => p.leaf.pa)).headD 0) (v.g b))))

end Sys2Proof.Machine
end

