-- ==== Sys2Proof/Machine/SeqFabric.lean ====
section
/-! DEFINITION. Fabric control and Vat control words of the sequencer (R322 to R332): what they check when they
fire, and what they read or write at commit. -/

namespace Sys2Proof.Machine

/-- The fabric-state cause, 0x98, at the word's position (R344). -/
def SeqView.fabricState (v : SeqView) (i : Instr) (ga : DWord) : Block :=
  v.blk.fault i 0x98 ga (v.blk.info1 0) 0#64 0#64

/-! ### Contexts (R322, R323) -/

/-- Rectangle and fold factor minus one of an image that a region node names: IMAGE itself, or an alternative. -/
def TNode.candidate (n : TNode) (image : Nat) : Option (Nat × Nat × Nat) :=
  if image = n.word 8 then some (bits (n.word 10) 60 4, bits (n.word 10) 56 4, 0)
  else (List.find? (fun a => a.1 == image) n.alts).map (fun a => (a.2.1, a.2.2.1, a.2.2.2 - 1))

/-- What FLOAD checks when it fires (R322). -/
def State.floadOk (s : State) (v : SeqView) (image ctx : Nat) : Bool :=
  let p := v.reg.place
  p.fold == 0 && !v.reg.seq.armed &&
    match (s.rnode v.r).candidate image with
    | some (rows, cols, fold) => rows + 1 == p.rows && cols + 1 == p.cols && decide (ctx ≤ fold)
    | none => false

def execFload (a b : GReg) (s : State) : Answer :=
  s.seqOp (.fload a b) (fun v =>
    let ctx := (v.g b).toNat % 16
    if s.floadOk v (v.g a).toNat ctx then some (s, v.blk.act (.fload (v.g a).toNat ctx))
    else some (s, v.fabricState (.fload a b) (v.g a)))

def execFswitch (s : State) : Answer :=
  s.seqOp .fswitch (fun v =>
    if v.reg.place.fold = 0 ∧ v.reg.seq.loaded.isSome then some (s, v.blk.act .fswitch)
    else some (s, v.fabricState .fswitch 0#64))

/-! ### Shrink and grow (R324) -/

/-- SHRINK of the effective POLICY (R21): bit 26 of the header doubleword. -/
def NodeEff.shrinks (e : NodeEff) : Bool := bit e.policy 10

def execFshrink (a : GReg) (s : State) : Answer :=
  s.seqOp (.fshrink a) (fun v =>
    let n := s.rnode v.r
    let k := (v.g a).toNat % 8
    if n.eff.shrinks && decide (k < n.alts.length) then some (s, v.blk.act (.fshrink k))
    else some (s, v.fabricState (.fshrink a) (v.g a)))

def execFgrow (s : State) : Answer :=
  s.seqOp .fgrow (fun v =>
    if (s.rnode v.r).eff.shrinks then some (s, v.blk.act .fgrow) else some (s, v.fabricState .fgrow 0#64))

/-! ### Stop and run (R325) -/

def execFstop (s : State) : Answer := s.seqAct .fstop (fun _ => .fstop)

def execFrun (s : State) : Answer := s.seqAct .frun (fun _ => .frun)

/-! ### Status of the fabric (R327) -/

/-- FSTAT's selection: no nonzero bit outside its fields, a selector, and an element that holds the state. -/
def Region.fstatOk (x : Region) (ga : Nat) : Bool :=
  let sel := bits ga 56 8
  let bench := bits ga 48 8
  let elem := bits ga 44 4
  bits ga 1 43 == 0 && decide (sel ≤ 7) && (x.benches.find? bench).isSome
    && (if 1 ≤ sel ∧ sel ≤ 3 then elem == 0 else true)

def execFstat (d a : GReg) (s : State) : Answer :=
  s.seqOp (.fstat d a) (fun v =>
    if v.reg.fstatOk (v.g a).toNat then some (s, v.blk.act (.fstat d (v.g a)))
    else some (s, v.fabricState (.fstat d a) (v.g a)))

/-- What FSTAT reads at commit. -/
def Region.fstat (x : Region) (ga : Nat) : DWord :=
  let y := x.bench (bits ga 48 8)
  let el := y.elem (bits ga 44 4)
  let bad := y.port.badFirst
  match bits ga 56 8 with
  | 0 => el.aflags.setWidth 64
  | 1 => dw y.port.badCount
  | 2 => match bad with
    | some (round, tag, lane, _) => dw (round.toNat * 2 ^ 28 + tag.toNat * 2 ^ 4 + lane)
    | none => 0#64
  | 3 => match bad with
    | some (_, _, _, i) => i.setWidth 64
    | none => 0#64
  | 4 => dw (el.voter.counts.getD 0 0 * 2 ^ 32 + el.voter.counts.getD 1 0 * 2 ^ 16 + el.voter.counts.getD 2 0)
  | 5 => match el.voter.first with
    | some (round, tag) => dw (el.voter.noMajority * 2 ^ 48 + round.toNat * 2 ^ 24 + tag.toNat)
    | none => dw (el.voter.noMajority * 2 ^ 48)
  | 6 => dw (y.shadow.state + y.shadow.ctx % 16 * 2 ^ 4)
  | _ => dw x.seq.request

/-- The state a CLR of FSTAT clears. -/
def Region.fstatClear (x : Region) (ga : Nat) : Region :=
  let b := bits ga 48 8
  let e := bits ga 44 4
  let sel := bits ga 56 8
  if !bit ga 0 then x
  else if sel = 0 then x.updElem b e (fun el => { el with aflags := 0#8 })
  else if sel ≤ 3 then x.updBench b (fun y => { y with port := { y.port with badCount := 0, badFirst := none } })
  else if sel ≤ 5 then
    x.updElem b e (fun el => { el with voter := { el.voter with counts := [0, 0, 0], noMajority := 0, first := none } })
  else x

/-! ### Injection and extraction (R328, R329) -/

def execFinj (a b : GReg) (s : State) : Answer :=
  s.seqOp (.finj a b) (fun v =>
    if (v.g a).toNat < 8 then some (s, v.blk.act (.finj (v.g a).toNat (v.g b) v.blk.csrs.round))
    else some (s, v.fabricState (.finj a b) (v.g a)))

/-- The token that FINJ injects (R328). -/
def finjToken (line : Nat) (x : DWord) (round : BitVec 24) : Token :=
  ⟨.control, false, round, 0#24, BitVec.ofNat 8 line, x.setWidth 512⟩

/-- What FEXT reads: register, local memory doubleword or mask; nothing where a bit has to be zero or no such
element is in the region (R329). -/
def Region.fext (x : Region) (ga : Nat) : Option DWord :=
  let bench := bits ga 56 8
  let kind := bits ga 50 2
  let used := 2 ^ 64 - 2 ^ 42 + 2 ^ 16 - 2 ^ 3
  if ga &&& used ≠ ga ∨ kind = 3 ∨ (kind = 2 ∧ bits ga 45 2 ≠ 0) ∨ (x.benches.find? bench).isNone then none
  else
    let el := (x.bench bench).elem (bits ga 52 4)
    match kind with
    | 0 => some (((el.regs.getD (bits ga 45 5) .zero).val).extractLsb' (64 * bits ga 42 3) 64)
    | 1 => some (dw (leNat ((upTo 8).map (fun i => el.local_.getD (8 * bits ga 3 13 + i) 0#8))))
    | _ => some ((if bits ga 47 3 = 0 then 0xFFFF#16 else (el.masks.getD (bits ga 47 3) .zero).val).setWidth 64)

def execFext (d a : GReg) (s : State) : Answer :=
  s.seqOp (.fext d a) (fun v =>
    if v.blk.stopAtEntry && v.reg.fab.stop then
      match v.reg.fext (v.g a).toNat with
      | some x => some (s, v.blk.put d x)
      | none => some (s, v.fabricState (.fext d a) (v.g a))
    else some (s, v.fabricState (.fext d a) (v.g a)))

/-! ### Vat control (R330 to R332) -/

/-- The vat-map-invalid cause, 0x64, at the word's position. -/
def SeqView.vatInvalid (v : SeqView) (i : Instr) (ga : DWord) : Block :=
  v.blk.fault i 0x64 ga (v.blk.info1 0) 0#64 0#64

/-- The benches with VEN = 1. -/
def Region.nodes (x : Region) : List Nat := (x.benches.filter (fun y => y.2.plane.ven)).map Prod.fst

/-- The nodes that a bench operand with ALL names. -/
def Region.named (x : Region) (bench : Nat) (all : Bool) : Option (List Nat) :=
  if all then some x.nodes else if x.nodes.contains bench then some [bench] else none

/-- The bench operand of VGO and VQUIESCE. -/
def Region.vatSel (x : Region) (ga : Nat) : Option (List Nat) :=
  if ga / 2 ^ 9 ≠ 0 then none else x.named (ga % 256) (bit ga 8)

def execVgo (a : GReg) (s : State) : Answer :=
  s.seqOp (.vgo a) (fun v =>
    if (v.reg.vatSel (v.g a).toNat).isSome then some (s, v.blk.act (.vgo (v.g a).toNat))
    else some (s, v.vatInvalid (.vgo a) (v.g a)))

def execVquiesce (a : GReg) (s : State) : Answer :=
  s.seqOp (.vquiesce a) (fun v =>
    if (v.reg.vatSel (v.g a).toNat).isSome then some (s, v.blk.act (.vquiesce (v.g a).toNat))
    else some (s, v.vatInvalid (.vquiesce a) (v.g a)))

/-- The limits of a VMAP selection (R331). -/
def vmapOk (sel x : Nat) : Bool :=
  if sel < 64 then
    x / 2 ^ 36 == 0 && decide (bits x 0 12 ≤ bits x 24 12 ∧ bits x 24 12 ≤ bits x 12 12 ∧ bits x 12 12 ≤ 3071)
  else if sel = 64 then x / 2 ^ 57 == 0 && x % 1024 == 0
  else if sel = 65 then x / 2 ^ 24 == 0 && decide (bits x 0 12 ≤ bits x 12 12)
  else if sel ≤ 68 then x / 2 ^ 57 == 0 && x % 16 == 0
  else false

def execVmap (a b : GReg) (s : State) : Answer :=
  s.seqOp (.vmap a b) (fun v =>
    let ga := (v.g a).toNat
    if ga / 2 ^ 17 = 0 ∧ vmapOk (ga % 256) (v.g b).toNat ∧ (v.reg.named (bits ga 8 8) (bit ga 16)).isSome then
      some (s, v.blk.act (.vmap ga (v.g b)))
    else some (s, v.vatInvalid (.vmap a b) (v.g a)))

/-- A VMAP item written (R331). -/
def Node.vmap (n : Node) (sel x : Nat) : Node :=
  if sel < 64 then { n with rows := n.rows.put sel ⟨bits x 0 12, bits x 12 12, bits x 24 12⟩ }
  else if sel = 64 then { n with mbase := x }
  else if sel = 65 then { n with mlim := bits x 12 12, mrow := bits x 0 12 }
  else { n with dbar := n.dbar.put (sel - 65) x }

def execVstat (d a : GReg) (s : State) : Answer :=
  s.seqOp (.vstat d a) (fun v =>
    let ga := (v.g a).toNat
    if ga < 256 ∧ v.reg.nodes.contains ga then some (s, v.blk.act (.vstat d ga))
    else some (s, v.vatInvalid (.vstat d a) (v.g a)))

/-- A firing of a bench's sheets has not merged (R332). -/
def Region.firingsLeft (x : Region) (b : Nat) : Bool :=
  (x.bench b).plane.sheets.any (fun m => (x.sheet (x.sheetKey b m.2)).queue.any (fun o =>
    match o with
    | .sample _ _ _ | .fire _ _ _ _ => true
    | _ => false))

/-- What VSTAT reads (R332). -/
def Region.vstat (x : Region) (b : Nat) : DWord :=
  let n := (x.bench b).node
  let stop := n.stop && !(n.quiesced && x.firingsLeft b)
  dw (stop.toNat * 2 ^ 63 + n.mround.toNat * 2 ^ 32 + n.vnstat.toNat)

end Sys2Proof.Machine
end

