-- ==== Sys2Proof/Machine/SeqSystem.lean ====
section
/-! DEFINITION. System words of the sequencer: control registers, queries, calls, traps and hints (R338 to R343). -/

namespace Sys2Proof.Machine

/-! ### Control registers (R118, R338) -/

/-- FRZSTAT (R104). -/
def Freeze.word (f : Freeze) : DWord :=
  dw (f.frozen.toNat * 2 ^ 63 + f.src % 16 * 2 ^ 59 + f.bench % 256 * 2 ^ 51 + f.elem % 16 * 2 ^ 47
    + f.phase % 64 * 2 ^ 41 + f.cycles % 2 ^ 32)

/-- A control register as the word in turn reads it (R137). -/
def SeqView.csr (v : SeqView) (k : Nat) : DWord :=
  let c := v.blk.csrs
  if k = 0x001 then c.round.setWidth 64
  else if k = 0x002 then c.fpass.setWidth 64
  else if k = 0x003 then v.reg.fab.freeze.word
  else if k = 0x004 then dw c.priv.toNat
  else if k = 0x005 then (v.reg.seq.csrs.capvec &&& ~~~v.blk.capClear).setWidth 64
  else if k = 0x006 then c.bmapsel
  else if k = 0x100 then c.handler.setWidth 64
  else if k = 0x101 then c.trapcause.setWidth 64
  else if k = 0x102 then c.trapblk.setWidth 64
  else if k = 0x103 then c.traptag.setWidth 64
  else c.trapinfo.getD (k - 0x104) 0#64

/-- A control register written: bits above its width and the reserved bits of BMAPSEL are ignored (R230, R338). -/
def Csrs.write (c : Csrs) (k : Nat) (x : DWord) : Csrs :=
  if k = 0x006 then { c with bmapsel := x >>> 37 <<< 37 }
  else if k = 0x100 then { c with handler := x.setWidth 57 }
  else if k = 0x101 then { c with trapcause := x.setWidth 8 }
  else if k = 0x102 then { c with trapblk := x.setWidth 57 }
  else if k = 0x103 then { c with traptag := x.setWidth 24 }
  else if 0x104 ≤ k ∧ k ≤ 0x107 then { c with trapinfo := c.trapinfo.put (k - 0x104) x }
  else c

def execCsrr (d : GReg) (k : BitVec 12) (s : State) : Answer :=
  s.seqFn (.csrr d k) d (fun v => v.csr k.toNat)

/-- A write of a control register, which takes effect at commit; later words of the block read it (R137). -/
def State.seqCsr (s : State) (i : Instr) (k : Nat) (f : SeqView → DWord) : Answer :=
  s.seqOp i (fun v => some (s, { v.blk with csrs := v.blk.csrs.write k (f v) }))

def execCsrw (r : GReg) (k : BitVec 12) (s : State) : Answer := s.seqCsr (.csrw r k) k.toNat (fun v => v.g r)

def execCsrs (r : GReg) (k : BitVec 12) (s : State) : Answer :=
  s.seqCsr (.csrs r k) k.toNat (fun v => v.csr k.toNat ||| v.g r)

/-- CSRC; CAPVEC takes no other write (R118). -/
def execCsrc (r : GReg) (k : BitVec 12) (s : State) : Answer :=
  s.seqOp (.csrc r k) (fun v =>
    if k = 0x005#12 then some (s, { v.blk with capClear := v.blk.capClear ||| (v.g r).setWidth 8 })
    else some (s, { v.blk with csrs := v.blk.csrs.write k.toNat (v.csr k.toNat &&& ~~~v.g r) }))

/-! ### Queries (R339) -/

def execCaprd (d a b : GReg) (s : State) : Answer :=
  s.seqFn (.caprd d a b) d (fun v => s.caprd ((v.g a).toNat % 8) (v.g b).toNat)

def execBmaprd (d : GReg) (s : State) : Answer :=
  s.seqFn (.bmaprd d) d (fun v => s.bmaprd (v.csr 0x006).toNat)

/-! ### Calls, traps and hints (R340 to R343) -/

def execSvc (n : GReg) (k : BitVec 12) (s : State) : Answer :=
  s.seqAct (.svc n k) (fun v => .svc k.toNat n (v.g n))

def execTrap (n : GReg) (k : BitVec 12) (s : State) : Answer :=
  s.seqAct (.trap n k) (fun v => .raise 0x05 k.toNat (v.g n))

def execBrk (n : GReg) (k : BitVec 12) (s : State) : Answer :=
  s.seqAct (.brk n k) (fun v => .raise 0x06 k.toNat (v.g n))

/-- TRET: at J it is refused with reason 11 (R342). -/
def execTret (s : State) : Answer := s.seqAct .tret (fun _ => .tret)

def execYield (s : State) : Answer := s.seqAct .yield (fun _ => .yield)

/-- The bank and set of a line of the block cache: a retired bank's lines go to the live banks (R92). -/
def cacheSet (lost : List Nat) (addr : Nat) : Nat :=
  let live := (upTo 4).filter (fun k => !lost.contains k)
  let b := addr / 64 % 4
  let bank := if lost.contains b then live.getD (b % live.length) 0 else b
  bank * 16 + addr / 256 % 16

/-- Retired block-cache banks of a region's sequencer. -/
def State.cacheLost (s : State) (r : Nat) : List Nat :=
  let x := s.reg r
  (s.die x.place.die).cacheBanksLost.getD (x.dieBench 0) []

/-- The line at an address, when the block cache holds it. -/
def State.cached (s : State) (r addr : Nat) : Option CLine :=
  ((s.reg r).seq.cache.getD (cacheSet (s.cacheLost r) addr) []).find? (fun l => l.addr == addr && !l.parity)

/-- A fill of a line begins: its data arrive after no stated latency (R92). -/
def State.startLineFill (s : State) (r addr : Nat) : State :=
  let (s, t) := s.ticket
  s.updSeq r (fun q => { q with filling := some (addr, s.cycle + 1 + Config.fillLatency t) })

/-- HINT: with k = 1 it prefetches a line, and every other k acts as NOP (R343). -/
def execHint (n : GReg) (k : BitVec 12) (s : State) : Answer :=
  s.seqOp (.hint n k) (fun v =>
    let a := (v.g n).toNat
    let line := a / 64 * 64
    if k = 1#12 ∧ a / 2 ^ 57 = 0 ∧ a % 4 = 0 ∧ (s.cached v.r line).isNone ∧ v.reg.seq.filling.isNone then
      match (s.tlb v.r).seqCheck v.reg.job 3 none line 64 with
      | .ok _ => some (s.startLineFill v.r line, v.blk)
      | .fail _ _ => some (s, v.blk)
    else some (s, v.blk))

def execNop (s : State) : Answer := s.seqOp .nop (fun v => some (s, v.blk))

end Sys2Proof.Machine
end

