-- ==== Sys2Proof/Machine/Barrier.lean ====
section
/-! DEFINITION. Arrivals on barrier objects and flag adds (R228, R302 to R305). -/

namespace Sys2Proof.Machine

/-- An arrival on the sixteen bytes of a barrier object (R303); nothing when the object is malformed. -/
def arrive (w0 w1 : DWord) (st : Word) : Option (DWord × DWord) :=
  let x := w0.toNat
  let expected := bits x 24 24
  let arrived := bits x 0 24
  if bits x 48 15 ≠ 0 ∨ expected = 0 ∨ expected ≤ arrived then none
  else
    let pend := w1.extractLsb' 32 32 ||| st
    let phase := bits x 63 1
    if arrived + 1 = expected then
      some (dw ((1 - phase) * 2 ^ 63 + expected * 2 ^ 24), pend.setWidth 64)
    else some (dw (phase * 2 ^ 63 + expected * 2 ^ 24 + arrived + 1), dw (pend.toNat * 2 ^ 32 + w1.toNat % 2 ^ 32))

/-- The page of an address is mapped and under migration, or not resident at all. -/
def State.migrating (s : State) (job va : Nat) : Bool :=
  match s.walk job va with
  | .leaf l => peMig l.entry
  | _ => false

/-- An access waits for its page: S receives 0x46 for a page that is not resident (R228, R305). -/
def State.stall (s : State) (job r va : Nat) (i : Event) : State :=
  let s := { s with stalled := s.stalled ++ [i] }
  if s.migrating job va then s else s.event r 0x46 (dw va) 0#64 0#64 0#64

/-- An arrival (R303 to R305): `r` is the region whose sequencer takes the cause of a failure. -/
def State.arriveAt (s : State) (job addr r : Nat) (st : Word) : State :=
  match s.seqAccess job 2 (some false) addr 16 (addr % 16 == 0) with
  | .ok parts =>
    let pa := (parts.map (fun p => p.leaf.pa)).headD 0
    if s.vatLocked pa then { s with stalled := s.stalled ++ [.barrierArrival job addr r st] }
    else
      let w0 := dw (s.mem.readNat pa 8)
      match arrive w0 (dw (s.mem.readNat (pa + 8) 8)) st with
      | none => s.asyncRaise r 0x4E (dw addr) w0 (st.setWidth 64) 0#64
      | some (x, y) =>
        (s.storeBytes pa (leBytes x.toNat 8 ++ leBytes y.toNat 8)).countAtomic pa (s.reg r).place.die
  | .fail 4 va => s.stall job r va (.barrierArrival job addr r st)
  | .fail c va => s.asyncRaise r 0x42 (dw va) (dw (c * 2 ^ 8)) 0#64 0#64

def execBarrierArrival (job addr r : Nat) (st : Word) (s : State) : Answer :=
  .next ({ s with stalled := s.stalled.filter (fun e => e != Event.barrierArrival job addr r st) }.arriveAt job addr r st)

/-- The region of a job that a cause without a sequencer is reported for. -/
def State.jobRegion (s : State) (job : Nat) : Nat :=
  ((List.find? (fun x => x.2.job == job) s.regions).map Prod.fst).getD 0

/-- The site of a flag add: the flag word's address in bits 63 to 0, and above them the die that makes the add. -/
def flagSite (die flag : Nat) : Nat := die * 2 ^ 64 + flag % 2 ^ 64

/-- The die that makes a flag add. -/
def siteDie (site : Nat) : Nat := site / 2 ^ 64 % 4

/-- A flag add, which a die makes: 1 is added to a doubleword of a job's memory, and it waits for its page (R228). -/
def State.addFlag (s : State) (job site : Nat) : State :=
  let addr := site % 2 ^ 64
  match s.seqAccess job 2 (some false) addr 8 (addr % 8 == 0) with
  | .ok parts =>
    let pa := (parts.map (fun p => p.leaf.pa)).headD 0
    if s.vatLocked pa then { s with stalled := s.stalled ++ [.flagAdd job site] }
    else
      (s.storeBytes pa (leBytes ((s.mem.readNat pa 8 + 1) % 2 ^ 64) 8)).countAtomic pa (siteDie site)
  | .fail 4 va => s.stall job (s.jobRegion job) va (.flagAdd job site)
  | .fail _ _ => s

def execFlagAdd (job site : Nat) (s : State) : Answer :=
  .next ({ s with stalled := s.stalled.filter (fun e => e != Event.flagAdd job site) }.addFlag job site)

end Sys2Proof.Machine
end

