-- ==== Sys2Proof/Machine/Trap.lean ====
section
/-! DEFINITION. Traps of a sequencer at a block boundary: entry at T, the stop at S or M, and what S and M do
(R347 to R350). -/

namespace Sys2Proof.Machine

/-- The cause that a boundary takes: one that found the queue full, a block's cause, or at PRIV 0 the oldest one
(R348). The flag marks the first of these. -/
def Seq.nextTrap (q : Seq) : Option (TrapRec × Bool) :=
  match q.hold.spill, q.pending with
  | t :: _, _ => some (t, true)
  | [], t :: _ => if t.kind = .block ∨ !q.csrs.priv then some (t, false) else none
  | [], [] => none

/-- The sequencer stands at a block boundary and is free to take a trap. -/
def Seq.atBoundary (q : Seq) : Bool :=
  q.block.isNone && q.hold.atS.isNone && q.hold.launch.isNone

/-- Where the trap that a region's boundary takes goes: 0 T, 1 S, 2 M. -/
def State.nextDest (s : State) (r : Nat) (t : TrapRec × Bool) : Nat :=
  if t.2 then max 1 (s.trapDest r t.1) else s.trapDest r t.1

/-- The waiting cause has been taken. -/
def Seq.dropTrap (q : Seq) (spilled : Bool) : Seq :=
  if spilled then { q with hold := { q.hold with spill := q.hold.spill.drop 1 } } else { q with pending := q.pending.drop 1 }

def execTrapEntry (r : Nat) (s : State) : Answer :=
  let q := (s.reg r).seq
  match q.nextTrap with
  | some t =>
    if q.atBoundary && s.nextDest r t == 0 then
      .next (s.updSeq r (fun q => (q.dropTrap t.2).enterTrap t.1 (q.resumeAt t.1)))
    else .next s
  | none => .next s

/-- A trap at S or M: the sequencer stops at its boundary and the region freezes with source 8; at PRIV 0 the
record stands in the trap registers (R350). -/
def execTrapAtS (r : Nat) (s : State) : Answer :=
  let q := (s.reg r).seq
  match q.nextTrap with
  | some t =>
    let dest := s.nextDest r t
    if q.atBoundary && decide (0 < dest) then
      let rec_ : TrapRec := { t.1 with blk := q.resumeAt t.1 }
      let (s, told) := s.tellS r rec_ dest
      .next (s.updSeq r (fun q =>
        let q := q.dropTrap t.2
        { q with
          csrs := if q.csrs.priv then q.csrs else q.csrs.record rec_ rec_.blk
          hold := { q.hold with
            atS := some (rec_, dest == 2)
            atSPriv := q.csrs.priv
            told := told
            roundTrap := q.hold.roundTrap || rec_.kind == .round } }))
    else .next s
  | none => .next s

/-- Resume: the sequencer fetches TRAPBLK with PRIV as it stood (R350). -/
def execTrapResume (r : Nat) (s : State) : Answer :=
  match (s.reg r).seq.hold.atS with
  | some (t, _) =>
    if s.sup.activeDie.isSome then
      .next ((s.note (.trap r)).updSeq r (fun q =>
        { q with
          pc := (if q.hold.atSPriv then t.blk else q.csrs.trapblk).setWidth 64
          hold := { q.hold with
            atS := none
            roundTrap := q.hold.roundTrap && (t.kind != .round || q.hold.atSPriv) } }))
    else .next s
  | none => .next s

/-- Forward: when PRIV was 0, the trap is entered at T (R350). -/
def execTrapForward (r : Nat) (s : State) : Answer :=
  match (s.reg r).seq.hold.atS with
  | some (t, _) =>
    if s.sup.activeDie.isSome && !(s.reg r).seq.hold.atSPriv then
      .next ((s.note (.trap r)).updSeq r (fun q =>
        { q.enterTrap t q.csrs.trapblk with hold := { (q.enterTrap t q.csrs.trapblk).hold with atS := none } }))
    else .next s
  | none => .next s

end Sys2Proof.Machine
end

