-- ==== Sys2Proof/Machine/Image.lean ====
section
/-! DEFINITION. Configuration images (R32 to R48): the fields of the supervisor copy, and the planes that a fill
takes from it. -/

namespace Sys2Proof.Machine

/-! ### Fields of the copy -/

/-- `n` bytes from an offset, little-endian (R3). -/
def Image.nat (m : Image) (off n : Nat) : Nat := leNat ((upTo n).map (fun i => m.copy.getD (off + i) 0#8))

/-- A doubleword of the copy. -/
def Image.dw (m : Image) (off : Nat) : Nat := m.nat off 8

/-- The deckle word (R34). -/
def Image.deckle (m : Image) : Nat := m.dw 0x10
def Image.rows (m : Image) : Nat := bits m.deckle 60 4 + 1
def Image.cols (m : Image) : Nat := bits m.deckle 56 4 + 1
def Image.rtype (m : Image) : Nat := bits m.deckle 54 2
def Image.ii (m : Image) : Nat := bits m.deckle 48 6
/-- FOLD: the fold factor minus one. -/
def Image.fold (m : Image) : Nat := bits m.deckle 44 4
def Image.nkern (m : Image) : Nat := bits m.deckle 24 8
def Image.nbench (m : Image) : Nat := bits (m.dw 8) 32 9
def Image.length (m : Image) : Nat := bits (m.dw 8) 0 32
def Image.entry (m : Image) : Nat := bits (m.dw 0x18) 0 57

/-- Count and offset of a section by the offset of its header field (R33). -/
def Image.sec (m : Image) (field : Nat) : Nat × Nat := (bits (m.dw field) 32 32, bits (m.dw field) 0 32)

/-- The entries of a section with their offsets. -/
def Image.entries (m : Image) (field size : Nat) : List Nat :=
  (upTo (m.sec field).1).map (fun i => (m.sec field).2 + size * i)

/-- The offset of a bench record (R36). -/
def Image.recOff (m : Image) (ctx b : Nat) : Nat := bits (m.dw 0x20) 0 32 + 24576 * (ctx * m.nbench + b)

/-- The offset of an element record. -/
def Image.elemOff (m : Image) (ctx b e : Nat) : Nat := m.recOff ctx b + 0x1000 + 0x500 * e

/-- Contexts of the image. -/
def Image.contexts (m : Image) : Nat := m.fold + 1

/-! ### Tables -/

/-- A channel table entry (R40). -/
def chanOf (x : Nat) : Chan :=
  ⟨bits x 29 3, bit x 28, bits x 24 4, bits x 20 4, bits x 12 8, bits x 10 2, bits x 0 8⟩

/-- A range table entry (R42). -/
def Image.range (m : Image) (off : Nat) : Range :=
  ⟨bits (m.dw off) 0 57, bits (m.dw (off + 8)) 0 57, bits (m.dw (off + 16)) 0 3, bit (m.dw (off + 16)) 3⟩

/-- A sheet-map entry (R43). -/
def sheetOf (x : Nat) : SheetMap :=
  ⟨(Fmt.ofCode (bits x 56 4)).getD .raw, bits x 44 12, bits x 31 13, bits x 29 2, bit x 28, bits x 26 2, bits x 24 2⟩

/-- A V word of the schedule table. -/
def Image.schedWord (m : Image) (rec_ i : Nat) : BitVec 40 := BitVec.ofNat 40 (m.dw (rec_ + 0x240 + 8 * i))

/-- The three operation words of a wheel entry with their KSELs (R38). -/
def Image.wheelSlots (m : Image) (erec ph : Nat) : List (BitVec 40 × Nat) :=
  let w := m.nat (erec + 0x100 + 16 * ph) 16
  (upTo 3).map (fun k => (BitVec.ofNat 40 (bits w (40 * k) 40), bits w (120 + 2 * k) 2))

/-- KLIST of an element record (R37). -/
def Image.klist (m : Image) (erec : Nat) : List Nat := (upTo 4).map (fun k => bits (m.dw erec) (32 + 8 * k) 8)

/-- NRANGE, NSHEET and NSCHED of a bench record. -/
def Image.counts (m : Image) (rec_ : Nat) : Nat × Nat × Nat :=
  (bits (m.dw rec_) 43 5, bits (m.dw rec_) 35 8, bits (m.dw rec_) 28 7)

/-- A slot of a wheel entry: nothing when its KSEL selects an idle kernel (R38). -/
def Image.slot (m : Image) (erec : Nat) (w : BitVec 40 × Nat) : Option Slot :=
  if (m.klist erec).getD w.2 255 = 255 then none else ((decodeE w.1).toOption).map (fun i => ⟨i, w.2⟩)

/-- The bundle of a phase. -/
def Image.bundle (m : Image) (erec ph : Nat) : Bundle :=
  let ws := m.wheelSlots erec ph
  let at_ (k : Nat) : Option Slot := m.slot erec (ws.getD k (0#40, 0))
  ⟨at_ 0, at_ 1, at_ 2, false⟩

/-- The element record (R37). -/
def Image.elemRec (m : Image) (erec : Nat) : ElemRec :=
  { klist := m.klist erec
    nrb := bits (m.dw erec) 30 2
    nlb := bits (m.dw erec) 27 3
    minit := (upTo 7).map (fun k => BitVec.ofNat 16 (m.nat (erec + 8 + 2 * k) 2))
    chans := (upTo 32).filterMap (fun n =>
      let c := chanOf (m.nat (erec + 0x20 + 4 * n) 4)
      if c.kind = 0 then none else some (n, c))
    scales := (upTo 16).filterMap (fun n =>
      let v := m.nat (erec + 0xA0 + 4 * n) 1
      if v = 0 then none else some (n, BitVec.ofNat 8 v))
    wheel := (upTo (m.ii + 1)).map (fun ph => (ph, m.bundle erec ph)) }

/-- ACT of an element record. -/
def Image.act (m : Image) (erec : Nat) : Bool := bit (m.dw erec) 26

/-- What a fill of a bench's plane with a context takes from the copy (R36, R53). -/
def Image.plane (m : Image) (ctx b : Nat) : BenchPlane :=
  let r := m.recOff ctx b
  let w := m.dw r
  let (nr, nsh, nsc) := m.counts r
  { sper := bits w 50 6
    ven := bit w 49
    men := bit w 48
    ranges := (upTo nr).map (fun i => m.range (r + 0x40 + 32 * i))
    sched := (upTo nsc).map (fun i => ((decodeV (m.schedWord r i)).toOption).getD (.vnop 0))
    partParity := []
    sheets := (upTo nsh).filterMap (fun i =>
      let x := m.dw (r + 0x440 + 8 * i)
      if bit x 63 then some (i, sheetOf x) else none)
    mcast := (upTo 64).filterMap (fun g =>
      let x := m.nat (r + 0x840 + 16 * g) 16
      if x = 0 then none else some (g, x))
    elems := (upTo 16).filterMap (fun e =>
      if m.act (m.elemOff ctx b e) then some (e, m.elemRec (m.elemOff ctx b e)) else none) }

/-- The first 64-byte unit of a bench record that carries an uncorrectable error (R55). -/
def Image.badUnit (m : Image) (ctx b : Nat) : Option Nat :=
  List.find? (fun u => decide (m.recOff ctx b ≤ u ∧ u < m.recOff ctx b + 24576)) m.bad

/-! ### What an image needs (R48) -/

/-- The planes of an image: context, bench and plane. -/
def Image.planes (m : Image) : List (Nat × Nat × BenchPlane) :=
  (upTo m.contexts).flatMap (fun c => (upTo m.nbench).map (fun b => (c, b, m.plane c b)))

/-- The logical groups an image names: by schedule words, multicast entries and grants (R44, R47). -/
def Image.groups (m : Image) : List Nat :=
  (m.planes.flatMap (fun p => p.2.2.sched.flatMap wordGroups ++ p.2.2.mcast.map Prod.fst)
    ++ (m.entries 0x40 32).filterMap (fun o =>
      let x := m.dw o
      if bits x 39 2 = 1 then some (bits x 25 6) else none)).eraseDups

/-- The segments of the die that a region at a bench row and column needs, chained ones counted past the end of a
row as 64 and more (R74, R263); `bf16` counts only sheets of BF16 and FP16 (class 2). -/
def planeSegments (rows cols : Nat) (planes : List (Nat × Nat × BenchPlane)) (bf16 : Bool) (row col : Nat) : List Nat :=
  (planes.flatMap (fun p =>
    if !p.2.2.ven || decide (rows * cols ≤ p.2.1) then []
    else
      let s := segmentOf ((row + p.2.1 / cols) * 16 + col + p.2.1 % cols)
      let of (m : SheetMap) : List Nat :=
        (upTo (m.chain + 1)).map (fun k => if s % 4 + k < 4 then s + k else 64 + s / 4 * 4 + (s % 4 + k) % 4)
      let sheets := p.2.2.sheets.map Prod.snd
      if bf16 then (sheets.filter (fun m => m.fmt == .f16 || m.fmt == .bf16)).flatMap of
      else s :: sheets.flatMap of)).eraseDups

/-- The positions of a rectangle on a die: row and column of its north-west bench. -/
def positions (rows cols : Nat) : List (Nat × Nat) :=
  (upTo (17 - rows)).flatMap (fun r => (upTo (17 - cols)).map (fun c => (r, c)))

/-- The least number of segments over the positions (R48). -/
def Image.leastSegments (m : Image) (bf16 : Bool) : Nat :=
  let ps := m.planes
  (positions m.rows m.cols).foldl (fun n p =>
    min n (planeSegments m.rows m.cols ps bf16 p.1 p.2).length) 256

/-- The declared amount of a class (R48). -/
def Image.declared (m : Image) (cls : Nat) : Nat :=
  ((List.find? (fun o => bits (m.dw o) 56 8 == cls) (m.entries 0x48 8)).map (fun o => bits (m.dw o) 0 32)).getD 0

/-- The requirement of a class with scope die or sequencer (R48). -/
def Image.requirement (m : Image) (cls : Nat) : Nat :=
  max (m.declared cls) (match cls with
    | 0 => m.nbench
    | 1 => m.leastSegments false
    | 2 => m.leastSegments true
    | 3 => m.groups.foldl (fun n g => max n (g + 1)) 0
    | _ => 0)

/-- The requirement of class 5 or 6 on one element of a bench, over the contexts. -/
def Image.elemNeed (m : Image) (cls b e : Nat) : Nat :=
  (upTo m.contexts).foldl (fun n c =>
    let o := m.elemOff c b e
    if m.act o then max n (max (m.declared cls) ((if cls = 5 then bits (m.dw o) 27 3 else bits (m.dw o) 30 2) + 1))
    else n) 0

end Sys2Proof.Machine
end

