-- ==== Sys2Proof/Machine/Check.lean ====
section
/-! DEFINITION. The loader's checks 1 to 14 (R33 to R51, R107, R125, R128, R167, R197, R262 to R266). -/

namespace Sys2Proof.Machine

/-- A failed check: TRAPINFO1 to TRAPINFO3 (R49). -/
abbrev Fail := Nat × Nat × Nat

/-- An image as a check sees it: region's index among the graph's children, what the candidate asks of the deckle
word (rows, columns, FOLD), the region's kernels, and the job whose memory it uses. -/
structure LoadImg where
  idx : Nat
  job : Nat
  rows : Nat
  cols : Nat
  fold : Nat
  kernels : Nat
  img : Image
  deriving DecidableEq, Repr

/-- The first item that is bad, by its offset. -/
def firstBad (l : List (Nat × Bool)) : Option Fail := (List.find? Prod.snd l).map (fun p => (p.1, 0, 0))

/-- The first failing pair of items: for each item the earlier one it collides with. -/
def firstPair {α : Type} (bad : α → α → Bool) (off : α → Nat) : List α → List α → Option Fail
  | _, [] => none
  | seen, x :: xs =>
    match List.find? (fun y => bad y x) seen with
    | some y => some (off x, off y, 0)
    | none => firstPair bad off (seen ++ [x]) xs

/-! ### Checks 1 to 4 -/

def check1 (m : Image) : Option Fail :=
  firstBad [(0, m.nat 0 4 != 0x49435153), (0, bits (m.dw 0) 32 16 != 1), (8, m.length % 64 != 0 || decide (m.length < 256) || !m.mapped)]

/-- One byte into a CRC-32C. -/
def crcByte (c : Nat) (b : Nat) : Nat :=
  (upTo 8).foldl (fun c _ => if c % 2 = 1 then (c / 2) ^^^ 0x82F63B78 else c / 2) (c ^^^ b)

/-- CRC-32C of the image with the CRC field as zero (R33). -/
def Image.crc (m : Image) : Nat :=
  ((upTo m.len).foldl (fun c i =>
    crcByte c (if 0x50 ≤ i ∧ i < 0x54 then 0 else (m.copy.getD i 0#8).toNat)) (2 ^ 32 - 1)) ^^^ (2 ^ 32 - 1)

def check2 (m : Image) : Option Fail :=
  if m.crc = m.nat 0x50 4 then none else some (0x50, 0, m.crc)

/-- The sections of an image: header field, entry size, greatest count (R33). -/
def sections : List (Nat × Nat × Nat) :=
  [(0x28, 8, 255), (0x30, 16, 65535), (0x38, 4, 2 ^ 20), (0x40, 32, 64), (0x48, 8, 8)]

/-- The bytes of the sections: header field, offset and length; the bench records first. -/
def Image.spans (m : Image) : List (Nat × Nat × Nat) :=
  (0x20, bits (m.dw 0x20) 0 32, 24576 * m.contexts * m.nbench)
    :: sections.map (fun t => (t.1, (m.sec t.1).2, t.2.1 * (m.sec t.1).1))

/-- A section's own fault: its count, its offset without entries, its alignment or its place. -/
def Image.spanBad (m : Image) (p : Nat × Nat × Nat) : Bool :=
  let unfit := (List.find? (fun t => t.1 == p.1) sections).any (fun t =>
    decide (t.2.2 < (m.sec p.1).1 ∨ ((m.sec p.1).1 = 0 ∧ (m.sec p.1).2 ≠ 0)))
  unfit || decide (p.2.2 ≠ 0 ∧ (p.2.1 % 64 ≠ 0 ∨ p.2.1 < 0x100 ∨ m.len < p.2.1 + p.2.2))

/-- Check 3: the sections in the order of their header fields, each against its own limits and the earlier ones; then the
capacity classes. -/
def check3 (m : Image) : Option Fail :=
  if m.nbench = 0 ∨ 256 < m.nbench then some (0x08, 0, 0)
  else
    let meets (a b : Nat × Nat × Nat) : Bool := a.2.2 != 0 && b.2.2 != 0 && decide (a.2.1 < b.2.1 + b.2.2 ∧ b.2.1 < a.2.1 + a.2.2)
    match m.spans.zipIdx.findSome? (fun x =>
        if m.spanBad x.1 then some (x.1.1, 0, 0)
        else (List.find? (meets x.1) (m.spans.take x.2)).map (fun y => (x.1.1, y.1, 0))) with
    | some f => some f
    | none => firstPair (fun a b => bits (m.dw a) 56 8 == bits (m.dw b) 56 8) id [] (m.entries 0x48 8)

/-- The bench records: context, bench and offset. -/
def Image.recs (m : Image) : List (Nat × Nat × Nat) :=
  (upTo m.contexts).flatMap (fun c => (upTo m.nbench).map (fun b => (c, b, m.recOff c b)))

/-- The element records: context, bench, element and offset. -/
def Image.elemRecs (m : Image) : List (Nat × Nat × Nat × Nat) :=
  m.recs.flatMap (fun r => (upTo 16).map (fun e => (r.1, r.2.1, e, m.elemOff r.1 r.2.1 e)))

def check4 (l : LoadImg) : Option Fail :=
  let m := l.img
  firstBad ([(0x10, m.rows != l.rows || m.cols != l.cols || m.fold != l.fold || m.nkern != l.kernels),
             (0x08, m.nbench != m.rows * m.cols)]
    ++ m.recs.map (fun r => (r.2.2, bits (m.dw r.2.2) 60 4 != r.2.1 / m.cols || bits (m.dw r.2.2) 56 4 != r.2.1 % m.cols)))

/-! ### Checks 5 and 6: reserved fields and encodings -/

/-- Some byte of a span is not zero. -/
def Image.nonzero (m : Image) (off n : Nat) : Bool := (upTo n).any (fun i => m.copy.getD (off + i) 0#8 != 0#8)

/-- Reserved bits of the bench part (R36, R42, R43), and what MEN = 0 and VEN = 0 leave unused. DESIGN CHOICE (log 59): NRANGE
above 16, NSHEET above 128 and NSCHED above 64 fail here, where the spec gives the ranges and names no check. -/
def Image.benchReserved (m : Image) (r : Nat) : List (Nat × Bool) :=
  let (nr, nsh, nsc) := m.counts r
  let men := bit (m.dw r) 48
  let ven := bit (m.dw r) 49
  [(r, bits (m.dw r) 0 28 != 0 || decide (16 < nr ∨ 128 < nsh ∨ 64 < nsc) || (!men && nr != 0)
      || (!ven && (nsh != 0 || nsc != 0 || bits (m.dw r) 50 6 != 0))), (r + 8, m.nonzero (r + 8) 0x38)]
    ++ (upTo 16).map (fun i =>
      let o := r + 0x40 + 32 * i
      (o, if i < nr then
            bits (m.dw o) 57 7 != 0 || bits (m.dw (o + 8)) 57 7 != 0 || bits (m.dw (o + 16)) 4 60 != 0 || m.dw (o + 24) != 0
          else m.nonzero o 32))
    ++ (upTo 64).map (fun i =>
      let o := r + 0x240 + 8 * i
      (o, if i < nsc then
            bits (m.dw o) 40 24 != 0 || decodeV (m.schedWord r i) == .bad .check5
          else m.dw o != 0))
    ++ (upTo 128).map (fun i =>
      let x := m.dw (r + 0x440 + 8 * i)
      (r + 0x440 + 8 * i, if i < nsh ∧ bit x 63 then bits x 60 3 != 0 || bits x 0 24 != 0 else x != 0))
    ++ [(r + 0x840, !ven && m.nonzero (r + 0x840) 0x400), (r + 0xC40, m.nonzero (r + 0xC40) 0x3C0)]

/-- Reserved values of a channel table entry, but for its format (R40). -/
def chanReserved (x : Nat) : Bool :=
  let c := chanOf x
  if c.kind = 0 then x != 0
  else
    decide (6 ≤ c.kind) || bits x 8 2 != 0 || (c.kind != 1 && c.link != 0) || (c.out && c.buf != 0)

/-- Reserved bits of an element record (R37, R38, R41). -/
def Image.elemReserved (m : Image) (o : Nat) : List (Nat × Bool) :=
  if !m.act o then [(o, m.nonzero o 0x500)]
  else
    [(o, bits (m.dw o) 0 26 != 0 || (m.klist o).any (fun k => k != 255 && decide (m.nkern ≤ k))),
     (o + 0x10, bits (m.dw (o + 0x10)) 48 16 != 0), (o + 0x18, m.dw (o + 0x18) != 0)]
    ++ (upTo 32).map (fun n => (o + 0x20 + 4 * n, chanReserved (m.nat (o + 0x20 + 4 * n) 4)))
    ++ (upTo 16).map (fun n => (o + 0xA0 + 4 * n, m.nonzero (o + 0xA1 + 4 * n) 3))
    ++ [(o + 0xE0, m.nonzero (o + 0xE0) 0x20)]
    ++ (upTo 64).map (fun ph =>
      let w := o + 0x100 + 16 * ph
      (w, if m.ii < ph then m.nonzero w 16
          else bits (m.nat w 16) 126 2 != 0 || (m.wheelSlots o ph).any (fun t =>
            if (m.klist o).getD t.2 255 = 255 then t.1 != 0#40 else decodeE t.1 == .bad .check5)))

def check5 (m : Image) : Option Fail :=
  firstBad ([(0, bits (m.dw 0) 48 16 != 0), (8, bits (m.dw 8) 41 23 != 0),
     (0x10, bits m.deckle 54 2 == 3 || bits m.deckle 32 12 != 0 || bits m.deckle 0 24 != 0),
     (0x18, bits (m.dw 0x18) 57 7 != 0), (0x20, bits (m.dw 0x20) 32 32 != 0), (0x50, bits (m.dw 0x50) 32 32 != 0),
     (0x58, m.nonzero 0x58 0xA8)]
    ++ m.recs.flatMap (fun r => m.benchReserved r.2.2
      ++ (upTo 16).flatMap (fun e => m.elemReserved (m.elemOff r.1 r.2.1 e)))
    ++ (m.entries 0x28 8).map (fun o =>
      let x := m.dw o
      (o, decide (6 ≤ bits x 52 3) || bits x 0 32 != 0))
    ++ (m.entries 0x30 16).map (fun o => (o, bits (m.dw o) 0 38 != 0 || bits (m.dw o) 38 2 == 3))
    ++ (m.entries 0x40 32).map (fun o =>
      let x := m.dw o
      (o, decide (2 ≤ bits x 39 2) || (bit x 41 && bits x 42 22 != 0) || bits x 0 25 != 0
          || (bits x 39 2 == 1 && bits x 31 6 != 0) || bits (m.dw (o + 8)) 32 32 == 0
          || m.dw (o + 16) % 8 != 0 || m.dw (o + 24) != 0))
    ++ (m.entries 0x48 8).map (fun o => (o, bits (m.dw o) 32 24 != 0 || decide (8 ≤ bits (m.dw o) 56 8))))

def check6 (m : Image) : Option Fail :=
  firstBad (m.recs.flatMap (fun r =>
      let (_, nsh, nsc) := m.counts r.2.2
      (upTo nsc).map (fun i => (r.2.2 + 0x240 + 8 * i, decodeV (m.schedWord r.2.2 i) == .bad .check6))
      ++ (upTo nsh).map (fun i =>
        let x := m.dw (r.2.2 + 0x440 + 8 * i)
        (r.2.2 + 0x440 + 8 * i, bit x 63 && bits x 56 4 == 15))
      ++ (upTo 16).flatMap (fun e =>
        let o := m.elemOff r.1 r.2.1 e
        if !m.act o then []
        else
          (upTo 32).map (fun n => (o + 0x20 + 4 * n, bits (m.nat (o + 0x20 + 4 * n) 4) 24 4 == 15))
          ++ (upTo (m.ii + 1)).map (fun ph => (o + 0x100 + 16 * ph, (m.wheelSlots o ph).any (fun t =>
            (m.klist o).getD t.2 255 != 255 && decodeE t.1 == .bad .check6)))))
    ++ (m.entries 0x28 8).map (fun o => (o, bits (m.dw o) 32 4 == 15)))

/-! ### Checks 7 and 8: slots, types and banks -/

/-- The slots that accept an operation: A, B and C (R124). -/
def opSlots (op : Nat) : List Nat :=
  if [0x03, 0x08, 0x09, 0x0A, 0x0B, 0x84, 0x85, 0x86, 0x87, 0xE4, 0xE5, 0xE6].contains op then [1]
  else if op ≤ 0x83 then [0, 1]
  else if [0x88, 0x89, 0x8A, 0xA9].contains op then [0, 1, 2]
  else [2]

/-- The operations of an image: context, bench, element, phase, slot, KSEL, offset of the wheel entry and operation. -/
structure Placed where
  ctx : Nat
  bench : Nat
  elem : Nat
  ph : Nat
  slot : Nat
  ksel : Nat
  off : Nat
  op : Instr
  deriving DecidableEq, Repr

def Image.ops (m : Image) : List Placed :=
  m.elemRecs.flatMap (fun r =>
    if !m.act r.2.2.2 then []
    else (upTo (m.ii + 1)).flatMap (fun ph =>
      ((m.bundle r.2.2.2 ph).slots).map (fun s =>
        ⟨r.1, r.2.1, r.2.2.1, ph, s.1, s.2.ksel, r.2.2.2 + 0x100 + 16 * ph, s.2.op⟩)))

def check7 (m : Image) : Option Fail :=
  firstBad (m.ops.map (fun p => (p.off, !(opSlots (opByte p.op)).contains p.slot)))

/-- The region types an operation may stand in: 0 address generator, 1 pipeline, 2 reducer (R35). -/
def opTypes (op : Nat) : List Nat :=
  if 0xC0 ≤ op ∧ op ≤ 0xC4 then [0, 2]
  else if op = 0xC6 ∨ op = 0xC7 then [0, 2]
  else if 0xC5 ≤ op ∧ op ≤ 0xCB then [0]
  else if op = 0xE2 then [0]
  else if op = 0xE4 ∨ op = 0xE5 then [1, 2]
  else [0, 1, 2]

/-- An operation of the memory port or the owner (R35). -/
def portOp (op : Nat) : Bool := decide (0xC5 ≤ op ∧ op ≤ 0xCB) || op == 0xE2

/-- The registers an operation names: sources, destinations and the register of a third source (R38). -/
def opRegs (i : Instr) : List Nat :=
  let extra := match i with
    | .mark _ a b => [a, b]
    | .mergeC _ a b _ => [a, b]
    | .vote _ a b _ => [a, b]
    | .rmw _ _ d a b => [a, b] ++ d.toList
    | .cnt _ d _ _ _ => [d]
    | _ => []
  (opSrcs i ++ opDsts i ++ extra).filterMap (fun o => match o with | .v n => some n.val | .ch _ => none)

def check8 (m : Image) : Option Fail :=
  let bad := firstBad (m.recs.flatMap (fun r =>
      (r.2.2, (m.rtype == 1 && (bit (m.dw r.2.2) 48 || (m.counts r.2.2).1 != 0)) || (m.rtype == 2 && bit (m.dw r.2.2) 49))
      :: (upTo 16).flatMap (fun e =>
        let o := m.elemOff r.1 r.2.1 e
        if !m.act o then []
        else (m.elemRec o).chans.map (fun c =>
          (o + 0x20 + 4 * c.1, (m.rtype == 1 && c.2.kind == 3) || (m.rtype == 2 && c.2.kind == 4)))))
    ++ m.ops.map (fun p =>
      let op := opByte p.op
      let nrb := bits (m.dw (m.elemOff p.ctx p.bench p.elem)) 30 2
      (p.off, !(opTypes op).contains m.rtype || (portOp op && p.elem != 0)
        || (opRegs p.op).any (fun n => decide (8 * nrb + 8 ≤ n)))))
  match bad with
  | some f => some f
  | none => firstPair (fun p q => p.ctx == q.ctx && p.bench == q.bench && p.elem == q.elem) Placed.off []
      (m.ops.filter (fun p => opByte p.op == 0xE2))

/-! ### Check 9: bindings (R40, R45, R107, R167, R197) -/

/-- The channel operands of an operation: inputs and outputs. -/
def opChans (i : Instr) : List Nat × List Nat :=
  let nums (l : List Opnd) : List Nat := l.filterMap (fun o => match o with | .ch n => some n.val | .v _ => none)
  match i with
  | .mark d a b => (nums [a, b], nums [d])
  | .mergeC d a b c => (nums [a, b, .ch c], nums [d])
  | .vote d a b c => (nums [a, b, .ch c], nums [d])
  | .rmw _ _ ret a b => (nums [a, b], nums ret.toList)
  | i => (nums (opSrcs i), nums (opDsts i))

/-- The format codes accepted on input and output channels (R167, R193, R241, R253 to R255). -/
def opFmtOk (i : Instr) (out : Bool) (code : Nat) : Bool :=
  let op := opByte i
  match i with
  | .cvt sf df _ _ _ _ _ => if out then code == df.code else code == sf.code
  | .qnt df _ _ _ _ _ _ _ => if out then code == df.code else code == 0
  | .dqnt sf _ _ _ _ _ => if out then code == 0 else code == sf.code
  | .csacc .. => code == 13
  | .csnorm int _ _ _ _ => if out then code == (if int then 5 else 0) || code == 14 else code == 13
  | .red _ t _ _ _ _ => code == 14 || code == (match t with | .f => 0 | .i => 5 | .is => 5 | .ns => 6 | .cs => 13)
  | .agen .. | .agwin .. => code == 6 || code == 14
  | .sphdr .. => code == 6 || (out && code == 14)
  | .sptree .. => code == 14 || (out && code == 6)
  | .fcmp _ t .. => code == 14 || (t == .f && code == 0)
  | .outl .. => if out then code == 5 || code == 6 || code == 14 else code == 11
  | _ =>
    if op ≤ 0x0C then code == 0 || code == 14
    else if 0x40 ≤ op ∧ op ≤ 0x48 then code == 5 || code == 6 || code == 14
    else if 0x84 ≤ op ∧ op ≤ 0x87 ∧ !out then code == 0 || code == 5 || code == 6 || code == 14
    else code != 15

/-- Operations whose output carries the code of the input, or 0xE at either end (R167). -/
def sameFmt (op : Nat) : Bool := (decide (0x84 ≤ op ∧ op ≤ 0x8A) || decide (0xA0 ≤ op ∧ op ≤ 0xA9))

/-- The inputs whose payload the output takes: a control value, an index vector and a supply of punctuation are none. -/
def opDataIns (i : Instr) : List Nat :=
  let nums (l : List Opnd) : List Nat := l.filterMap (fun o => match o with | .ch n => some n.val | .v _ => none)
  match i with
  | .steer _ _ a _ => nums [a]
  | .gate _ _ a _ => nums [a]
  | .mark _ a _ => nums [a]
  | .mergeC _ a b _ => nums [a, b]
  | .join pick _ a b => nums [if pick then b else a]
  | .shuf .perm _ a _ _ => nums [a]
  | i => (opChans i).1

/-- Operands of the wrong sort: a register where a channel has to stand, or the other way (R187, R197, R246, R249, R252). -/
def opShapeBad (i : Instr) : Bool :=
  let ch (o : Opnd) : Bool := match o with | .ch _ => true | .v _ => false
  match i with
  | .steer d _ _ _ => !ch d
  | .mergeT _ a b => !ch a || !ch b
  | .mergeC _ a b _ => !ch a || !ch b
  | .join _ _ a b => !ch a || !ch b
  | .fork d _ _ => !ch d
  | .gate _ d _ _ => !ch d
  | .mark d _ b => !ch d || !ch b
  | .ctltok d _ => !ch d
  | .cnt _ d _ _ _ => ch d
  | .fma d _ _ _ => ch d
  | .eFshr d _ _ none _ | .eFshl d _ _ none _ => ch d
  | .bdep d _ _ _ => ch d
  | .mgath _ _ _ _ _ b _ => ch b
  | .mscat _ _ _ _ d _ _ _ => ch d
  | .mprobe _ _ _ _ b _ => ch b
  | .rmw _ _ ret a b => !ch a || !(ch b || isNoOpnd b) || ret.any (fun o => !ch o)
  | .csacc _ _ a b => !ch a || !(ch b || isNoOpnd b)
  | .vote d a b _ => !ch d || !ch a || !ch b
  | _ => false

/-- The kinds that a channel operand may have (R197, R249). -/
def opKindBad (rec_ : ElemRec) (i : Instr) : Bool :=
  let kind (o : Opnd) : Nat := match o with
    | .ch n => ((rec_.chans.find? n.val).map Chan.kind).getD 0
    | .v _ => 0
  match i with
  | .steer d f _ _ => kind d != 2 || kind (.ch f) != 2
  | .gate _ d _ _ => kind d != 2
  | .mergeT _ a b => kind a != 2 || kind b != 2
  | .mergeC _ a b c => kind a != 2 || kind b != 2 || (kind (.ch c) != 2 && kind (.ch c) != 5)
  | .ctltok d _ => kind d != 2 && kind d != 5
  | .rmw _ _ ret a b => kind a != 2 || (!isNoOpnd b && kind b != 2) || ret.any (fun o => kind o != 2)
  | _ => false

/-- The operands that an operation peeks (R197). -/
def opPeeks : Instr → List Nat
  | .mark _ _ (.ch b) => [b.val]
  | .mergeT _ (.ch a) (.ch b) => [a.val, b.val]
  | .mergeC _ (.ch a) (.ch b) c => [a.val, b.val, c.val]
  | _ => []

/-- The bindings of one operation fail. DESIGN CHOICE (log 59): an output whose format is that of the data inputs may carry any
code but 0xF when all of these are registers. -/
def opBindBad (rec_ : ElemRec) (bundle : Bundle) (slot : Nat) (i : Instr) : Bool :=
  let (ins, outs) := opChans i
  let fmtOf (n : Nat) : Nat := ((rec_.chans.find? n).map Chan.fmt).getD 15
  let unbound (n : Nat) (out : Bool) : Bool :=
    match rec_.chans.find? n with
    | some c => c.out != out || !opFmtOk i out c.fmt
    | none => true
  ins.any (unbound · false) || outs.any (unbound · true) || outs.length != outs.eraseDups.length
    || opShapeBad i || opKindBad rec_ i
    || (sameFmt (opByte i) && (opDataIns i).any (fun a => outs.any (fun o =>
          fmtOf a != fmtOf o && (decide (opByte i ≤ 0x87) || (fmtOf a != 14 && fmtOf o != 14)))))
    || (match i with | .vote .. => ins.any (fun a => ins.any (fun b => fmtOf a != fmtOf b)) | _ => false)
    || (opPeeks i).any (fun n => bundle.slots.any (fun u => u.1 != slot &&
          ((opChans u.2.op).1.contains n || (opChans u.2.op).2.contains n)))

/-- The entry that a kind 1 entry has to match (R40). -/
def linkBad (m : Image) (ctx b e n : Nat) (c : Chan) : Bool :=
  let row := b / m.cols * 4 + e / 4
  let col := b % m.cols * 4 + e % 4
  let nb : Option (Nat × Nat) := match c.link with
    | 0 => if row = 0 then none else some (row - 1, col)
    | 1 => if col + 1 = 4 * m.cols then none else some (row, col + 1)
    | 2 => if row + 1 = 4 * m.rows then none else some (row + 1, col)
    | _ => if col = 0 then none else some (row, col - 1)
  match nb with
  | none => true
  | some (r, k) =>
    let o := m.elemOff ctx (r / 4 * m.cols + k / 4) (r % 4 * 4 + k % 4)
    let d := chanOf (m.nat (o + 0x20 + 4 * (c.peer % 32)) 4)
    !(d.kind == 1 && d.out != c.out && d.link == (c.link + 2) % 4 && d.peer == n && d.fmt == c.fmt)

/-- Entries of elastic channels an image declares: offset, index, consumer, depth in entries, in-flight, peer region
and format (R45). -/
structure ChanDecl where
  off : Nat
  idx : Nat
  cons : Bool
  depth : Nat
  infl : Nat
  peer : Nat
  fmt : Nat
  deriving DecidableEq, Repr

def Image.chanDecls (m : Image) : List ChanDecl :=
  (m.entries 0x28 8).map (fun o =>
    let x := m.dw o
    ⟨o, bits x 56 8, bit x 55, 4 * 2 ^ bits x 52 3, bits x 44 8, bits x 36 8, bits x 32 4⟩)

/-- The kind 2 entries of an image: context, bench, element, channel, entry. -/
def Image.elastics (m : Image) : List (Nat × Nat × Nat × Nat × Chan) :=
  m.elemRecs.flatMap (fun r =>
    if !m.act r.2.2.2 then []
    else (m.elemRec r.2.2.2).chans.filterMap (fun c =>
      if c.2.kind = 2 then some (r.1, r.2.1, r.2.2.1, c.1, c.2) else none))

/-- A declaration of a channel against its binding and the graph's other images (R45): the second item is the other
end's declaration where the two ends are compared. -/
def declBad (all : List LoadImg) (l : LoadImg) (d : ChanDecl) : Option Fail :=
  let ends := all.flatMap (fun k => (k.img.chanDecls.filter (fun c => c.idx == d.idx)).map (fun c => (k.idx, c)))
  let others := ends.filter (fun c => c.1 != l.idx)
  if d.idx = 255 ∨ 128 < d.infl ∨ ends.length ≠ 2 ∨ others.any (fun c => c.2.cons == d.cons) then some (d.off, 0, 0)
  else
    match List.find? (fun c : Nat × ChanDecl => c.1 == l.idx && decide (c.2.off ≠ d.off) || c.1 != l.idx
        && (c.1 != d.peer || c.2.depth != d.depth || c.2.infl != d.infl || c.2.fmt != d.fmt)) ends with
    | some c => some (d.off, c.2.off, 0)
    | none =>
      if (l.img.elastics.filter (fun t => t.2.2.2.2.peer == d.idx && t.2.2.2.2.out != d.cons)).length ≠ 1 then some (d.off, 0, 0)
      else none

/-- Replying streams of a bench: those that an MLD or MGATH names (R243). -/
def replyStream : Instr → Option Nat
  | .mld s .. => some s.val
  | .mgath s .. => some s.val
  | _ => none

/-- A bench binds a replying stream twice or not at all (R243). -/
def Image.streamBad (m : Image) (ctx b : Nat) : Bool :=
  let recs := (upTo 16).flatMap (fun e =>
    let o := m.elemOff ctx b e
    if m.act o then (m.elemRec o).chans.map Prod.snd else [])
  (m.ops.filterMap (fun p => if p.ctx = ctx ∧ p.bench = b then replyStream p.op else none)).any (fun n =>
    (recs.filter (fun c => c.kind == 3 && !c.out && c.peer == n)).length != 1)

/-- Exits of an image: the RTAG, and its exit number, bench, element, kernel and channel. -/
def Image.exits (m : Image) : List (Placed × Nat × Nat × Nat × Nat × Opnd) :=
  m.ops.filterMap (fun p => match p.op with
    | .rtag e _ a => some (p, e.val, p.bench, p.elem, (m.klist (m.elemOff p.ctx p.bench p.elem)).getD p.ksel 255, a)
    | _ => none)

/-- A PEER out of its kind's range (R40). -/
def peerBad (c : Chan) : Bool :=
  match c.kind with
  | 1 => decide (32 ≤ c.peer)
  | 2 => decide (255 ≤ c.peer)
  | 3 => decide (16 ≤ c.peer)
  | 4 => decide (128 ≤ c.peer)
  | 5 => decide (8 ≤ c.peer)
  | _ => false

/-- Check 9. An exit number belongs to one channel of one kernel of one element, whose RTAGs may name it at several
phases (R257, R391). -/
def check9 (all : List LoadImg) (l : LoadImg) : Option Fail :=
  let m := l.img
  let bad := firstBad (m.elemRecs.flatMap (fun r =>
      let o := r.2.2.2
      if !m.act o then []
      else
        let rec_ := m.elemRec o
        (o + 0x20, decide (256 < (rec_.chans.map (fun c => c.2.buf)).foldl (· + ·) 0))
        :: rec_.chans.map (fun c => (o + 0x20 + 4 * c.1,
            (!c.2.out && c.2.buf == 0) || peerBad c.2 || (c.2.kind == 4 && r.2.2.1 != 15)
            || (c.2.kind == 4 && c.2.out && c.2.fmt != 12 && c.2.fmt != 14)
            || (c.2.kind == 1 && linkBad m r.1 r.2.1 r.2.2.1 c.1 c.2)
            || (c.2.kind == 2 && !m.chanDecls.any (fun d => d.idx == c.2.peer && d.cons != c.2.out))
            || (c.2.kind == 2 && !c.2.out
                && m.chanDecls.any (fun d => d.idx == c.2.peer && d.cons && decide (d.depth < c.2.buf)))))
        ++ (upTo (m.ii + 1)).map (fun ph => (o + 0x100 + 16 * ph,
            (m.bundle o ph).slots.any (fun u => opBindBad rec_ (m.bundle o ph) u.1 u.2.op))))
    ++ m.recs.map (fun r => (r.2.2, m.streamBad r.1 r.2.1)))
  match bad with
  | some f => some f
  | none =>
    match firstPair (fun p q => p.2.1 == q.2.1 && p.2.2 != q.2.2) (fun x => x.1.off) [] m.exits with
    | some f => some f
    | none => m.chanDecls.findSome? (declBad all l)

/-! ### Checks 10 and 11: sheets and schedules (R43, R44, R262 to R266) -/

/-- Two entries name overlapping lanes of a segment and are not the same sheet. -/
def sheetClash (a b : SheetMap) : Bool :=
  decide (a.first < b.first + b.count ∧ b.first < a.first + a.count) && a != b

/-- Two indexes of a bench's map denote one sheet: equal, or with equal entries (R43). -/
def BenchPlane.oneSheet (p : BenchPlane) (i j : Nat) : Bool :=
  i == j || (match p.sheets.find? i, p.sheets.find? j with
    | some a, some b => a == b
    | _, _ => false)

/-- BALT values that the schedule words of a bench give a sheet. -/
def BenchPlane.balts (p : BenchPlane) (i : Nat) : List Bool :=
  (i :: (p.sheets.map Prod.fst).filter (fun j => j != i && p.oneSheet i j)).flatMap (fun j => p.sched.filterMap (wordBalt j))

/-- A sparse sheet's D is no multiple of 16 M_o (R263). -/
def sparseBad (p : BenchPlane) (i : Nat) (m : SheetMap) : Bool :=
  let bs := p.balts i
  m.outer != 0 && (if bs.isEmpty then [false] else bs).any (fun b => m.dense b % (16 * (outerNM m.outer).2) != 0)

/-- Format codes a sheet may hold (R43). -/
def sheetFmts : List Nat := [0x1, 0x2, 0x3, 0x4, 0x8, 0xA, 0xB]

def check10 (m : Image) : Option Fail :=
  match m.planes.findSome? (fun p =>
      let o := m.recOff p.1 p.2.1 + 0x440
      match firstBad (p.2.2.sheets.map (fun s => (o + 8 * s.1,
          !sheetFmts.contains s.2.fmt.code || decide (s.2.count = 0 ∨ 4096 < s.2.count ∨ 4096 < s.2.first + s.2.count) || (s.2.outer == 0 && s.2.inner != 0)
            || sparseBad p.2.2 s.1 s.2))) with
      | some f => some f
      | none => firstPair (fun a b => sheetClash a.2 b.2) (fun s => o + 8 * s.1) [] p.2.2.sheets) with
  | some f => some f
  | none =>
    firstBad ((upTo m.contexts).flatMap (fun c => (upTo 64).map (fun g =>
      (m.recOff c 0 + 0x840 + 16 * g,
        decide (64 < ((upTo m.nbench).map (fun b => popNat (m.nat (m.recOff c b + 0x840 + 16 * g) 16) 128)).foldl (· + ·) 0)))))

/-- Chunks of 1,024 bytes. -/
def chunkCount (bytes : Nat) : Nat := (bytes + 1023) / 1024

/-- BALT 1 is reserved for a sheet format (R262). -/
def baltReserved (f : Fmt) : Bool := f == .i8 || f == .i4 || f == .f16 || f == .bf16

/-- Two firing slots can coincide (R266). -/
def canCoincide (slot1 per1 slot2 per2 : Nat) : Bool :=
  let g := Nat.gcd (per1 + 1) (per2 + 1)
  slot1 % g == slot2 % g

/-- Rules of R266 and R44 on one word of a bench's table. -/
def wordBad (m : Image) (ctx b : Nat) (p : BenchPlane) (w : Instr) : Bool :=
  let sh (i : Nat) : Option SheetMap := p.sheets.find? i
  let chans := (p.elems.getD 15 .empty).chans
  let recvs (g i : Nat) : Bool := p.sheets.any (fun e => p.oneSheet i e.1 && bit (p.mcast.getD g 0) e.1)
  let sheet := (wordSheetIdx w).map sh
  decide (p.sper < wordSlot w)
    || (match sheet with | some none => true | _ => false)
    || (wordGroups w).any (fun g => decide (m.requirement 3 ≤ g))
    || (match sheet, w with
        | some (some x), .vlda _ s g _ ch => !recvs g.val s.val
            || decide (chunkCount (x.bytes ((p.balts s.val).headD false) false) ≤ ch.val)
        | some (some x), .vldb _ s g balt _ ch => !recvs g.val s.val || (balt && baltReserved x.fmt)
            || (p.balts s.val).any (· != balt) || decide (chunkCount (x.bytes balt true) ≤ ch.val)
        | some (some x), .vmac _ s ga gb balt _ ch => ga == gb || !recvs ga.val s.val || !recvs gb.val s.val
            || (balt && baltReserved x.fmt) || (p.balts s.val).any (· != balt)
            || decide (max (chunkCount (x.bytes balt false)) (chunkCount (x.bytes balt true)) ≤ ch.val)
        | some (some x), .vspmeta _ s _ _ _ ch => x.outer == 0
            || decide (chunkCount ((x.dense ((p.balts s.val).headD false) + 7) / 8) ≤ ch.val)
        | some (some x), .vscale _ s ch opB =>
            let balt := (p.balts s.val).headD false
            x.fmt != .i4x || (opB && sheetB x.fmt balt != .i4x)
              || decide ((x.groups balt opB + 63) / 64 ≤ ch.val)
              || !chans.any (fun c => c.2.kind == 4 && c.2.out && c.2.peer == s.val)
        | some (some _), .vdrain _ s _ _ push _ => push && !chans.any (fun c => c.2.kind == 4 && !c.2.out && c.2.peer == s.val)
        | some (some _), .vchain _ s ts dir =>
            let tb : Option Nat := match dir with
              | .here => if p.oneSheet s.val ts.val then none else some b
              | .east => if b % m.cols + 4 < m.cols then some (b + 4) else none
              | .west => if 4 ≤ b % m.cols then some (b - 4) else none
            (match tb with
             | none => true
             | some t => let q := m.plane ctx t; !q.ven || (q.sheets.find? ts.val).isNone)
        | _, .vwait _ ch =>
            !(chans.find? ch.val).any (fun c => !c.out && (c.kind == 2 || c.kind == 5))
              || (p.elems.getD 15 .empty).wheel.any (fun u => u.2.slots.any (fun t => (opChans t.2.op).1.contains ch.val))
        | _, _ => false)

def check11 (m : Image) : Option Fail :=
  let ps := m.planes
  let words := ps.flatMap (fun p => (p.2.2.sched.zipIdx).map (fun w => (p.1, p.2.1, p.2.2, w.1, m.recOff p.1 p.2.1 + 0x240 + 8 * w.2)))
  match firstBad (m.recs.flatMap (fun r => (upTo (m.counts r.2.2).2.2).map (fun i =>
      (r.2.2 + 0x240 + 8 * i, decodeV (m.schedWord r.2.2 i) == .bad .check11))) ++
    words.map (fun w => (w.2.2.2.2, wordBad m w.1 w.2.1 w.2.2.1 w.2.2.2.1))) with
  | some f => some f
  | none =>
    firstPair (fun a b =>
      a.1 == b.1 && (
        (canCoincide (wordSlot a.2.2.2.1) a.2.2.1.sper (wordSlot b.2.2.2.1) b.2.2.1.sper
          && (wordGroups a.2.2.2.1).any (wordGroups b.2.2.2.1).contains)
        || (a.2.1 == b.2.1 && wordSlot a.2.2.2.1 == wordSlot b.2.2.2.1
          && (match a.2.2.2.1, b.2.2.2.1 with | .vmac _ s .., .vmac _ t .. => a.2.2.1.oneSheet s.val t.val | _, _ => false))))
      (fun w => w.2.2.2.2) [] words

/-! ### Check 12: ranges and declarations (R42, R46) -/

/-- Every page of a span is mapped to the job with at least some permissions; residency is not asked (R42). -/
def State.spanMapped (s : State) (job perm : Nat) : Nat → Nat → Nat → Bool
  | 0, _, _ => true
  | fuel + 1, va, n =>
    if n = 0 then true
    else
      match s.walk job va with
      | .leaf l =>
        let k := min n (l.size - va % l.size)
        (!bit perm 0 || peRd l.entry) && (!bit perm 1 || peW l.entry) && (!bit perm 2 || leafOk l.entry 2)
          && s.spanMapped job perm fuel (va + k) (n - k)
      | _ => false

/-- An access declaration (R46). -/
structure Decl where
  off : Nat
  bench : Nat
  elem : Nat
  ph : Nat
  slot : Nat
  range : Nat
  kind : Nat
  len : Nat
  start : Nat
  deriving DecidableEq, Repr

def Image.decls (m : Image) : List Decl :=
  (m.entries 0x30 16).map (fun o =>
    let x := m.dw o
    let y := m.dw (o + 8)
    ⟨o, bits x 56 8, bits x 52 4, bits x 46 6, bits x 44 2, bits x 40 4, bits x 38 2, bits y 0 32, bits y 32 32⟩)

/-- Ordering edges as pairs of declaration indexes. -/
def Image.order (m : Image) : List (Nat × Nat) :=
  (m.entries 0x38 4).map (fun o => (bits (m.nat o 4) 16 16, bits (m.nat o 4) 0 16))

/-- The range entries that a declaration names, one per context in which the entry is live. -/
def declRanges (ps : List (Nat × Nat × BenchPlane)) (d : Decl) : List Range :=
  ps.filterMap (fun p => if p.2.1 = d.bench then p.2.2.ranges[d.range]? else none)

/-- An operation that moves bytes at a memory port (R46). -/
def movesBytes (op : Nat) : Bool := (decide (0xC5 ≤ op ∧ op ≤ 0xC9)) || op == 0xCB || op == 0xE2

def check12 (s : State) (l : LoadImg) : Option Fail :=
  let m := l.img
  let ps := m.planes
  match firstBad (ps.flatMap (fun p => p.2.2.ranges.zipIdx.map (fun r =>
      (m.recOff p.1 p.2.1 + 0x40 + 32 * r.2,
        decide (r.1.base % 32 ≠ 0 ∨ r.1.len % 32 ≠ 0 ∨ r.1.len = 0 ∨ 2 ^ 57 < r.1.base + r.1.len)
        || !s.spanMapped l.job r.1.perm (r.1.len / 4096 + 2) r.1.base r.1.len)))) with
  | some f => some f
  | none =>
    match ps.findSome? (fun p => firstPair
        (fun a b => decide (a.1.base < b.1.base + b.1.len ∧ b.1.base < a.1.base + a.1.len))
        (fun r => m.recOff p.1 p.2.1 + 0x40 + 32 * r.2) [] p.2.2.ranges.zipIdx) with
    | some f => some f
    | none =>
      firstBad (m.decls.map (fun d =>
          let rs := declRanges ps d
          (d.off, decide (d.len = 0 ∨ m.nbench ≤ d.bench ∨ d.elem ≠ 0 ∨ d.slot = 3) || rs.isEmpty
            || rs.any (fun r => decide (r.len < d.start + d.len))))
        ++ (m.entries 0x38 4).zipIdx.map (fun e => (e.1, (m.order[e.2]?).any (fun o =>
          decide (m.decls.length ≤ o.1 ∨ m.decls.length ≤ o.2))))
        ++ m.ops.map (fun p => (p.off, movesBytes (opByte p.op) &&
            !m.decls.any (fun d => d.bench == p.bench && d.elem == 0 && d.ph == p.ph && d.slot == p.slot))))

/-! ### Check 13: channel-cycle depth (R50) -/

/-- The vertices reachable from some over edges that are not `skip`. -/
def reach (edges : List (Nat × Nat × Nat)) (skip : Nat) : Nat → List Nat → List Nat
  | 0, seen => seen
  | fuel + 1, seen =>
    reach edges skip fuel ((seen ++ edges.flatMap (fun e =>
      if e.1 = skip then []
      else if seen.contains e.2.1 then [e.2.2] else if seen.contains e.2.2 then [e.2.1] else [])).eraseDups)

/-- The channels of a graph: index and the two regions. -/
def graphEdges (all : List LoadImg) : List (Nat × Nat × Nat) :=
  all.flatMap (fun l => (l.img.chanDecls.filter (fun d => !d.cons)).map (fun d => (d.idx, l.idx, d.peer)))

def check13 (all : List LoadImg) (l : LoadImg) : Option Fail :=
  let es := graphEdges all
  (l.img.chanDecls.findSome? (fun d =>
    match List.find? (fun e => e.1 == d.idx) es with
    | some e =>
      if (reach es d.idx es.length [e.2.1]).contains e.2.2 && decide (d.depth < d.infl) then
        some (d.off, 0, d.depth * 2 ^ 8 + d.infl)
      else none
    | none => none))

/-! ### Check 14: the static race check (R51) -/

/-- The byte spans of a declaration: a span for each context in which its range is live, with VER. -/
def declSpans (ps : List (Nat × Nat × BenchPlane)) (d : Decl) : List (Nat × Nat × Bool) :=
  (declRanges ps d).map (fun r => (r.base + d.start, d.len, r.ver))

/-- Declarations reachable along ordering edges. -/
def orderReach (edges : List (Nat × Nat)) : Nat → List Nat → List Nat
  | 0, seen => seen
  | fuel + 1, seen =>
    orderReach edges fuel ((seen ++ (edges.filter (fun e => seen.contains e.1)).map Prod.snd).eraseDups)

/-- A declaration of a graph's image: region's index, number, declaration and spans. -/
structure GDecl where
  img : Nat
  num : Nat
  d : Decl
  spans : List (Nat × Nat × Bool)
  deriving DecidableEq, Repr

def LoadImg.gdecls (l : LoadImg) : List GDecl :=
  let ps := l.img.planes
  l.img.decls.zipIdx.map (fun d => ⟨l.idx, d.2, d.1, declSpans ps d.1⟩)

/-- Two declarations of an image are ordered: by a chain of its edges, or by their position in one stream. -/
def declOrdered (es : List (Nat × Nat)) (a b : GDecl) : Bool :=
  (orderReach es es.length [a.num]).contains b.num || (orderReach es es.length [b.num]).contains a.num
    || (a.d.bench == b.d.bench && a.d.elem == b.d.elem && a.d.ph == b.d.ph && a.d.slot == b.d.slot)

/-- Two declarations conflict (R51): one of them writes, as an atomic does (R286), they are not both atomic, and their bytes overlap outside versioned windows;
declarations of one image may be ordered. -/
def declConflict (es : List (Nat × Nat)) (a b : GDecl) : Bool :=
  let overlap := a.spans.any (fun x => b.spans.any (fun y =>
    !x.2.2 && !y.2.2 && decide (x.1 < y.1 + y.2.1 ∧ y.1 < x.1 + x.2.1)))
  (a.d.kind != 0 || b.d.kind != 0) && !(a.d.kind == 2 && b.d.kind == 2) && overlap && !(a.img == b.img && declOrdered es a b)

/-- Check 14: the first conflict of an image's declarations with its own later ones, with those of the images that the
check comes to after it, and with those of images that it does not come to. -/
def check14 (all targets : List LoadImg) (l : LoadImg) : Option Fail :=
  let es := l.img.order
  let others := (all.filter (fun k => k.idx != l.idx
    && (decide (l.idx < k.idx) || !targets.any (fun t => t.idx == k.idx)))).flatMap LoadImg.gdecls
  let mine := l.gdecls
  mine.findSome? (fun a =>
    (List.find? (declConflict es a) (mine.filter (fun b => decide (a.num < b.num)) ++ others)).map (fun b =>
      (a.d.off, b.d.off, 0)))

/-! ### The checks in order (R49) -/

/-- One check on one image. -/
def State.loadCheck (s : State) (all targets : List LoadImg) (l : LoadImg) : Nat → Option Fail
  | 1 => check1 l.img
  | 2 => check2 l.img
  | 3 => check3 l.img
  | 4 => check4 l
  | 5 => check5 l.img
  | 6 => check6 l.img
  | 7 => check7 l.img
  | 8 => check8 l.img
  | 9 => check9 all l
  | 10 => check10 l.img
  | 11 => check11 l.img
  | 12 => check12 s l
  | 13 => check13 all l
  | 14 => check14 all targets l
  | _ => none

/-- Checks 1 to 14 over some images, check by check; `all` are the graph's current images. The first failure: its
check's number, the image's address and the record. Check 14 is left out where RACE lets a conflict pass. -/
def State.runChecks (s : State) (all targets : List LoadImg) (upToCheck : Nat) : Option (Nat × Nat × Fail) :=
  ((upTo upToCheck).map (· + 1)).findSome? (fun k =>
    targets.findSome? (fun l => (s.loadCheck all targets l k).map (fun f => (k, l.img.addr, f))))

end Sys2Proof.Machine
end

