-- ==== Sys2Proof/Machine/Planes.lean ====
section
/-! DEFINITION. Fills and switches of planes (R52 to R55, R85, R86, R322, R323, R388). -/

namespace Sys2Proof.Machine

/-- The supervisor copy of an image of a region's job. -/
def State.image (s : State) (r img : Nat) : Image := (s.job (s.reg r).job).images.getD img .empty

/-! ### Fills (R53, R55) -/

/-- A fill of a bench's shadow plane begins, or waits for the one in progress. -/
def Bench.startFill (y : Bench) (now img ctx : Nat) : Bench :=
  if y.shadow.state = 1 then { y with shadow := { y.shadow with queue := y.shadow.queue ++ [(img, ctx)] } }
  else { y with shadow := { y.shadow with state := 1, ctx := ctx, img := img, doneAt := now + 384 } }

/-- All benches of a region fill in parallel. -/
def State.startFill (s : State) (r img ctx : Nat) : State :=
  s.updReg r (fun x => { x with benches := x.benches.mapVal (fun _ y => y.startFill s.cycle img ctx) })

/-- The shadow planes are invalid: they hold nothing. -/
def Region.spoilShadows (x : Region) : Region :=
  { x with benches := x.benches.mapVal (fun _ y =>
      { y with shadow := { y.shadow with state := 3, plane := .empty, queue := [] } }) }

/-- The bench record of an image that a bench of a region takes: the one at its place in the rectangle, which a shrink or
grow anchors at the same north-west bench (R87). -/
def Region.recordOf (x : Region) (m : Image) (b : Nat) : Nat := b / x.place.cols * m.cols + b % x.place.cols

/-- A bench's fill that is due ends: with the record of the supervisor copy, or invalid (R55). The next of those that
waited then begins. -/
def Bench.endFill (y : Bench) (now b : Nat) (m : Image) : Bench :=
  if y.shadow.state = 1 ∧ y.shadow.doneAt ≤ now then
    let h : Shadow := match m.badUnit y.shadow.ctx b with
      | some _ => { y.shadow with state := 3, plane := .empty }
      | none => { y.shadow with state := 2, plane := m.plane y.shadow.ctx b }
    match h.queue with
    | [] => { y with shadow := h }
    | (img, ctx) :: rest =>
      { y with shadow := { h with state := 1, img := img, ctx := ctx, doneAt := y.shadow.doneAt + 384, queue := rest } }
  else y

/-- The due fills that meet an uncorrectable error: image and offset. -/
def State.fillErrors (s : State) (r : Nat) : List (Nat × Nat) :=
  (s.reg r).benches.filterMap (fun y =>
    let m := s.image r y.2.shadow.img
    if y.2.shadow.state = 1 ∧ y.2.shadow.doneAt ≤ s.cycle then
      (m.badUnit y.2.shadow.ctx ((s.reg r).recordOf m y.1)).map (fun o => (y.2.shadow.img, o))
    else none)

/-! ### Elastic channels and planes (R45, R85, R106) -/

/-- The element of a region that binds an elastic channel in the active planes: bench, element, channel. -/
def Region.binding (x : Region) (idx : Nat) (out : Bool) : Option (Nat × Nat × Nat) :=
  x.benches.findSome? (fun y => y.2.plane.elems.findSome? (fun e =>
    (List.find? (fun c => c.2.kind == 2 && c.2.out == out && c.2.peer == idx) e.2.chans).map (fun c => (y.1, e.1, c.1))))

/-- The latency of a channel: 2 + d on one die, 30 + d across dies (R106). -/
def elasticLat (x y : Region) (bx yb : Nat) : Nat :=
  let d (a b : Nat) : Nat := max a b - min a b
  let p := x.dieBench bx
  let q := y.dieBench yb
  (if x.place.die = y.place.die then 2 else 30) + d (p / 16) (q / 16) + d (p % 16) (q % 16)

/-- The tokens in a region's input buffers of elastic channels go back behind the channel (R85, R107). -/
def State.withdraw (s : State) (r : Nat) : State :=
  ((s.graph (s.reg r).graph).chans).foldl (fun s c =>
    let (r', b, e, n) := c.2.dst
    if r' != r || !((s.reg r).chan b e n).any (fun k => k.kind == 2 && !k.out && k.peer == c.1) then s
    else
      let toks := (((s.reg r).bench b).elem e).bufs.getD n []
      (s.updElem r b e (fun el => { el with bufs := el.bufs.set [] n [] })).updGraph (s.reg r).graph (fun g =>
        { g with chans := g.chans.modify c.1 (fun ch => { ch with qmem := toks ++ ch.qmem }) })) s

/-- The channels of a region's graph find their ends in the active planes. -/
def State.rebind (s : State) (r : Nat) : State :=
  let x := s.reg r
  s.updGraph x.graph (fun g => { g with chans := g.chans.mapVal (fun i c =>
    let c := if c.dst.1 = r then (match x.binding i false with | some p => { c with dst := (r, p) } | none => c) else c
    let c := if c.src.1 = r then (match x.binding i true with | some p => { c with src := (r, p) } | none => c) else c
    { c with lat := elasticLat (s.reg c.src.1) (s.reg c.dst.1) c.src.2.1 c.dst.2.1 }) })

/-! ### Exchange of the planes (R52, R54, R97) -/

/-- The lane masks and scale registers of an element take the plane's values (R52); round n is current on its inputs. -/
def Element.loadPlane (el : Element) (x : ElemRec) (n : BitVec 24) : Element :=
  { el with
    masks := (upTo 7).filterMap (fun k =>
      let v := x.minit.getD k 0#16
      if v = 0#16 then none else some (k + 1, ⟨v, false⟩))
    scales := x.scales, scaleBad := []
    passed := [], inRound := [], round0 := n }

/-- The owner's operation and slot in a wheel (R249). -/
def ElemRec.rmw (x : ElemRec) : Option (Instr × Nat) :=
  x.wheel.findSome? (fun u => u.2.slots.findSome? (fun t => match t.2.op with | .rmw .. => some (t.2.op, t.2.ksel) | _ => none))

/-- Active and shadow plane of a bench change roles; the shadow then holds the old context. -/
def Bench.exchange (y : Bench) (img ctx : Nat) (n : BitVec 24) : Bench :=
  let new := y.shadow.plane
  let own := (new.elems.getD 0 .empty).rmw
  { y with
    plane := new
    shadow := { state := if y.plane.elems.isEmpty then 0 else 2, ctx := ctx, img := img, doneAt := 0, plane := y.plane,
                queue := [] }
    elems := y.elems.mapVal (fun e el => el.loadPlane (new.elems.getD e .empty) n)
    port := { y.port with owner := { y.port.owner with cfg := own.map Prod.fst, slotK := (own.map Prod.snd).getD 0 } }
    node := { y.node with slot := 0 } }

/-- The planes of a region exchange; deckle word and counters of the new context take effect, the block cache is
invalidated, and FRZSTAT holds no freeze (R104: SRC 0 is no freeze since the switch). The new context runs round n. -/
def State.exchange (s : State) (r : Nat) (n : BitVec 24) : State :=
  let s := s.withdraw r
  let x := s.reg r
  let img := (x.bench 0).shadow.img
  let ctx := (x.bench 0).shadow.ctx
  let m := s.image r img
  (s.updReg r (fun x =>
    { x with
      benches := x.benches.mapVal (fun _ y => y.exchange x.place.act x.place.ctx n)
      place := { x.place with act := img, ctx := ctx, ii := m.ii, rtype := m.rtype }
      sheets := []
      fab := { x.fab with phase := 0, freeze := .none }
      seq := { x.seq with cache := [], filling := none } })).rebind r

/-- STOP returns to 0 at a switch (R265). -/
def Region.clearStops (x : Region) : Region :=
  { x with benches := x.benches.mapVal (fun _ y =>
      { y with node := { y.node with stop := false, goArmed := false, quiesced := false } }) }

/-- After a switch of a folded image the shadow plane takes the next context, unless it holds it (R86). -/
def State.fillNext (s : State) (r : Nat) : State :=
  let x := s.reg r
  let next := (x.place.ctx + 1) % (x.place.fold + 1)
  let sh := (x.bench 0).shadow
  if x.place.fold = 0 ∨ (sh.state = 2 ∧ sh.img = x.place.img ∧ sh.ctx = next) then s
  else s.startFill r x.place.img next

/-! ### The switch (R54, R85, R323, R388) -/

/-- A shadow plane is invalid. -/
def Region.spoiled (x : Region) : Bool := x.benches.any (fun y => y.2.shadow.state == 3 || y.2.shadow.state == 0)

/-- A data or control token of the ending round or an earlier one in a buffer at cycle 0 (R388). At a pass boundary
inside the round, tokens of channels that another context binds wait for it (R85); DESIGN CHOICE (log 62): so do those of
control lines, which the sequencer sends in the same round behind the pass marker for the pass that follows. -/
def State.unmatched (s : State) (r : Nat) (w : Switching) : Option Token :=
  List.find? (fun t => t.kind.isData && atOrBefore t.round w.round)
    (if w.pass && decide ((s.reg r).place.ctx < (s.reg r).place.fold) then s.chanHeld r true false else s.buffered r false)

/-- The position of the element that holds a token in an input buffer, without phase, slot and operation (R184). -/
def Region.holder (x : Region) (t : Token) : DWord :=
  (x.benches.findSome? (fun y => y.2.elems.findSome? (fun e =>
    if e.2.bufs.any (fun b => b.2.contains t) then some (posWord x.place.die (x.dieBench y.1) e.1 0 0 0) else none))).getD 0#64

/-- The round that runs behind a switch: the next one, or at a pass boundary inside a round, and when a void has brought
a folded region back to context 0, the same one. -/
def Region.roundBehind (x : Region) (w : Switching) : BitVec 24 :=
  if w.pass && (x.refill == 2 || decide (x.place.ctx < x.place.fold)) then w.round else w.round + 1

/-- A candidate of a region by its number: an alternative, or with 8 (a grow) and 9 (a shrink) the primary image. -/
def State.shapeOf (s : State) (r k : Nat) : Option Nat :=
  let n := s.rnode r
  if k = 8 ∨ k = 9 then some (n.word 8) else (n.alts[k]?).map (fun a => a.1)

/-- A bench of a region stands in the rectangle of another image at the same origin. -/
def Region.keeps (x : Region) (m : Image) (b : Nat) : Bool :=
  decide (b / x.place.cols < m.rows ∧ b % x.place.cols < m.cols)

/-- Context 0 of the candidate of a change of shape fills the shadow planes of the benches that the region keeps (R87). -/
def State.fillShape (s : State) (r img : Nat) : State :=
  s.updReg r (fun x => { x with
    benches := x.benches.mapVal (fun b y => if x.keeps (s.image r img) b then y.startFill s.cycle img 0 else y) })

/-- The planes of a resumed region exchange without touching its restored registers (R361). -/
def Bench.install (y : Bench) : Bench := { y with plane := y.shadow.plane, shadow := .none }

/-- A resumed node: MROUND takes the round after LASTRND (R265). -/
def Node.resume (n : Node) (round : BitVec 24) : Node :=
  { n.keepRows round with mround := round }

/-- A resumed region: its context is in the planes; the loaded FLOAD context, or the next context of a folded image,
is filled behind it. -/
def State.resumeStart (s : State) (r : Nat) : State :=
  let x := s.reg r
  let sh := (x.bench 0).shadow
  let s := (s.updReg r (fun x =>
    { x with
      benches := x.benches.mapVal (fun _ y => { y.install with node := y.node.resume (x.lastRnd + 1) })
      place := { x.place with ctx := sh.ctx }
      sheets := [], refill := 0, owed := []
      seq := { x.seq with cache := [], filling := none } })).rebind r
  match (s.reg r).seq.loaded with
  | some (img, ctx) => if 0 < x.place.fold then s.fillNext r else s.startFill r img ctx
  | none => s.fillNext r

/-- One cycle of a switch: cycle 0 once the last marker has passed and the fill is complete, the exchange in cycle
1; when cycle 2 is over the first bundle may issue, in cycle 3. -/
def State.switchCycle (s : State) (r : Nat) : State :=
  let x := s.reg r
  match x.switching with
  | none => s
  | some w =>
    if w.done then s
    else
      match w.start with
      | none =>
        if !s.drained r w || x.filling || (w.pass && x.shape.isSome && x.preq == some w.round.toNat && x.place.ctx == x.place.fold)
        then s
        else if x.spoiled then
          (s.updReg r (fun x => { x with switching := none })).asyncRaise r 0xA0 (dw (x.bench 0).shadow.img) 0#64 0#64 0#64
        else
          match s.unmatched r w with
          | some t =>
            (s.updReg r (fun x => { x with switching := none, seq := x.seq.disarm })).raiseRound r
              (roundCause 0x97 t.tag (x.holder t) t.header 0#64 0#64)
          | none => s.updReg r (fun x => { x with switching := some { w with start := some s.cycle } })
      | some c =>
        if s.cycle = c + 1 then
          if x.refill = 3 then s.resumeStart r
          else
            let s := (s.exchange r (x.roundBehind w)).updReg r (fun x =>
              let x := if x.refill = 2 then x else x.clearStops
              { x with seq := { x.seq with loaded := if w.pass then x.seq.loaded else none } })
            s.fillNext r
        else if c + 2 ≤ s.cycle then
          s.updReg r (fun x => { x with
            switching := if w.pass || w.round == x.lastRnd then none else some { w with done := true } }.nextSwitch)
        else s

/-- A switch of context at a round boundary (R54). -/
def execSwitch (r : Nat) (s : State) : Answer := .next (s.switchCycle r)

/-- A switch of a folded region at a pass boundary (R85, R86). -/
def execPassSwitch (r : Nat) (s : State) : Answer := .next (s.switchCycle r)

/-! ### First contexts (R27, R77, R86, R361) -/

/-- Every member of the gang of a member has been reported as placed (R27). -/
def Job.seatReady (j : Job) (a : Nat) : Bool :=
  (upTo (bits ((j.node a).word 5) 8 24)).all (fun i =>
    i == bits ((j.node a).word 6) 40 24 || (j.gangs.getD a .init).placed.contains i)

/-- The gangs that a graph starts with are ready. -/
def Job.graphReady (j : Job) (graphNode : Nat) : Bool :=
  j.gangs.keys.all (fun a => !(a == j.rcb || a == graphNode) || j.seatReady a)

/-- Every region of a graph has its context, its record and its gang: they start in one cycle. -/
def State.startGraph (s : State) (g : Nat) : State :=
  let rs := (s.graph g).regions
  let waits (l : Life) : Bool := l == .filling || l == .preempted || l == .waiting || l == .failed
  if rs.any (fun r => waits (s.reg r).life || (s.reg r).wantOff.isSome) || !rs.any (fun r => (s.reg r).life == .starting)
      || !(s.job (s.graph g).job).graphReady (s.graph g).node then s
  else
    let s := rs.foldl (fun s r =>
      if (s.reg r).life = .starting then
        s.updReg r (fun x => { x with
          life := .running
          switching := some ⟨x.lastRnd, some s.cycle, false, false⟩
          seq := { x.seq with hold := { x.seq.hold with quiet := false } } })
      else s) s
    let s := rs.foldl (fun s r => s.updReg r (fun x => { x with preq := none })) s
    s.updGraph g (fun x => { x with boundary := none })

/-- The fills of a region that are due end (R53, R55). A folded region that a void has brought back has context 0
switched in, and context 1 filled behind it, before the replay (R86, R352). -/
def execFillComplete (r : Nat) (s : State) : Answer :=
  let errs := s.fillErrors r
  let s' := s.updReg r (fun x => { x with
    benches := x.benches.mapVal (fun b y => y.endFill s.cycle (x.recordOf (s.image r y.shadow.img) b) (s.image r y.shadow.img)) })
  let s' := errs.foldl (fun s e => s.asyncRaise r 0xA0 (dw e.1) (dw e.2) 0#64 0#64) s'
  let x := s'.reg r
  let valid := !x.filling && !x.spoiled
  if x.life = .filling ∧ valid ∧ x.swapUntil ≤ s.cycle then
    .next ((s'.updReg r (fun x => { x with life := .starting })).startGraph x.graph)
  else if x.refill = 1 ∧ valid then
    .next (s'.updReg r (fun x =>
      { x with refill := 2, switching := some ⟨(s'.graph x.graph).heldFrom, some s.cycle, true, false⟩ }))
  else if x.refill = 2 ∧ valid then .next (s'.updReg r (fun x => { x with refill := 0 }))
  else .next s'

/-! ### FLOAD at commit (R322) -/

/-- An image as the loader's checks see it for a region of a graph. -/
def State.loadImg (s : State) (r img : Nat) : LoadImg :=
  let x := s.reg r
  let n := s.rnode r
  let c := (n.candidate img).getD (0, 0, 0)
  ⟨(((s.job x.job).node (s.graph x.graph).node).kids.findIdx? (· == x.node)).getD 0, x.job, c.1 + 1, c.2.1 + 1, c.2.2, n.kids.length, s.image r img⟩

/-- Segments, groups and grants that a context names are held by the region (R322). -/
def State.contextHeld (s : State) (r : Nat) (m : Image) (ctx : Nat) : Bool :=
  let x := s.reg r
  let ps := m.planes.filter (fun p => p.1 == ctx)
  (planeSegments m.rows m.cols ps false x.place.row x.place.col).all (fun k => x.place.segs.contains k)
    && (planeSegments m.rows m.cols ps true x.place.row x.place.col).all (fun k =>
      (s.die (segKey x.place.die k / 64)).segmentWhole (segKey x.place.die k % 64))
    && (ps.flatMap (fun p => p.2.2.sched.flatMap wordGroups ++ p.2.2.mcast.map Prod.fst)).all (fun g => (x.place.groups.find? g).isSome)
    && (m.entries 0x40 32).all (fun o =>
      (s.die x.place.die).grants.any (fun g => g.2.region == r && g.2.off == bits (m.dw (o + 8)) 0 32
        && g.2.len == bits (m.dw (o + 8)) 32 32 && g.2.flag == m.dw (o + 16)))

/-- A candidate of a region node has passed checks 1 to 14 (R49). -/
def State.passImage (s : State) (j node img : Nat) : State :=
  s.updJob j (fun x => { x with images := x.images.modify img (fun m =>
    if m.checked.contains node then m else { m with checked := m.checked ++ [node] }) })

/-- FLOAD's act; a race that RACE flags passes (R51). -/
def State.fload (s : State) (r img ctx : Nat) : State :=
  let m := s.image r img
  let all := ((s.graph (s.reg r).graph).regions.map (fun k =>
    s.loadImg k (if k = r then img else (s.reg k).place.img)))
  let policy := ((s.job (s.reg r).job).node (s.graph (s.reg r).graph).node).eff.policy
  let bad := if m.checked.contains (s.reg r).node then none else s.runChecks all [s.loadImg r img] (if bits policy 14 2 = 1 then 13 else 14)
  let s := s.updSeq r (fun q => { q with loaded := some (img, ctx) })
  match bad with
  | some (k, a, f) => (s.updReg r Region.spoilShadows).asyncRaise r (0x7F + k) (dw a) (dw f.1) (dw f.2.1) (dw f.2.2)
  | none =>
    let s := s.passImage (s.reg r).job (s.reg r).node img
    if s.contextHeld r m ctx then s.startFill r img ctx
    else (s.updReg r Region.spoilShadows).asyncRaise r 0x8E (dw img) 0#64 0#64 0#64

end Sys2Proof.Machine
end

