-- ==== Sys2Proof/Machine/Block.lean ====
section
/-! DEFINITION. The sequencer's blocks: fetch, the word in turn, discard and commit (R92 to R97, R121, R149). -/

namespace Sys2Proof.Machine

/-! ### Fetch (R92, R93, R149) -/

/-- Cause, and records, of a fetch of the block at the next address that fails (R92, R149). -/
def Seq.fetchFault (q : Seq) (cause : Nat) (i0 i1 : DWord) : TrapRec :=
  ⟨BitVec.ofNat 8 cause, .block, q.pc.setWidth 57, 0#24, i0, i1, 0#64, 0#64, 0⟩

/-- A block ends, and an invalidation that waited for it reaches the sequencer (R154). -/
def Seq.endBlock (q : Seq) : Seq :=
  { q with block := none, stale := if q.flushing then [] else q.stale, flushing := false }

/-- A cause of kind block: it is taken at the boundary where the block stands or stood, before any waiting cause. -/
def State.blockCause (s : State) (r : Nat) (t : TrapRec) : State :=
  s.updSeq r (fun q => { q.endBlock with pending := { t with ready := s.time } :: q.pending })

/-- The words of a line that the block cache holds, marked the latest used. -/
def Seq.touch (q : Seq) (set : Nat) (l : CLine) : Seq :=
  { q with cache := q.cache.put set (((q.cache.getD set []).filter (fun k => k.addr != l.addr)) ++ [l]) }

/-- The word at an address, when its line is held. -/
def State.cachedWord (s : State) (r a : Nat) : Option Word :=
  (s.cached r (a / 64 * 64)).map (fun l => BitVec.ofNat 32 (leNat ((l.bytes.drop (a % 64)).take 4)))

/-- Words of a block: the header's count, or one when the word is no header (R119, R120). -/
def blockLength (w : Word) : Nat := if w.toNat / 2 ^ 26 = 0 then bits w.toNat 19 7 + 2 else 1

/-- The lines that hold some words. -/
def linesAt (a n : Nat) : List Nat :=
  (upTo ((a + 4 * n + 63) / 64 - a / 64)).map (fun i => (a / 64 + i) * 64)

/-- A missing line of the next block: its fill begins, or its fetch fails (R92). -/
def State.missLine (s : State) (r line : Nat) : State :=
  let x := s.reg r
  if x.seq.filling.isSome then s
  else
    match (s.tlb r).seqCheck x.job 3 none line 64 with
    | .ok _ => s.startLineFill r line
    | .fail c _ =>
      let c := if c = 1 then 2 else c
      s.blockCause r (x.seq.fetchFault (if c = 4 then 0x43 else 0x40) (dw line) (dw (c * 2 ^ 8 + 2 ^ 17)))

/-- The next block is fetched: once all its lines are held it stands in the window. DESIGN CHOICE (log 101): the page of a line
that the cache holds is not looked at again. -/
def State.fetch (s : State) (r : Nat) : State :=
  let x := s.reg r
  let q := x.seq
  let a := q.pc.toNat
  if a / 2 ^ 57 ≠ 0 ∨ a % 4 ≠ 0 then s.blockCause r (q.fetchFault 0x40 q.pc 0#64)
  else
    match s.cachedWord r a with
    | none => s.missLine r (a / 64 * 64)
    | some w =>
      let n := blockLength w
      match List.find? (fun l => (s.cached r l).isNone) (linesAt a n) with
      | some l => s.missLine r l
      | none =>
        let words := (upTo n).filterMap (fun i => s.cachedWord r (a + 4 * i))
        let held := (linesAt a n).filterMap (fun l => s.cached r l)
        let lost := s.cacheLost r
        s.updSeq r (fun q =>
          { (held.foldl (fun q l => q.touch (cacheSet lost l.addr) l) q) with
            hold := { q.hold with haltReq := q.hold.haltReq.map (fun n => (n.1, if n.2 = 1 then 2 else n.2)) }
            block := some { Block.entry q.csrs with addr := a, words := words, stopAtEntry := x.fab.stop } })

/-- A line arrives in the block cache: the least recently used of four ways gives way (R92). -/
def execBlockCacheLineFill (r addr : Nat) (s : State) : Answer :=
  let x := s.reg r
  match x.seq.filling with
  | some (a, due) =>
    if a = addr ∧ due ≤ s.cycle then
      let s := s.updSeq r (fun q => { q with filling := none })
      match (s.tlb r).seqCheck x.job 3 none addr 64 with
      | .ok parts =>
        match s.readParts x.writer none parts with
        | .bytes bs _ =>
          let set := cacheSet (s.cacheLost r) addr
          .next (s.updSeq r (fun q =>
            let l := (q.cache.getD set []).filter (fun k => k.addr != addr)
            { q with cache := q.cache.put set (l.drop (l.length - 3) ++ [⟨addr, bs, false⟩]) }))
        | _ => .next s
      | .fail _ _ => .next s
    else .next s
  | none => .next s

/-! ### Which words may fire (R94) -/

/-- A word reads a control register. -/
def readsCsr : Instr → Bool
  | .csrr _ _ | .csrs _ _ | .csrc _ _ | .bmaprd _ | .stver _ _ _ _ | .fdrain _ _ | .rndend _ | .finj _ _ | .scopy _ _ _
  | .sload _ _ _ | .sstore _ _ _ | .sgath _ _ _ | .sscat _ _ _ | .sprobe _ _ _ | .speer _ _ _ | .scoll _ _ _ => true
  | _ => false

/-- A word writes a control register. -/
def writesCsr : Instr → Bool
  | .csrw _ _ | .csrs _ _ | .csrc _ _ | .rndend _ => true
  | _ => false

/-- A word reads bytes of memory when it fires. -/
def readsMemory : Instr → Bool
  | .ld _ _ _ _ | .ldSigned _ _ _ _ | .ldver _ _ _ _ _ | .barwait _ _ _ | .barstat _ _ | .flagwait _ _ _ => true
  | _ => false

def isStver : Instr → Bool
  | .stver _ _ _ _ => true
  | _ => false

/-- A word whose bytes a later read of its block sees. -/
def storesBytes : Instr → Bool
  | .st _ _ _ _ => true
  | i => isStver i

/-- Two lists of registers share one that is not wired. -/
def sharesReg {n : Nat} (xs ys : List (Fin (n + 1))) : Bool := xs.any (fun x => x != 0 && ys.contains x)

/-- A later word reads what an earlier one produces. -/
def feeds (j k : Instr) : Bool :=
  sharesReg (fireDest j).toList (seqReads k) || sharesReg (fireDestP j).toList (seqReadsP k) || (writesCsr j && readsCsr k)

/-- A later word has to stay behind an earlier one that has not fired: it reads what that one produces, writes what that
one reads or writes, or reads memory that it may store to. -/
def holdsBack (j k : Instr) : Bool :=
  feeds j k || sharesReg (fireDest k).toList (seqReads j) || sharesReg (fireDest k).toList (fireDest j).toList
    || sharesReg (fireDestP k).toList (seqReadsP j) || sharesReg (fireDestP k).toList (fireDestP j).toList
    || ((readsCsr j || writesCsr j) && writesCsr k) || (storesBytes j && readsMemory k) || (isStver j && isStver k)

/-- The instruction at a position of a block. -/
def Block.instr (b : Block) (k : Nat) : Option Instr := (decodeS (b.words.getD k 0#32)).toOption

/-- The words still to fire. -/
def Block.unfired (b : Block) : List Nat := (upTo b.words.length).filter (fun k => !b.fired.contains k)

/-- The instructions before a position that have still to fire, the header aside. -/
def Block.ahead (b : Block) (k : Nat) : List Instr :=
  ((b.unfired.filter (fun j => decide (0 < j ∧ j < k))).filterMap b.instr)

/-- A word is free to fire; a read behind an act of the block fires after every word before it (R314). -/
def Block.mayFire (b : Block) (k : Nat) : Bool :=
  match b.instr k with
  | none => true
  | some i =>
    !(b.ahead k).any (fun j => holdsBack j i)
      && ((b.ahead k).isEmpty || !readsMemory i || !(((upTo k).drop 1).filterMap b.instr).any actsAtCommit)

/-- The waiting words whose operands have all been produced begin to wait (R308, R310). -/
def Block.beginWaits (b : Block) (time cycle : Nat) : Block :=
  (b.unfired.filter (fun k => (b.instr k).any (fun i => isWaiting i && !(b.ahead k).any (fun j => feeds j i)))).foldl
    (fun (b : Block) k => if (b.waits.find? k).isSome then b else { b with waits := b.waits.put k (time, cycle) }) b

/-! ### The sequencer's turn -/

/-- A debug request stops the sequencer at its boundary, at M (R375). -/
def State.haltAtM (s : State) (r n : Nat) (step : Bool) : State :=
  let q := (s.reg r).seq
  let t : TrapRec := ⟨if step then 0x08#8 else 0x07#8, .async, q.pc.setWidth 57, 0#24, dw n, 0#64, 0#64, 0#64, s.time⟩
  (s.tellS r t 2).1.updSeq r (fun q => { q with hold := { q.hold with halted := true, haltReq := none } })

/-- What the sequencer of a region does next: it has moved on by itself, or a word or an event is due. -/
inductive SeqTurn where
  | done (s : State)
  | word (s : State) (i : Instr)
  | ev (s : State) (e : Event)

/-- Planes exchange in this cycle (R54): the block cache is invalidated before a line of it is hit (R109). -/
def State.exchanging (s : State) (r : Nat) : Bool :=
  (s.reg r).switching.any (fun w => !w.done && w.start.any (fun c => s.cycle == c + 1))

/-- At a block boundary: a waiting trap, a debug halt, or the next fetch. -/
def State.boundary (s : State) (r : Nat) : SeqTurn :=
  let x := s.reg r
  let q := x.seq
  let h := q.hold
  if h.atS.isSome || h.launch.isSome || h.halted then .done s
  else
    match q.nextTrap with
    | some t => .ev s (if s.nextDest r t = 0 then .trapEntry r else .trapAtS r)
    | none =>
      match h.haltReq.filter (fun n => n.2 != 1) with
      | some n => .done (s.haltAtM r n.1 (n.2 == 2))
      | none =>
        let g := s.graph x.graph
        if !q.csrs.priv && (h.ended || h.quiet || g.held || x.preq.any (fun n => q.csrs.round == BitVec.ofNat 24 (n + 1))) then .done s
        else
          match q.filling with
          | some (a, due) => if due ≤ s.cycle then .ev s (.blockCacheLineFill r a) else .done s
          | none => .done (if s.exchanging r then s else s.fetch r)

/-- The region in turn at the start of a cycle: the words of its block that may fire in it, the commit that is due, or the
boundary. Of the words at most four fire, the lowest first, and the header before them (R94, R95). -/
def State.seqTurn (s : State) (r : Nat) : SeqTurn :=
  let s := { s with focus := { s.focus with region := r } }
  match s.seqView with
  | none => if (s.regions.find? r).isSome then s.boundary r else .done s
  | some v =>
    if v.blk.unfired.isEmpty then .ev (s.setBlock { v.blk with idx := v.blk.words.length }) (.blockCommit r)
    else
      let limit := v.blk.fired.length + 4 + (if v.blk.fired.contains 0 then 0 else 1)
      let s := s.setBlock (v.blk.beginWaits s.time s.cycle)
      .done { s with work := (v.blk.unfired.filter v.blk.mayFire).map (fun k => .word r k limit) ++ s.work }

/-- The state with a word of a region's block in turn. -/
def State.turnTo (s : State) (r k : Nat) : State :=
  ({ s with focus := { s.focus with region := r } } : State).updSeq r (fun q =>
    { q with block := q.block.map (fun b => { b with idx := k }) })

/-- A word of a block, or the end of its wait. A first word that is no header is illegal, for the lowest reason it meets
(R120). -/
def State.wordTurn (s : State) (r k limit : Nat) : SeqTurn :=
  let s := s.turnTo r k
  match s.seqView with
  | none => .done s
  | some v =>
    if limit ≤ v.blk.fired.length then .done s
    else if v.expired s.time then .ev s (.waitTimeout r)
    else if s.ldverExpired v then .ev s (.ldverVersionWaitExpiry r)
    else
      match v.blk.word with
      | .bad n => .done (s.setBlock (v.blk.illegal n.reason).advance)
      | .instr i =>
        match k, i with
        | 0, .blk .. => .word s i
        | 0, _ => .done (s.setBlock (v.blk.illegal 6).advance)
        | _, _ => .word s i

/-! ### Discard (R96, R150) -/

/-- Version slots that a block took and did not commit are free again (R311). -/
def State.freeSlots (s : State) (slots : List (Nat × Nat)) : State :=
  { s with mem := slots.foldl (fun m p => writeSlot m p.1 p.2 { readSlot m p.1 p.2 with live := false }) s.mem }

/-- The block in flight is abandoned with no effect (R96, R308, R352). -/
def State.abandon (s : State) (r : Nat) : State :=
  match (s.reg r).seq.block with
  | some b => (s.freeSlots b.slots).updSeq r Seq.endBlock
  | none => s

/-- The no-exit cause of a block (R150). -/
def Block.noExit (b : Block) : TrapRec :=
  ⟨0x03#8, .block, BitVec.ofNat 57 b.addr, 0#24, dw b.failed, 0#64, 0#64, 0#64, 0⟩

/-- The cause for which a block is discarded. -/
def Block.cause (b : Block) : Option TrapRec :=
  match b.exc with
  | some (_, t) => some t
  | none => if b.exits.isEmpty then some b.noExit else none

/-! ### Acts (R95, R306) -/

/-- A late result: it stands unless a later word of the block writes the register (R121). -/
def Block.late (b : Block) (pos : Nat) (n : GReg) (x : DWord) : Block :=
  if n = 0 ∨ pos < b.gpos.getD n.val 0 then b
  else { b with gw := b.gw.put n.val ⟨x, false⟩, gpos := b.gpos.put n.val pos }

/-- A token enters the sequencer's queue of a control line (R328). -/
def State.inject (s : State) (r line : Nat) (t : Token) : State :=
  let (s, k) := s.ticket
  s.updSeq r (fun q =>
    { q with ctlq := q.ctlq.put line (q.ctlq.getD line [] ++ [(s.cycle + 1 + Config.injectLatency k, t)]) })

/-- RNDEND's act (R333): the punctuation of round n on each line of the mask, and the switch it begins. A node whose
schedule has no VWAIT keeps what a void of the round that now begins returns to it. -/
def State.rndendAct (s : State) (r mask : Nat) : State :=
  let x := s.reg r
  let q := x.seq
  let n := q.csrs.round
  let pass := x.passEnds q.csrs.fpass
  let tag : BitVec 24 := if pass && !q.armed then q.csrs.fpass.setWidth 24 else 0#24
  let kind : TokKind := if q.armed then .switch else if pass then .pass else .marker
  let s := ((upTo 8).filter (bit mask)).foldl (fun s l => s.inject r l ⟨kind, false, n, tag, BitVec.ofNat 8 l, 0#512⟩) s
  let s := if pass then s else s.updReg r (fun x => { x with benches := x.benches.mapVal (fun _ y =>
    if y.plane.waits then y else { y with node := y.node.keepRows (n + 1) }) })
  if q.armed then
    s.updReg r (fun x => { x with
      switching := some ⟨n, none, false, false⟩
      seq := { x.seq with armed := false } })
  else if 0 < x.place.fold then s.updReg r (fun x => { x with owed := x.owed ++ [n] }.nextSwitch)
  else s

/-- A command enters its die's engine queue with its descriptor as it reads at commit (R300, R315). -/
def State.issueEngine (s : State) (r cmd descr barrier : Nat) (round : BitVec 24) : State :=
  let x := s.reg r
  let bytes :=
    match (s.tlb r).seqCheck x.job 0 none descr 64 with
    | .ok parts =>
      match s.addrs x.writer none parts with
      | .ok as _ => as.map (fun a => match a with | some pa => s.mem.read pa | none => 0#8)
      | _ => []
    | .fail _ _ => []
  let words := (upTo 8).map (fun k => dw (leNat ((bytes.drop (8 * k)).take 8)))
  let num := x.seq.cmdNo.toNat
  let (s, t) := s.ticket
  (s.updDie x.place.die (fun d =>
    { d with
      engines := d.engines.put d.nextEng
        { region := r, job := x.job, num := num, cmd := cmd, descrAddr := descr, descr := words, barrier := barrier,
          round := round, started := false, due := s.cycle + 1 + Config.engineLatency t, voided := false, result := none,
          sent := false, reply := none, msgs := [], waitVa := none, versioned := false }
      nextEng := d.nextEng + 1 })).updSeq r (fun q =>
    { q with cmdNo := q.cmdNo + 1, outstanding := q.outstanding ++ [num] })

/-- The nodes of a selection changed. -/
def State.updNodes (s : State) (r : Nat) (bs : Option (List Nat)) (f : Node → Node) : State :=
  (bs.getD []).foldl (fun s b => s.updNode r b f) s

/-- A request to shrink or grow passes to S and replaces a pending one (R324). -/
def State.askShape (s : State) (r k : Nat) : State :=
  let hold : Bool := (s.graph (s.reg r).graph).boundary.isSome
  s.updReg r (fun x =>
    let again : Bool := x.shreq.isSome && x.shape == x.shreq
    { x with
      shreq := some (k, s.cycle), seq := { x.seq with request := 1 }
      shape := if again then none else x.shape
      preq := if again && !hold then none else x.preq })

/-- One act of a block at its commit; the block collects late results. -/
def State.doAct (s : State) (r : Nat) (b : Block) (pos : Nat) (a : Act) : State × Block :=
  let x := s.reg r
  match a with
  | .store bs => (s.writeAt bs, b)
  | .stver bs dir n => ((s.writeAt bs).updReg r (fun x => x.ownsSlot dir n), b)
  | .reclaim dir n => ({ s with mem := versReclaim s.mem dir n }, b)
  | .atomic op d pa dbl y c =>
    let (s, old) := s.doAtomic x.place.die op pa dbl y c
    (s, b.late pos d old)
  | .engine cmd d descr bar n => (s.issueEngine r cmd descr bar n, b.late pos d (x.seq.cmdNo.setWidth 64))
  | .squery d n => (s, b.late pos d (if x.seq.outstanding.contains n then 0#64 else 1#64))
  | .fload img ctx => (s.fload r img ctx, b)
  | .fswitch => (s.updSeq r (fun q => { q with armed := true }), b)
  | .fshrink i => (s.askShape r i, b)
  | .fgrow => (s.askShape r 8, b)
  | .fstop => (s.updReg r (fun x =>
      { x with fab := if x.fab.stop then x.fab else { x.fab with stop := true, stopSince := s.cycle } }), b)
  | .frun => (s.updReg r (fun x => { x with fab := { x.fab with stop := false } }), b)
  | .finj line y n => (s.inject r line (finjToken line y n), b)
  | .fstat d sel => (s.updReg r (fun x => x.fstatClear sel.toNat), b.late pos d (x.fstat sel.toNat))
  | .vgo sel => (s.updNodes r (x.vatSel sel) (fun n => { n with goArmed := true, quiesced := false }), b)
  | .vquiesce sel => (s.updNodes r (x.vatSel sel) (fun n => { n with stop := true, quiesced := true, goArmed := false }), b)
  | .vmap sel y => (s.updNodes r (x.named (bits sel 8 8) (bit sel 16)) (fun n => n.vmap (sel % 256) y.toNat), b)
  | .vstat d sel => (s.updNode r sel (fun n => { n with vnstat := 0#32 }), b.late pos d (x.vstat sel))
  | .rndend mask => (s.rndendAct r mask, b)
  | .bararr addr st => (s.arriveAt x.job addr r st, b)
  | .notify pa y =>
    ((s.storeBytes pa (leBytes ((s.mem.readNat pa 8 + y.toNat) % 2 ^ 64) 8)).countAtomic pa x.place.die, b)
  | .svc .. | .raise .. | .tret | .yield => (s, b)

/-- TRET of a region: the stop bit returns with a deferred checkpoint (R349, R351). -/
def Region.tret (x : Region) : Region :=
  let stop := match x.seq.deferred.bind (fun n => x.seq.checkpoints.find? n.toNat) with
    | some c => c.stop
    | none => x.fab.stop
  { x with seq := x.seq.trapReturn, fab := { x.fab with stop := stop } }

/-- What a trap word does after its block has committed (R340 to R343). -/
def State.trapAct (s : State) (r : Nat) (round : BitVec 24) (a : Act) : State :=
  match a with
  | .svc 0 _ _ => s.updSeq r (fun q => { q with hold := { q.hold with ended := true, endedIn := round } })
  | .svc 1 g y => s.updSeq r (fun q => { q with hold := { q.hold with launch := some (g.val, y.toNat) } })
  | .svc k _ y => s.asyncRaise r 0x04 (dw k) y 0#64 0#64
  | .raise c k y => s.asyncRaise r c (dw k) y 0#64 0#64
  | .tret => s.updReg r Region.tret
  | .yield => s.updSeq r (fun q => { q with yielded := true })
  | _ => s

/-! ### Commit (R95, R121, R315, R328) -/

/-- Tokens that an act puts into the queue of a control line. -/
def Act.lineTokens (a : Act) (line : Nat) : Nat :=
  match a with
  | .finj l _ _ => if l = line then 1 else 0
  | .rndend mask => if bit mask line then 1 else 0
  | _ => 0

/-- The physical addresses that an act writes. -/
def Act.writes : Act → List Nat
  | .store bs => bs.map Prod.fst
  | .stver bs _ _ => bs.map Prod.fst
  | .atomic _ _ pa _ _ _ => [pa]
  | .notify pa _ => [pa]
  | _ => []

def Act.isEngine : Act → Bool
  | .engine .. => true
  | _ => false

/-- Every act of the block can proceed (R95). -/
def State.canCommit (s : State) (r : Nat) (b : Block) : Bool :=
  let q := (s.reg r).seq
  let acts := b.acts.map Prod.snd
  decide (q.outstanding.length + (acts.filter Act.isEngine).length ≤ 64)
    && (upTo 8).all (fun l =>
      let new := (acts.map (fun a => a.lineTokens l)).foldl (· + ·) 0
      new == 0 || decide ((q.ctlq.getD l []).length + new ≤ 8))
    && !acts.any (fun a => a.writes.any s.vatLocked)

/-- The exit that leaves the block: of those that hold the one of lowest index (R95). -/
def Block.exit (b : Block) : Option Exit :=
  match b.exits with
  | [] => none
  | e :: es => some (es.foldl (fun m x => if x.index < m.index then x else m) e)

/-- Registers, predicates, control registers and the next address after a block's commit. -/
def Seq.committed (q : Seq) (b : Block) (e : Exit) : Seq :=
  let b := if e.call then b.late e.pos 63 (dw (b.addr + 4 * b.words.length)) else b
  { q.endBlock with
    g := b.gw.foldr (fun w m => m.put w.1 w.2.val) q.g
    p := b.pw.foldr (fun w m => m.put w.1 w.2.1) q.p
    csrs := { b.csrs with capvec := q.csrs.capvec &&& ~~~b.capClear }
    pc := e.target }

/-- The checkpoint of a region's sequencer as it stands (R351). -/
def Region.checkpoint (x : Region) : Checkpoint :=
  { g := x.seq.g, p := x.seq.p, pc := x.seq.pc, round := x.seq.csrs.round, fpass := x.seq.csrs.fpass,
    handler := x.seq.csrs.handler, stop := x.fab.stop, armed := x.seq.armed, loaded := x.seq.loaded }

/-- Checkpoint n recorded: that of the round that begins. -/
def Region.record (x : Region) : Region :=
  { x with seq := { x.seq with checkpoints := x.seq.checkpoints.put x.seq.csrs.round.toNat x.checkpoint } }

/-- A block commits: its acts in block order, then its registers and its exit; a block that ends a round records the
next checkpoint, and trap words act last. -/
def State.commitBlock (s : State) (r : Nat) (b : Block) (e : Exit) : State :=
  let round := (s.reg r).seq.csrs.round
  let (s, b) := b.acts.foldl (fun (sb : State × Block) a => sb.1.doAct r sb.2 a.1 a.2) (s, b)
  let s := s.updSeq r (fun q => q.committed b e)
  let s := if b.csrs.round = round then s else s.updReg r Region.record
  b.acts.foldl (fun s a => s.trapAct r round a.2) s

/-- A byte that a read behind an act of the block saw has changed since. -/
def Block.stale (b : Block) (m : Memory) : Bool := b.seen.any (fun x => m.read x.1 != x.2)

/-- The block as it stood before its first read behind an act: that part of it fires anew. -/
def Block.back (b : Block) : Block :=
  { b with toProgress := b.mark.getD b.toProgress, seen := [], mark := none }

/-- A block whose words have all fired commits whole, is discarded whole, or waits (R95, R96). Its reads behind an act of
its own hold at the commit, or fire again (R287, R292). -/
def execBlockCommit (r : Nat) (s : State) : Answer :=
  match (s.reg r).seq.block with
  | none => .next s
  | some b =>
    if b.idx < b.words.length then .next s
    else
      match b.cause, b.exit with
      | some t, _ => .next ((s.freeSlots b.slots).blockCause r t)
      | none, some e =>
        if !s.canCommit r b then .next s
        else if b.stale s.mem then .next (s.updSeq r (fun q => { q with block := some b.back }))
        else .next (s.commitBlock r b e)
      | none, none => .next s

end Sys2Proof.Machine
end

