-- ==== Sys2Proof/Machine/Kmac.lean ====
section
/-! DEFINITION. KMAC256 (R61, R69), the function that the manual names and does not lay down: Keccak with 24 rounds
and a rate of 136 bytes, as NIST defines it (log entry 9). -/

namespace Sys2Proof.Machine

/-- Rotation amounts of the 25 lanes, lane x + 5y at place x + 5y. -/
def keccakRot : List Nat :=
  [0, 1, 62, 28, 27, 36, 44, 6, 55, 20, 3, 10, 43, 25, 39, 41, 45, 15, 21, 8, 18, 2, 61, 56, 14]

/-- Round constants. -/
def keccakRc : List Nat :=
  [0x0000000000000001, 0x0000000000008082, 0x800000000000808A, 0x8000000080008000, 0x000000000000808B,
   0x0000000080000001, 0x8000000080008081, 0x8000000000008009, 0x000000000000008A, 0x0000000000000088,
   0x0000000080008009, 0x000000008000000A]
  ++ [0x000000008000808B, 0x800000000000008B, 0x8000000000008089, 0x8000000000008003, 0x8000000000008002,
   0x8000000000000080, 0x000000000000800A, 0x800000008000000A, 0x8000000080008081, 0x8000000000008080,
   0x0000000080000001, 0x8000000080008008]

/-- Lane i of a state. -/
def keccakLane (a : List DWord) (i : Nat) : DWord := a.getD i 0#64

/-- One round. -/
def keccakRound (a : List DWord) (rc : Nat) : List DWord :=
  let col := (upTo 5).map (fun x => (upTo 5).foldl (fun c y => c ^^^ keccakLane a (x + 5 * y)) 0#64)
  let d := (upTo 5).map (fun x => keccakLane col ((x + 4) % 5) ^^^ (keccakLane col ((x + 1) % 5)).rotateLeft 1)
  let a := (upTo 25).map (fun i => keccakLane a i ^^^ keccakLane d (i % 5))
  -- lane (x, y) of the permuted state comes from lane (x + 3y, x) of the old one
  let b := (upTo 25).map (fun i =>
    let j := (i % 5 + 3 * (i / 5)) % 5 + 5 * (i % 5)
    (keccakLane a j).rotateLeft (keccakRot.getD j 0))
  let c := (upTo 25).map (fun i =>
    keccakLane b i ^^^ (~~~keccakLane b ((i + 1) % 5 + 5 * (i / 5)) &&& keccakLane b ((i + 2) % 5 + 5 * (i / 5))))
  c.set 0 (keccakLane c 0 ^^^ BitVec.ofNat 64 rc)

/-- The permutation. -/
def keccakF (a : List DWord) : List DWord := keccakRc.foldl keccakRound a

/-- Blocks of 136 bytes absorbed. -/
def keccakAbsorb : Nat → List DWord → List Byte → List DWord
  | 0, a, _ => a
  | n + 1, a, bs =>
    let a := (upTo 25).map (fun i =>
      if i < 17 then keccakLane a i ^^^ BitVec.ofNat 64 (leNat ((bs.drop (8 * i)).take 8)) else keccakLane a i)
    keccakAbsorb n (keccakF a) (bs.drop 136)

/-- Bytes filled with zeros to a multiple of 136. -/
def padRate (bs : List Byte) : List Byte := bs ++ List.replicate ((136 - bs.length % 136) % 136) 0#8

/-- The first n bytes (n at most 136) of a sponge of rate 136 over a message with a domain byte. -/
def sponge (dom : Byte) (msg : List Byte) (n : Nat) : List Byte :=
  let p := padRate (msg ++ [dom])
  let p := p.set (p.length - 1) (p.getD (p.length - 1) 0#8 ^^^ 0x80#8)
  let a := keccakAbsorb (p.length / 136) (List.replicate 25 0#64) p
  (a.flatMap (fun w => leBytes w.toNat 8)).take n

/-- A length as its bytes, most significant first, at least one. -/
def beBytes (x : Nat) : List Byte :=
  (leBytes x (Nat.log2 x / 8 + 1)).reverse

def leftEncode (x : Nat) : List Byte := BitVec.ofNat 8 (beBytes x).length :: beBytes x
def rightEncode (x : Nat) : List Byte := beBytes x ++ [BitVec.ofNat 8 (beBytes x).length]

/-- A string behind its length in bits. -/
def encodeString (bs : List Byte) : List Byte := leftEncode (8 * bs.length) ++ bs

/-- The bytes of an ASCII string. -/
def ascii (s : String) : List Byte := s.toList.map (fun c => BitVec.ofNat 8 c.toNat)

/-- KMAC256 of a message, with an output of 128 bits. -/
def kmac128 (key : BitVec 256) (custom : String) (msg : List Byte) : BitVec 128 :=
  let head := padRate (leftEncode 136 ++ encodeString (ascii "KMAC") ++ encodeString (ascii custom))
  let k := padRate (leftEncode 136 ++ encodeString (leBytes key.toNat 32))
  BitVec.ofNat 128 (leNat (sponge 0x04#8 (head ++ k ++ msg ++ rightEncode 128) 16))

end Sys2Proof.Machine
end

