-- ==== Sys2Proof/Machine/Records.lean ====
section
/-! DEFINITION. Completion records (R29, R30): what Derrick and the couch unit write into the nodes of a job. -/

namespace Sys2Proof.Machine

/-- Bytes of a job's virtual memory as Derrick reads them, page by page; zero where nothing is mapped. -/
def State.peek (s : State) (job : Nat) : Nat → Nat → Nat → List Byte
  | 0, _, _ => []
  | fuel + 1, va, n =>
    if n = 0 then []
    else
      let k := pageSpan va n
      (match s.walk job va with
        | .leaf l => s.mem.readBytes l.pa k
        | _ => List.replicate k 0#8) ++ s.peek job fuel (va + k) (n - k)

/-- A doubleword of a job's memory. -/
def State.peekD (s : State) (job va : Nat) : Nat := leNat (s.peek job 2 va 8)

/-- Bytes written into a job's virtual memory by Derrick; a page that is not mapped takes nothing. -/
def State.poke (s : State) (job : Nat) : Nat → Nat → List Byte → State
  | 0, _, _ => s
  | fuel + 1, va, bs =>
    if bs.isEmpty then s
    else
      let k := pageSpan va bs.length
      (match s.walk job va with
        | .leaf l => s.storeBytes l.pa (bs.take k)
        | _ => s).poke job fuel (va + k) (bs.drop k)

def State.pokeD (s : State) (job va x : Nat) : State := s.poke job 2 va (leBytes x 8)

/-- Package time in ns (R29, R373). -/
def State.stamp (s : State) : Nat := s.time * 10 / 1309 % 2 ^ 64

/-- A bit field of a doubleword replaced. -/
def putBits (w lo n x : Nat) : Nat := w - bits w lo n * 2 ^ lo + x % 2 ^ n * 2 ^ lo

/-- STATE of a node's record as it stands. -/
def State.nodeState (s : State) (job node : Nat) : Nat := bits (s.peekD job (node + 0x60)) 60 4

/-- STATE of a node, with STAMP (R29). -/
def State.writeState (s : State) (job node st : Nat) : State :=
  (s.pokeD job (node + 0x60) (putBits (s.peekD job (node + 0x60)) 60 4 st)).pokeD job (node + 0x70) s.stamp

/-- Derrick writes a STATE; one that stands already is no change, and STAMP stays (R29, R72). -/
def State.setNode (s : State) (job node st : Nat) : State :=
  if s.nodeState job node = st then s else (s.note (.state job node st)).writeState job node st

/-- CAUSE and FTAG of a node, and its STATE (R29). -/
def State.failNode (s : State) (job node st cause : Nat) (tag : BitVec 24) : State :=
  let w := s.peekD job (node + 0x60)
  ((s.note (.state job node st)).pokeD job (node + 0x60)
    (putBits (putBits (putBits w 60 4 st) 48 8 cause) 0 24 tag.toNat)).pokeD job (node + 0x70) s.stamp

/-- A node in a final state (R30). -/
def State.nodeFinal (s : State) (job node : Nat) : Bool := decide (4 ≤ s.nodeState job node ∧ s.nodeState job node ≤ 6)

/-- NPRE (bit offset 48) or NRELA (32) counted, saturating (R29). -/
def State.countNode (s : State) (job node off : Nat) : State :=
  let w := s.peekD job (node + 0x78)
  let n := bits w off 16
  s.pokeD job (node + 0x78) (putBits w off 16 (if n < 65535 then n + 1 else n))

end Sys2Proof.Machine
end

