-- ==== Sys2Proof/Machine/Report.lean ====
section
/-! DEFINITION. Work queues as S and Derrick use them, launch reports and the states of a launch (R59 to R61, R65, R68,
R69). -/

namespace Sys2Proof.Machine

/-! ### Descriptors (R59) -/

/-- A field of a queue descriptor. -/
def WQueue.f (q : WQueue) (k lo n : Nat) : Nat := bits (q.words.getD k 0#64).toNat lo n

/-- A field written. -/
def WQueue.setF (q : WQueue) (k lo n x : Nat) : WQueue :=
  let ws := q.words ++ List.replicate (8 - q.words.length) 0#64
  { q with words := ws.set k (dw (putBits (ws.getD k 0#64).toNat lo n x)) }

def WQueue.ring (q : WQueue) : Nat := q.f 0 0 57
def WQueue.lgSlots (q : WQueue) : Nat := q.f 1 59 5
def WQueue.enable (q : WQueue) : Bool := q.f 1 55 1 == 1
def WQueue.inOrder (q : WQueue) : Bool := q.f 1 54 1 == 1
def WQueue.tail (q : WQueue) : Nat := q.f 2 32 32
def WQueue.head (q : WQueue) : Nat := q.f 2 0 32
def WQueue.lastSeq (q : WQueue) : Nat := q.f 3 16 48
def WQueue.remote (q : WQueue) : Bool := q.f 7 41 1 == 1

/-- The path and source chip are allowed (R62, check 2). -/
def WQueue.allows (q : WQueue) (p : Path) (src : BitVec 22) : Bool :=
  (match p with
    | .localPath => q.f 1 58 1 == 1
    | .ualink => q.f 1 57 1 == 1
    | .ethernet => q.f 1 56 1 == 1) && (q.f 1 53 1 == 1 || q.f 1 31 22 == src.toNat)

/-- A counter of the descriptor counted, saturating. -/
def WQueue.count (q : WQueue) (k lo n : Nat) : WQueue :=
  let v := q.f k lo n
  if v + 1 < 2 ^ n then q.setF k lo n (v + 1) else q

def State.queue (s : State) (q : Nat) : WQueue := s.sup.queues.getD q .init

def State.updQueue (s : State) (q : Nat) (f : WQueue → WQueue) : State :=
  s.updSup (fun p => { p with queues := p.queues.modify q f })

/-! ### Memory of a queue's address space (R59, log entry 6) -/

/-- The key of the record that stands for a queue's own address space while Derrick uses it. -/
def queueSpace : Nat := 2 ^ 64

/-- The state with the address space of a queue under that key. -/
def State.inSpace (s : State) (root : Nat) : State :=
  { s with jobs := s.jobs.put queueSpace { Job.init with root := root } }

/-- Bytes of a queue's address space. -/
def State.peekQ (s : State) (q va n : Nat) : List Byte :=
  (s.inSpace (s.queue q).root).peek queueSpace (n / 4096 + 2) va n

/-- Bytes written into a queue's address space. -/
def State.pokeQ (s : State) (q va : Nat) (bs : List Byte) : State :=
  let s' := (s.inSpace (s.queue q).root).poke queueSpace (bs.length / 4096 + 2) va bs
  { s' with jobs := s'.jobs.del queueSpace }

/-- The packet counted k (R59). -/
def State.packetBytes (s : State) (q k : Nat) : List Byte :=
  let d := s.queue q
  s.peekQ q (d.ring + 64 * (k % 2 ^ d.lgSlots)) 64

/-! ### Tags (R61, R69) -/

/-- The bytes of the two first doublewords and the source chip. -/
def tagHead (dw0 dw1 : DWord) (chip : BitVec 22) : List Byte :=
  leBytes dw0.toNat 8 ++ leBytes dw1.toNat 8 ++ leBytes chip.toNat 8

/-- The tag of a report message. -/
def reportTag (key : BitVec 256) (dw0 dw1 : DWord) (chip : BitVec 22) (body : List Byte) : BitVec 128 :=
  kmac128 key "VSQ4 REPORT" (tagHead dw0 dw1 chip ++ body)

/-! ### Reports (R68, R69) -/

/-- A report appended to a queue's ring: the slot, then the count. -/
def State.ringAppend (s : State) (q : Nat) (body : List Byte) : State :=
  let d := s.queue q
  let base := d.f 6 0 57
  let k := leNat (s.peekQ q base 8)
  (s.pokeQ q (base + 64 + 64 * (k % 2 ^ d.f 7 23 5)) body).pokeQ q base (leBytes ((k + 1) % 2 ^ 64) 8)

/-- A report of 64 bytes to a queue's report target; a package without a chip number sends none (R415). After 2^48 - 1
REPSEQ goes on with 0 (log 83). -/
def State.sendReport (s : State) (q : Nat) (words : List DWord) : State :=
  let d := s.queue q
  let body := words.flatMap (fun w => leBytes w.toNat 8)
  let num := BitVec.ofNat 512 (leNat body)
  if !s.nvm.chipOk then s
  else if d.remote then
    let seq := (d.f 5 16 48 + 1) % 2 ^ 48
    let dw0 := dw (seq * 2 ^ 16 + d.f 7 28 12)
    let m : OutMsg := .report (BitVec.ofNat 22 (d.f 7 42 22)) (d.f 7 28 12) (d.f 7 40 1 == 1) dw0 num
      (reportTag (d.key.getD 0#256) dw0 0#64 s.nvm.chip body)
    ((s.note (.report m)).updQueue q (fun d => d.setF 5 16 48 seq)).emit m
  else ((s.note (.report (.localReport q num))).ringAppend q body).emit (.localReport q num)

/-- A launch report (R68). -/
def State.launchReport (s : State) (q : Nat) (lid : Word) (st : Nat) (cause : BitVec 8) (orig : BitVec 22) (rcb : Nat)
    (info : List DWord) : State :=
  s.sendReport q
    ([dw (0x81 * 2 ^ 56 + st * 2 ^ 52 + cause.toNat * 2 ^ 40 + lid.toNat), dw (orig.toNat * 2 ^ 42 + q), dw rcb]
      ++ (upTo 4).map (fun k => info.getD k 0#64) ++ [dw s.stamp])

/-- The TRAPINFO fields of a job's last failure. -/
def Job.infos (j : Job) : List DWord := (upTo 4).map (fun k => j.info.getD k 0#64)

/-- A report of a job as it stands. -/
def State.reportJob (s : State) (j : Nat) : State :=
  let x := s.job j
  s.launchReport x.queue x.lid x.state x.cause x.origChip x.rcb x.infos

def Job.final (j : Job) : Bool := decide (4 ≤ j.state)

/-! ### Dependences (R66) -/

/-- How a dependence stands: some true holds, some false never can (R66). -/
def State.depState (s : State) (q : Nat) (d : Word × Bool) : Option Bool :=
  let live := List.find? (fun j => j.2.queue == q && j.2.lid == d.1 && !j.2.final) s.jobs
  match live with
  | some _ => none
  | none =>
    let past := List.find? (fun j => j.2.queue == q && j.2.lid == d.1 && j.2.final) s.jobs.reverse
    match past with
    | some j => if j.2.state = 4 then some true else some d.2
    | none => none

/-- Every dependence of a launch holds. -/
def State.depsHold (s : State) (j : Nat) : Bool :=
  (s.job j).deps.all (fun d => s.depState (s.job j).queue d == some true)

/-- Launches whose dependences have come to hold begin to wait (R66). -/
def State.markSince (s : State) : State :=
  s.jobs.keys.foldl (fun s j =>
    let x := s.job j
    if x.state = 1 ∧ x.since = 0 ∧ s.depsHold j = true then s.updJob j (fun y => { y with since := max 1 s.time }) else s) s

/-- A final launch leaves the launch table; its queue keeps the 256 latest outcomes (R65), and launches that waited
for it may begin to wait for benches (R66). -/
def State.retain (s : State) (j : Nat) : State :=
  let x := s.job j
  (s.updQueue x.queue (fun q =>
    let old := q.outcomes.filter (fun o => o.1 != x.lid)
    { q with outcomes := old.drop (old.length - 255) ++ [(x.lid, x.state, x.cause, x.infos)] })).markSince

/-- NOTIFY of the job node's effective POLICY (R21). -/
def Job.notifies (j : Job) : Bool := bit (j.node j.rcb).eff.policy 8

/-- A job takes a state: record, report, and when it is final its outcome (R29, R30, R65, R68). `told` says whether
the change is reported without NOTIFY; one event is one report. -/
def State.jobState (s : State) (j st cause : Nat) (tag : BitVec 24) (info : List DWord) (told : Bool) : State :=
  let x := s.job j
  if x.final || !(s.jobs.find? j).isSome then s
  else
    let s := s.updJob j (fun y => { y with
      state := st
      cause := BitVec.ofNat 8 cause
      info := info.zipIdx.foldl (fun m p => m.set 0#64 p.2 p.1) ([] : FMap DWord) })
    let s := if st = 5 ∨ st = 6 then s.failNode j x.rcb st cause tag else if st = x.state then s else s.setNode j x.rcb st
    let s := if told || decide (4 ≤ st) && (s.job j).notifies then s.reportJob j else s
    let s := s.updSup (fun p => { p with resDirty := true })
    if 4 ≤ st then s.retain j else s

/-! ### Gangs (R27, R28, R363) -/

/-- Package time of a millisecond. -/
def msUnits : Nat := 130900000

def TNode.gcount (n : TNode) : Nat := bits (n.word 5) 8 24
def TNode.gang (n : TNode) : Nat := bits (n.word 5) 32 32
def TNode.gindex (n : TNode) : Nat := bits (n.word 6) 40 24
/-- GTIME in ms; 0 selects 1,000. -/
def TNode.gtime (n : TNode) : Nat := if bits (n.word 6) 24 16 = 0 then 1000 else bits (n.word 6) 24 16
/-- COUPLE of the effective POLICY (R21). -/
def TNode.couples (n : TNode) : Bool := bit n.eff.policy 13
/-- GFAIL of the effective POLICY (R21). -/
def TNode.gfail (n : TNode) : Nat := bits n.eff.policy 11 2

/-- The gang members that a job holds: its own node and its graphs with a GCOUNT (R27). -/
def Job.seats (j : Job) : FMap Seat :=
  ((j.rcb :: (j.node j.rcb).kids).filter (fun a => (j.node a).gcount != 0)).foldl (fun m a => m.put a .init) []

def Job.seat (j : Job) (a : Nat) : Seat := j.gangs.getD a .init

def State.updSeat (s : State) (j a : Nat) (f : Seat → Seat) : State :=
  s.updJob j (fun x => { x with gangs := x.gangs.modify a f })

/-- The regions under a graph node belong to the gang member at a node. -/
def Job.covers (j : Job) (a graphNode : Nat) : Bool := a == j.rcb || a == graphNode

/-- Other members on this package of the gang that a member belongs to: job and node. -/
def State.gangMates (s : State) (j a : Nat) : List (Nat × Nat) :=
  let n := (s.job j).node a
  s.jobs.flatMap (fun y => if y.2.final then [] else
    (y.2.gangs.keys.filter (fun b => !(y.1 == j && b == a) && (y.2.node b).gang == n.gang
      && (y.2.node b).gcount == n.gcount)).map (fun b => (y.1, b)))

/-- A report to every member of the gang: over the links, and at once to members on this package. -/
def State.tellGang (s : State) (j a : Nat) (m : GangReport) (mate : State → Nat × Nat → State) : State :=
  (s.gangMates j a).foldl mate (s.emit (.gang j a m))

/-- A region of a coupled gang's member has ended in STATE 5: Derrick tells the gang (R363). -/
def State.gangAlarm (s : State) (j : Nat) : State :=
  if (s.job j).gangs.keys.any (fun a => ((s.job j).node a).couples) then s.now (.gangMemberFailure j) else s

end Sys2Proof.Machine
end

