-- ==== Sys2Proof/Machine/Round.lean ====
section
/-! DEFINITION. Rounds of a graph: the void and the hold (R352, R353), error repair (R356) and the commit (R383 to
R387). -/

namespace Sys2Proof.Machine

/-- A round that a void of round n discards: n, or a later one. -/
def voids (n t : BitVec 24) : Bool := atOrBefore n t

/-! ### What a void restores -/

/-- A voter at a void: the tokens of the voided rounds leave its window, and F and the copies' counts go back before
them (R256, R352). -/
def Voter.void (x : Voter) (n : BitVec 24) : Voter :=
  let w := x.window.filter (fun t => !voids n t.round)
  let f := x.forwarded - (x.window.length - w.length)
  { x with window := w, forwarded := f, consumed := x.consumed.map (fun c => if f < c then f else c) }

/-- The first slot of a wheel that some test finds. -/
def ElemRec.slotOf (x : ElemRec) (f : Instr → Bool) : Option Slot :=
  x.wheel.findSome? (fun u => (List.find? (fun t => f t.2.op) u.2.slots).map Prod.snd)

/-- An accumulator works on a voided round: the current round of its input is one (R236, R352). -/
def Element.accVoid (el : Element) (x : ElemRec) (n : BitVec 24) (k : Nat) : Bool :=
  match x.slotOf (fun i => match i with | .csacc j _ _ _ => j.val == k | _ => false) with
  | some ⟨.csacc _ _ (.ch c) _, _⟩ => voids n (el.inRound.getD c.val el.round0)
  | _ => true

/-- A header whose indices are being handed out belongs to a voided round: the token at the head of its input, or the
round of the kernel that holds it in a register. -/
def Element.headerVoid (el : Element) (x : ElemRec) (n : BitVec 24) (key : Nat) : Bool :=
  if key < 32 then (el.bufs.getD key []).head?.all (fun t => voids n t.round)
  else
    match x.slotOf (fun i => match i with
      | .sphdr _ _ (.v r) | .sptree _ _ (.v r) => 32 + r.val == key
      | _ => false) with
    | some t => voids n (el.ctxs.getD t.ksel .init).cround
    | none => true

/-- An element at a void of round n (R203, R236, R171, R352): contexts and generators return to the start of the
round, accumulators to zero, and tokens and results of the voided rounds are gone. -/
def Element.void (el : Element) (x : ElemRec) (n : BitVec 24) : Element :=
  let keep (t : Token) : Bool := !voids n t.round
  let back (r : BitVec 24) : BitVec 24 := if voids n r then n else r
  { el with
    ctxs := (el.ctxAt.getD n.toNat []).foldl (fun m c => m.put c.1 c.2) el.ctxs
    ctxAt := el.ctxAt.filter (fun c => c.1 != (n + 1).toNat)
    gens := el.gens.mapVal (fun g y =>
      match (el.genAt.getD n.toNat []).find? g with
      | some p => { y with pos := p, exh := decide (genCount y.win y.descr ≤ p) }
      | none => y)
    genAt := el.genAt.filter (fun c => c.1 != (n + 1).toNat)
    accs := el.accs.filter (fun a => !el.accVoid x n a.1)
    roundFlags := el.roundFlags.filter (fun f => !voids n (BitVec.ofNat 24 f.1))
    bufs := el.bufs.mapVal (fun _ b => b.filter keep)
    pipe := el.pipe.filter (fun p => keep p.tok)
    logs := el.logs.filter (fun l => !voids n l.round)
    voter := el.voter.void n
    sparse := el.sparse.filter (fun p => !el.headerVoid x n p.1)
    passed := el.passed.filter (fun k => !voids n (el.ctxs.getD k .init).cround)
    inRound := el.inRound.mapVal (fun _ r => back r)
    round0 := back el.round0 }

/-- A memory port and its owner at a void (R236, R247, R250, R251). -/
def Port.void (p : Port) (n : BitVec 24) : Port :=
  { p with
    reqs := p.reqs.filter (fun q => !voids n q.round)
    pins := p.pins.filter (fun q => !voids n (BitVec.ofNat 24 q.1))
    owner := { p.owner with
      window := p.owner.window.filter (fun w => !voids n w.tok.round)
      lastTag := p.owner.lastTag.filter (fun t => !voids n (BitVec.ofNat 24 (t.1 / 32)))
      round := if voids n p.owner.round then n else p.owner.round
      undo := p.owner.undo.filter (fun u => !voids n (BitVec.ofNat 24 u.1))
      out := p.owner.out.filter (fun t => !voids n t.round)
      done := p.owner.done.filter (fun d => !voids n d) } }

/-- A node has begun round n: MROUND has reached it, or no VWAIT ever moves MROUND (R279). -/
def Bench.nodeIn (y : Bench) (n : BitVec 24) : Bool := !y.plane.waits || voids n y.node.mround

/-- A matrix node at a void (R265): RP, MROW and STOP return, while what VMAP has set stands. A node that has not begun
the round keeps its own. -/
def Node.void (x : Node) (begun : Bool) (n : BitVec 24) : Node :=
  let (rows, mrow, stop) := x.rowsAt.getD n.toNat (x.rows, x.mrow, x.stop)
  let x := if begun then
      { x with
        rows := x.rows.mapVal (fun g p => { p with rp := (rows.getD g .init).rp })
        mrow := mrow, stop := stop, goArmed := false, quiesced := false, mround := n, dtag := 0#24 }
    else x
  { x with
    drains := x.drains.filter (fun d => !voids n d.round)
    rowsAt := x.rowsAt.filter (fun q => q.1 != (n + 1).toNat)
    scaleBufs := x.scaleBufs.mapVal (fun _ b => b.filter (fun t => !voids n t.round))
    logs := x.logs.filter (fun l => !voids n l.round) }

/-- The entries of a sheet's queue up to the last one that an earlier round has left. -/
def keepTo (p : SheetOp → Bool) : List SheetOp → List SheetOp
  | [] => []
  | o :: rest => if (o :: rest).any p then o :: keepTo p rest else []

/-- A sheet at a void in an unfrozen cycle: latches, scales and metadata stand (R265). Drains and punctuation of rounds
that have committed, by nodes whose VWAIT moves MROUND, still land, and the sheet resets behind them. -/
def Sheet.void (x : Sheet) (now : Nat) (p : SheetOp → Bool) : Sheet :=
  match keepTo p x.queue with
  | [] => { x with acc := csZero, buf := csZeros, bufErr := [], sfmt := false, serr := false, queue := [], lastMerge := 0 }
  | q => { x with queue := q, lastMerge := (q.map SheetOp.due).foldl max 0 }.enqueue now .reset

/-- The sequencer at a void: it restores its checkpoint, unless a handler runs (R348, R352). -/
def Seq.void (q : Seq) (n : BitVec 24) : Seq :=
  let q := if q.csrs.priv then { q with deferred := some n } else q.restore n
  { q with
    checkpoints := q.checkpoints.filter (fun c => c.1 != (n + 1).toNat)
    ctlq := q.ctlq.mapVal (fun _ l => l.filter (fun t => !voids n t.2.round))
    hold := { q.hold with ended := q.hold.ended && precedes q.hold.endedIn n } }

/-- The stop bit returns with a restored checkpoint (R351). -/
def Region.restoreStop (x : Region) (n : BitVec 24) : Region :=
  match x.seq.checkpoints.find? n.toNat with
  | some c => if x.seq.csrs.priv then x else { x with fab := { x.fab with stop := c.stop } }
  | none => x

/-- A drain or punctuation of a round before n, by a bench whose VWAIT moves MROUND. -/
def Region.landsBefore (x : Region) (n : BitVec 24) : SheetOp → Bool
  | .drain b _ _ _ _ _ _ round _ _ => (x.bench b).plane.waits && !voids n round
  | .punct b _ t _ => (x.bench b).plane.waits && !voids n t.round
  | _ => false

/-- A region at a void of round n, but for its planes. -/
def Region.void (x : Region) (n : BitVec 24) : Region :=
  let x := x.restoreStop n
  { x with
    benches := x.benches.mapVal (fun _ y =>
      { y with
        elems := y.elems.mapVal (fun i e => e.void (y.rec_ i) n)
        port := y.port.void n
        node := y.node.void (y.nodeIn n) n })
    sheets := x.sheets.mapVal (fun k s =>
      if x.benches.all (fun y => y.2.nodeIn n || !y.2.plane.sheets.any (fun e => x.sheetKey y.1 e.2 == k)) then s.void x.fab.ucycle (x.landsBefore n) else s)
    seq := x.seq.void n
    fab := { x.fab with
      phase := 0, freeze := { x.fab.freeze with frozen := false }, budget := 0, issues := [], recvs := [], reads := []
      lines := x.fab.lines.filter (fun l => !voids n l.2.2.round) }
    reps := x.reps.filter (fun p => !voids n p.round)
    kernels := x.kernels.mapVal (fun _ k => { k with issued := k.issued.filter (fun i => !voids n (BitVec.ofNat 24 i.1)) }) }

/-- Undo logs of an owner written back: round n + 1 first, then round n (R251). -/
def State.undoOwner (s : State) (r b : Nat) (n : BitVec 24) : State :=
  let o := (s.port r b).owner
  let job := (s.reg r).job
  let back (s : State) (n : BitVec 24) : State :=
    (o.undo.getD n.toNat []).foldl (fun s l => s.poke job 1 l.1 l.2) s
  back (back s (n + 1)) n

/-- A void of the parked accesses of a region: entries become probes, waiting ones are gone (R216). -/
def State.voidParked (s : State) (r : Nat) (n : BitVec 24) : State :=
  s.updDie (s.reg r).place.die (fun d =>
    { d with
      parked := d.parked.mapVal (fun _ p => if p.region = r && voids n p.round then { p with probe := true } else p)
      parkWait := d.parkWait.filter (fun p => !(p.region == r && voids n p.round)) })

/-- Engine commands of the voided rounds: those that write versioned pages stop (R318). -/
def State.voidEngines (s : State) (r : Nat) (n : BitVec 24) : State :=
  { s with dies := s.dies.mapVal (fun _ d =>
      { d with engines := d.engines.mapVal (fun _ e =>
          if e.region = r && voids n e.round then { e with voided := true } else e) }) }

/-- Planes at a void (R352): a folded region refills contexts 0 and 1, unless the boundary that the void makes gives it
another image (R87); a switch that round n ended is undone. -/
def State.voidPlanes (s : State) (r : Nat) (n : BitVec 24) : State :=
  let x := s.reg r
  if 0 < x.place.fold then
    if x.shape.isSome then s.updReg r (fun x => { x with switching := none, owed := [] })
    else (s.updReg r (fun x => { x with switching := none, owed := [], refill := 1 })).startFill r x.place.img 0
  else
    match x.switching with
    | some w =>
      if w.round == n && (w.done || w.start.any (fun c => decide (c + 1 ≤ s.cycle))) then
        (s.exchange r n).updReg r (fun x => { x with switching := none })
      else if voids n w.round then s.updReg r (fun x => { x with switching := none })
      else s
    | none => s

/-- Tokens of the voided rounds leave the elastic channels, and their credits are on their way back (R352). -/
def State.voidChannels (s : State) (g : Nat) (n : BitVec 24) : State :=
  let pipes (c : Elastic) : Nat :=
    let (r, b, e, ch) := c.src
    ((((s.reg r).bench b).elem e).pipe.filter (fun p => p.dst == .chan ch && voids n p.tok.round)).length
  let heads (c : Elastic) : Nat :=
    let (r, b, e, ch) := c.dst
    (((((s.reg r).bench b).elem e).bufs.getD ch []).filter (fun t => voids n t.round)).length
  s.updGraph g (fun x => { x with chans := x.chans.mapVal (fun _ c =>
    let lost := (c.flight.filter (fun t => voids n t.2.round)).length + (c.qmem.filter (fun t => voids n t.round)).length
      + pipes c + heads c
    { c with
      flight := c.flight.filter (fun t => !voids n t.2.round)
      qmem := c.qmem.filter (fun t => !voids n t.round)
      back := c.back ++ List.replicate lost (s.cycle + 1) }) })

/-- A bundle, word, scale register or bench part of a region failed its parity and waits for its refill (R353, R365). -/
def Region.parityLost (x : Region) : Bool :=
  x.benches.any (fun y => !y.2.plane.partParity.isEmpty || y.2.elems.any (fun e => !e.2.scaleBad.isEmpty)
    || y.2.plane.elems.any (fun e => e.2.wheel.any (fun u => u.2.parity)))

/-- A plane with its failed entries refilled (R365). -/
def BenchPlane.mend (p : BenchPlane) : BenchPlane :=
  { p with
    partParity := []
    elems := p.elems.mapVal (fun _ e => { e with wheel := e.wheel.mapVal (fun _ u => { u with parity := false }) }) }

/-- A bench with its failed entries refilled, and its failed scale registers at the values of their image (R41, R365). -/
def Bench.mend (y : Bench) : Bench :=
  { y with
    plane := y.plane.mend
    elems := y.elems.mapVal (fun e el => { el with
      scales := el.scaleBad.foldl (fun m n => m.put n ((y.rec_ e).scales.getD n 0#8)) el.scales
      scaleBad := [] }) }

/-- A void of round n of a graph, in one cycle V (R352): from then on the graph is held (R353). -/
def State.voidRound (s : State) (g : Nat) (n : BitVec 24) : State :=
  let rs := (s.graph g).regions
  let s := rs.foldl (fun s r => s.abandon r) s
  let s := s.voidChannels g n
  let s := rs.foldl (fun s r =>
    let s := (s.reg r).benches.foldl (fun s y => s.undoOwner r y.1 n) s
    let s := (s.versRound r (n + 1) false).versRound r n false
    let s := (s.voidParked r n).voidEngines r n
    let s := s.updReg r (fun x => x.void n)
    s.voidPlanes r n) s
  let wait := rs.any (fun r => (s.reg r).parityLost)
  s.updGraph g (fun x => { x with
    held := true, heldFrom := n, raised := [], voidReq := none
    refillUntil := if wait then s.cycle + 384 else x.refillUntil })

/-! ### The hold and the replay (R353) -/

/-- A cause of kind round of a region waits or is being handled. -/
def Seq.roundWaits (q : Seq) : Bool :=
  q.hold.roundTrap || q.pending.any (fun t => t.kind == .round) || q.hold.spill.any (fun t => t.kind == .round)

/-- The replay of a held graph may begin. -/
def State.mayReplay (s : State) (g : Nat) : Bool :=
  let x := s.graph g
  x.held && x.boundary.isNone && decide (x.refillUntil ≤ s.cycle) && x.regions.all (fun r =>
    let y := s.reg r
    (y.life == .running || y.life == .finished || y.life == .released)
      && !y.seq.roundWaits && !s.hasParked r true && y.refill == 0 && y.switching.all (fun w => w.start.isNone || w.done))

def execReplayStart (g : Nat) (s : State) : Answer :=
  if s.mayReplay g then
    let s := (s.graph g).regions.foldl (fun s r => s.updReg r (fun x =>
      { x with
        benches := x.benches.mapVal (fun _ y => { y.mend with node := { y.node with slot := 0 } })
        fab := { x.fab with phase := 0, budget := 0 } })) s
    .next (s.updGraph g (fun x => { x with held := false }))
  else .next s

/-! ### Reports of a round (R257, R355, R383) -/

/-- The planes under which a region ran round n: after a switch that ended it the shadow planes, for a folded image
every context, else the active planes. -/
def State.roundPlanes (s : State) (r : Nat) (n : BitVec 24) : List (Nat × BenchPlane) :=
  let x := s.reg r
  if 0 < x.place.fold then (s.image r x.place.img).planes.map (fun p => (p.2.1, p.2.2))
  else
    let switched := match x.switching with
      | some w => w.round == n && (w.done || w.start.any (fun c => decide (c + 1 < s.cycle)))
      | none => false
    x.benches.map (fun y => (y.1, if switched then y.2.shadow.plane else y.2.plane))

/-- The exits of a region in round n: number and kernel (R257, R382). -/
def exitsOf (ps : List (Nat × BenchPlane)) : List (Nat × Nat) :=
  (ps.flatMap (fun p => p.2.elems.flatMap (fun e => e.2.wheel.flatMap (fun u => u.2.slots.filterMap (fun t =>
    match t.2.op with
    | .rtag k _ _ => some (k.val, e.2.klist.getD t.2.ksel 255)
    | _ => none))))).eraseDups

/-- Every exit of a region has reported marker n or the switch token of round n. -/
def State.markersIn (s : State) (r : Nat) (n : BitVec 24) : Bool :=
  let x := s.reg r
  (exitsOf (s.roundPlanes r n)).all (fun e =>
    x.reps.any (fun p => p.exit == e.1 && p.round == n && (p.kind == .marker || p.kind == .switch)))

/-- Every owner node of a region has reported round n complete (R250). -/
def State.ownersIn (s : State) (r : Nat) (n : BitVec 24) : Bool :=
  (s.roundPlanes r n).all (fun p =>
    ((p.2.elems.getD 0 .empty).rmw).isNone || ((s.port r p.1).owner.done.contains n))

/-- An engine command of round n that writes versioned pages, or has not yet started, is left (R318). -/
def State.enginesLeft (s : State) (r : Nat) (n : BitVec 24) : Bool :=
  s.dies.any (fun d => d.2.engines.any (fun e =>
    e.2.region == r && (e.2.versioned || !e.2.started) && e.2.round == n))

/-- A store of round n waits in a memory port: the commit is a release of every write of the round (R296). -/
def State.writesLeft (s : State) (r : Nat) (n : BitVec 24) : Bool :=
  (s.reg r).benches.any (fun y => y.2.port.reqs.any (fun q =>
    ReqKind.access q.kind == 1 && q.round == n && q.state != .failed))

/-- The gang members of a graph for which round n is coupled (R28). -/
def State.couplings (s : State) (g : Nat) (n : BitVec 24) : List Nat :=
  let j := s.job (s.graph g).job
  j.gangs.keys.filter (fun a => j.covers a (s.graph g).node && (j.node a).couples
    && (n.toNat + 1) % (bits ((j.node a).word 6) 8 16 + 1) == 0)

/-- Every region of a gang member has reached marker n. -/
def State.memberReached (s : State) (j a : Nat) (n : BitVec 24) : Bool :=
  s.graphs.all (fun y => !(y.2.job == j && (s.job j).covers a y.2.node) || y.2.final != 0 || precedes n y.2.next
    || y.2.regions.all (fun r => (s.reg r).life == .finished || (s.reg r).life == .released || s.markersIn r n))

/-- The latest rounds that the other coupled members of a gang have reached, as reported. -/
def State.othersReached (s : State) (j a : Nat) : List (Option (BitVec 24)) :=
  let t := (s.job j).node a
  let x := (s.job j).seat a
  ((upTo t.gcount).filter (fun i => i != t.gindex && !x.free.contains i)).map (fun i => x.round.find? i)

/-- Every coupled member of the gang has reached marker n of a coupled round: this member, and the others as reported. -/
def State.gangReached (s : State) (g : Nat) (n : BitVec 24) : Bool :=
  let j := (s.graph g).job
  (s.couplings g n).all (fun a => s.memberReached j a n && (s.othersReached j a).all (fun m => m.any (atOrBefore n)))

/-- A round that another member has reached is not ordered with the one that waits for it (R298). -/
def State.gangUnordered (s : State) (g : Nat) (n : BitVec 24) : Option (BitVec 24) :=
  let j := (s.graph g).job
  (s.couplings g n).findSome? (fun a =>
    if s.memberReached j a n then (s.othersReached j a).findSome? (fun m => m.filter (unordered n)) else none)

/-- Conditions 1 to 5 and 7 of R383, and the order of R296. -/
def State.roundDone (s : State) (g : Nat) (n : BitVec 24) : Bool :=
  let x := s.graph g
  (!x.held || precedes n x.heldFrom) && x.regions.any (fun r => (s.reg r).life == .running) && x.regions.all (fun r =>
    let y := s.reg r
    y.life == .finished || y.life == .released || y.life == .running && precedes n y.seq.csrs.round && s.markersIn r n && s.ownersIn r n
      && !s.enginesLeft r n && !s.writesLeft r n) && s.gangReached g n

/-- Tags of round n reported with ERR, with the region that reported each (R356). -/
def State.errTags (s : State) (g : Nat) (n : BitVec 24) : List (Nat × BitVec 24) :=
  (s.graph g).regions.flatMap (fun r =>
    ((s.reg r).reps.filter (fun p => p.err && p.round == n)).map (fun p => (r, p.tag)))

/-! ### Which cause a void records (R347) -/

/-- Of the causes of one cycle: the earliest tag, then the lowest code. -/
def firstRaised : List Raised → Option Raised
  | [] => none
  | x :: xs => some (xs.foldl (fun m y =>
      if precedes y.rec_.tag m.rec_.tag || (y.rec_.tag == m.rec_.tag && decide (y.rec_.cause.toNat < m.rec_.cause.toNat))
      then y else m) x)

/-- The end of a cycle for a graph: its causes void the oldest round that has not committed, or the one behind it when
that one is committing (R345, R352); an expiry of the freeze budget voids the round that was executing (R216). -/
def State.endVoid (s : State) (g : Nat) : State :=
  let x := s.graph g
  let first := if s.roundDone g x.next && (s.errTags g x.next).isEmpty then x.next + 1 else x.next
  match firstRaised x.raised, x.voidReq with
  | some c, req =>
    if x.held then s.updGraph g (fun y => { y with raised := [] })
    else
      let n := if x.raised.all (fun c => c.rec_.cause == 0x47#8) then req.getD first else first
      let s := (s.voidRound g n).pend c.region c.rec_
      (x.raised.filter (fun c => c.rec_.cause == 0x97#8)).foldl (fun s c => s.updSeq c.region Seq.disarm) s
  | none, some n => if x.held then s.updGraph g (fun y => { y with voidReq := none }) else s.voidRound g (if n = x.next then first else n)
  | none, none => s

/-! ### Repair (R356) -/

/-- The units that logs of a region record for some tags of round n (R354, R356). -/
def State.loggedUnits (s : State) (r : Nat) (n : BitVec 24) (tags : List (BitVec 24)) : List HwUnit :=
  let x := s.reg r
  let vat (u : Nat) : List HwUnit :=
    let pa := 64 * u
    if pa / 2 ^ 48 = 2 then
      let o := pa % 2 ^ 46
      [.vatBank (o / (3 * 2 ^ 20)) (o % (3 * 2 ^ 20) / 64 % 16)]
    else []
  (x.benches.flatMap (fun y =>
    y.2.elems.flatMap (fun e => (e.2.logs.filter (fun l => l.round == n && tags.contains l.tag)).flatMap (fun l =>
      if l.stream < 16 then vat l.unit
      else if l.stream = 16 then [.localBank (x.dieBench y.1) e.1 (l.unit / 1024)] else []))
    ++ (y.2.node.logs.filter (fun l => l.round == n)).flatMap (fun l => vat l.unit))).eraseDups

/-- The record of cause 0xA0 for a tag of round n (R356, R367): the first unit that a log of the graph records for it, or
else the first one that a matrix node recorded in the round. -/
def State.loggedRecord (s : State) (rs : List Nat) (n tag : BitVec 24) : TrapRec :=
  let at_ (x : Region) (b e : Nat) : DWord := posWord x.place.die (x.dieBench b) e 0 0 0
  let elems := rs.flatMap (fun r => (s.reg r).benches.flatMap (fun y => y.2.elems.flatMap (fun e =>
    (e.2.logs.filter (fun l => l.round == n && l.tag == tag)).map (fun l =>
      l.record tag 0xA0 false (at_ (s.reg r) y.1 e.1)))))
  let nodes := rs.flatMap (fun r => (s.reg r).benches.flatMap (fun y =>
    (y.2.node.logs.filter (fun l => l.round == n)).map (fun l => l.record tag 0xA0 true (at_ (s.reg r) y.1 15))))
  (elems ++ nodes).headD (roundCause 0xA0 tag 0#64 0#64 0#64 0#64)

/-- The couch unit's act on tags reported with ERR once marker n has reached every exit. -/
def State.repair (s : State) (g : Nat) (n : BitVec 24) (e : List (Nat × BitVec 24)) : State :=
  let x := s.graph g
  let old := x.repaired.getD n.toNat []
  let tags := (e.map Prod.snd).eraseDups
  let shared := e.filter (fun t => old.contains t.2)
  let first (l : List (Nat × BitVec 24)) : Nat × BitVec 24 :=
    l.foldl (fun m t => if precedes t.2 m.2 then t else m) (l.headD (0, 0#24))
  if !shared.isEmpty then
    let units := x.regions.flatMap (fun r => (s.loggedUnits r n (shared.map Prod.snd)).map (fun u => ((s.reg r).place.die, u)))
    let s := (s.voidRound g n).pend (first shared).1 (s.loggedRecord x.regions n (first shared).2)
    units.foldl (fun s u => s.now (.retirementCommand u.1 u.2)) s
  else if 16 < (old ++ tags).eraseDups.length then
    (s.voidRound g n).pend (first e).1 (s.loggedRecord x.regions n (first e).2)
  else
    let s := s.updGraph g (fun y => { y with
      repaired := y.repaired.put n.toNat (old ++ tags)
      reinject := tags })
    (s.voidRound g n).eventRec (first e).1 ⟨0xAA#8, .event, 0#57, (first e).2, dw tags.length, 0#64, 0#64, 0#64, 0⟩

/-! ### Commit (R384 to R387) -/

/-- What a commit of round n drops in an element (R171, R203, R354). -/
def Element.commit (el : Element) (n : BitVec 24) : Element :=
  { el with
    aflags := el.aflags ||| el.roundFlags.getD n.toNat 0#8
    roundFlags := el.roundFlags.filter (fun f => f.1 != n.toNat)
    ctxAt := el.ctxAt.filter (fun c => c.1 != n.toNat)
    genAt := el.genAt.filter (fun c => c.1 != n.toNat)
    logs := el.logs.filter (fun l => l.round != n) }

/-- In a memory port: pins and undo log (R247, R251). -/
def Port.commit (p : Port) (n : BitVec 24) : Port :=
  { p with
    pins := p.pins.filter (fun q => q.1 != n.toNat)
    owner := { p.owner with
      undo := p.owner.undo.filter (fun u => u.1 != n.toNat)
      done := p.owner.done.filter (· != n) } }

/-- A kernel of a region finishes with round n (R386). -/
def Region.finishes (x : Region) (exits : List (Nat × Nat)) (n : BitVec 24) (i : Nat) (k : Kernel) : Bool :=
  let mine := (exits.filter (fun e => e.2 == i)).map Prod.fst
  (!mine.isEmpty && mine.all (fun e => x.reps.any (fun p => p.exit == e && p.kind == .done && p.round == n)))
    || (k.iters != 0 && decide (k.iters ≤ k.itersDone))

/-- A kernel after round n: iterations counted, and whether it has finished. -/
def Region.commitKernel (x : Region) (exits : List (Nat × Nat)) (n : BitVec 24) (i : Nat) (k : Kernel) : Kernel :=
  let k := { k with itersDone := k.itersDone + k.issued.getD n.toNat 0, issued := k.issued.filter (fun t => t.1 != n.toNat) }
  { k with finished := k.finished || x.finishes exits n i k }

/-- A region at the commit of round n (R384, steps 1 and 2). -/
def Region.commit (x : Region) (exits : List (Nat × Nat)) (n : BitVec 24) : Region :=
  { x with
    lastRnd := n
    kernels := x.kernels.mapVal (fun i k => x.commitKernel exits n i k)
    benches := x.benches.mapVal (fun _ y =>
      let z := if x.scrubbed then y.mend else y
      { z with
        elems := z.elems.mapVal (fun _ e => e.commit n)
        port := y.port.commit n
        node := { y.node with
          rowsAt := y.node.rowsAt.filter (fun q => q.1 != n.toNat)
          drains := y.node.drains.filter (fun d => d.round != n)
          logs := y.node.logs.filter (fun l => l.round != n) } })
    seq := { x.seq with checkpoints := x.seq.checkpoints.filter (fun c => c.1 != n.toNat), yielded := false }
    scrubbed := false
    reps := x.reps.filter (fun p => p.round != n || p.kind == .done)
    switching := match x.switching with
      | some w => if w.done && w.round == n then none else some w
      | none => none }

/-- The records of a region's kernels and of the region (R30, R385). -/
def State.recordRegion (s : State) (r : Nat) : State :=
  let x := s.reg r
  let s := x.kernels.foldl (fun s k =>
    let s := s.pokeD x.job (k.2.node + 0x68) k.2.itersDone
    if k.2.finished && s.nodeState x.job k.2.node != 4 then s.writeState x.job k.2.node 4 else s) s
  let done := x.kernels.all (fun k => k.2.finished)
  let s := s.pokeD x.job (x.node + 0x68) ((x.kernels.map (fun k => k.2.itersDone)).foldl (· + ·) 0)
  let w := s.peekD x.job (x.node + 0x60)
  let s := s.pokeD x.job (x.node + 0x60) (putBits (putBits w 24 24 x.lastRnd.toNat) 60 4 (if done then 4 else 2))
  if done then s.pokeD x.job (x.node + 0x70) s.stamp else s

/-- STATE 2 of the nodes made resident, where it is a change: kernels, region, graph and job (R30, R77). -/
def State.markResident (s : State) (r : Nat) : State :=
  let x := s.reg r
  let s := x.kernels.foldl (fun s k => if k.2.finished then s else s.setNode x.job k.2.node 2) s
  let s := s.setNode x.job x.node 2
  let s := s.setNode x.job (s.graph x.graph).node 2
  if (s.job x.job).state = 2 then s else s.jobState x.job 2 0 0#24 [] true

/-- A region's context has been switched in, and its STATE 2 is still to be written (R77). -/
def Region.unrecorded (x : Region) : Bool :=
  !x.recorded && x.life == .running && x.switching.all (fun w => w.done)

/-- STATE 2 of the regions of a graph whose first contexts have been switched in (R77, R361). -/
def State.recordStarts (s : State) (g : Nat) : State :=
  if s.sup.activeDie.isNone then s
  else
    (s.graph g).regions.foldl (fun s r =>
      if (s.reg r).unrecorded then (s.updReg r (fun x => { x with recorded := true })).markResident r else s) s

/-- The regions of a graph, the ones that wait for their first placement included. -/
def State.graphRegions (s : State) (g : Nat) : List (Nat × Region) := s.regions.filter (fun x => x.2.graph == g)

/-- Iterations committed by a region. -/
def Region.itersDone (x : Region) : Nat := (x.kernels.map (fun k => k.2.itersDone)).foldl (· + ·) 0

def Life.done : Life → Bool
  | .finished | .released => true
  | _ => false

/-- The record of a graph whose placed regions have all completed (R30, R385). -/
def State.recordGraph (s : State) (g : Nat) : State :=
  let x := s.graph g
  let rs := s.graphRegions g
  let kids := (((s.job x.job).node x.node).kids.filter (fun a => ((s.job x.job).node a).eff.share != 0)).length
  if x.final = 0 && rs.length == kids && rs.all (fun r => r.2.life.done) then
    ((s.pokeD x.job (x.node + 0x68) ((rs.map (fun r => r.2.itersDone)).foldl (· + ·) 0)).setNode x.job x.node 4).updGraph g
      (fun y => { y with final := 4 })
  else s

/-- The record of a job whose graphs are all final: completed, or failed when one of its graphs failed. -/
def State.recordJob (s : State) (j : Nat) : State :=
  let gs := s.graphs.filter (fun g => g.2.job == j)
  if !gs.isEmpty && gs.all (fun g => g.2.final != 0) && !(s.job j).final then
    let iters := (s.regions.filter (fun r => r.2.job == j)).map (fun r => r.2.itersDone)
    let s := s.pokeD j ((s.job j).rcb + 0x68) (iters.foldl (· + ·) 0)
    match List.find? (fun g => g.2.final == 5) gs with
    | none => s.jobState j 4 0 0#24 [] true
    | some g => s.jobState j 5 g.2.cause 0#24 [] true
  else s

/-- Derrick's records of completed graphs and jobs, while a complex is active (R30, R73). -/
def State.recordEnds (s : State) : State :=
  if s.sup.activeDie.isSome then
    let s := s.graphs.keys.foldl (fun s g => s.recordGraph g) s
    s.jobs.keys.foldl (fun s j => s.recordJob j) s
  else s

/-- A region that has reached STATE 4 stops fetching and waits for its release (R387). -/
def State.finishRegion (s : State) (r : Nat) : State :=
  let x := s.reg r
  if x.kernels.all (fun k => k.2.finished) && x.life == .running then
    ((s.abandon r).updReg r (fun x => { x with
      life := .finished
      seq := { x.seq with hold := { x.seq.hold with quiet := true } } })).now (.regionRelease r)
  else s

/-- Lanes retired in a region's segments are remapped at its round boundary (R261). -/
def State.remapLanes (s : State) (r : Nat) : State :=
  let p := (s.reg r).place
  (p.segs.map (segKey p.die)).foldl (fun s k =>
    if (s.die (k / 64)).laneRemaps.any (fun l => l.1 == k % 64) then s.now (.laneRemap (k / 64) (k % 64)) else s) s

/-- Round n of a graph commits in one cycle (R384). -/
def State.commitRound (s : State) (g : Nat) (n : BitVec 24) : State :=
  let rs := (s.graph g).regions
  let drains := rs.flatMap (fun r => (s.reg r).benches.flatMap (fun y =>
    ((y.2.node.drains.filter (fun d => d.round == n)).mergeSort (fun a b => decide (a.fired ≤ b.fired))).map (fun d => (r, d))))
  let s := rs.foldl (fun s r =>
    let ex := exitsOf (s.roundPlanes r n)
    (s.versRound r n true).updReg r (fun x => x.commit ex n)) s
  let s := s.updGraph g (fun x => { x with next := n + 1, repaired := x.repaired.filter (fun q => q.1 != n.toNat), reinject := [] })
  let s := drains.foldl (fun s d => s.arriveAt (s.reg d.1).job d.2.addr d.1 d.2.st) s
  let s := rs.foldl (fun s r => s.remapLanes r) s
  let s := rs.foldl (fun s r => s.recordRegion r) s
  let s := rs.foldl (fun s r => s.finishRegion r) s
  s.recordEnds

/-- Commit of a graph's oldest round, in the cycle after its conditions hold (R383). -/
def execRoundCommit (g : Nat) (s : State) : Answer :=
  let n := (s.graph g).next
  if s.roundDone g n && (s.errTags g n).isEmpty then .next (s.commitRound g n) else .next s

/-- Every region of a gang member has reached marker n: the other members are told once (R28). -/
def State.tellReached (s : State) (g : Nat) (n : BitVec 24) : State :=
  let j := (s.graph g).job
  (s.couplings g n).foldl (fun s a =>
    let i := ((s.job j).node a).gindex
    let put (x : Seat) : Seat := { x with round := x.round.put i n }
    if s.memberReached j a n && !(((s.job j).seat a).round.find? i).any (atOrBefore n) then
      (s.updSeat j a put).tellGang j a (.reached ((s.job j).node a).gang n) (fun s k => s.updSeat k.1 k.2 put)
    else s) s

/-- The end of a cycle for a graph: causes void; tags reported with ERR are repaired; a complete round commits in the
next cycle. -/
def State.endCycle (s : State) (g : Nat) : State :=
  let s := (s.endVoid g).recordStarts g
  let x := s.graph g
  let n := x.next
  if x.held && !precedes n x.heldFrom || x.regions.isEmpty then s
  else
    let s := s.tellReached g n
    let e := s.errTags g n
    if !e.isEmpty && x.regions.all (fun r => (s.reg r).life.done || s.markersIn r n && !s.writesLeft r n) then s.repair g n e
    else
    match s.gangUnordered g n with
    | some m =>
      (s.voidRound g n).pend (x.regions.headD 0) (roundCause 0x94 0#24 0#64 0#64 0#64 (dw (n.toNat * 2 ^ 24 + m.toNat)))
    | none =>
    if s.roundDone g n && !s.timers.any (fun t => t.2 == .roundCommit g) then s.after 1 (.roundCommit g)
    else s

end Sys2Proof.Machine
end

