-- ==== Sys2Proof/Machine/Tree.lean ====
section
/-! DEFINITION. Region control blocks (R18 to R26): the tree as Derrick reads, checks and copies it at a launch. -/

namespace Sys2Proof.Machine

/-- Bytes of a job's memory are mapped: a walk of every page finds a leaf in a backed frame (R26, R49). -/
def State.mapped (s : State) (job va n : Nat) : Bool :=
  decide (0 < n ∧ va + n ≤ 2 ^ 57) && (pagesOf (n / 4096 + 2) va n).all (fun p =>
    match s.walk job p.1 with
    | .leaf l => s.backed l.pa p.2
    | _ => false)

/-- A node can be read: its address is aligned and not null, and its bytes are mapped. -/
def State.nodeThere (s : State) (job a : Nat) : Bool := a != 0 && a % 128 == 0 && s.mapped job a 128

/-- The sixteen doublewords of a node (R20). -/
def State.nodeWords (s : State) (job a : Nat) : List DWord :=
  let bs := s.peek job 2 a 128
  (upTo 16).map (fun k => dw (leNat ((bs.drop (8 * k)).take 8)))

/-- The entries of an alternatives table (R22). -/
def State.altWords (s : State) (job a n : Nat) : List (Nat × Nat) :=
  (upTo n).map (fun i => (s.peekD job (a + 16 * i), s.peekD job (a + 16 * i + 8)))

/-- An entry of an alternatives table holds no reserved value. -/
def altBad (e : Nat × Nat) : Bool :=
  e.1 == 0 || decide (2 ^ 57 ≤ e.1) || e.2 % 2 ^ 48 != 0 || bits e.2 48 8 == 0 || decide (16 < bits e.2 48 8)

/-! ### The checks of one node (R20 to R22, R26, R29) -/

/-- Fields of a node by its words. -/
def TNode.nchild (n : TNode) : Nat := bits (n.word 0) 8 8
def TNode.nalt (n : TNode) : Nat := bits (n.word 10) 37 3
def TNode.rows (n : TNode) : Nat := bits (n.word 10) 60 4
def TNode.cols (n : TNode) : Nat := bits (n.word 10) 56 4
def TNode.iters (n : TNode) : Nat := bits (n.word 10) 24 40
def TNode.rsize (n : TNode) : Nat := bits (n.word 10) 40 16

/-- A reserved field or value of a node is in use (R20, R21). -/
def TNode.reserved (n : TNode) (lvl : Nat) : Bool :=
  bits (n.word 0) 60 2 != 0 || bits (n.word 0) 16 8 != 0 || bit (n.word 0) 31 || bit (n.word 0) 28
    || [1, 2, 3, 7, 8, 9].any (fun k => decide (2 ^ 57 ≤ n.word k))
    || bits (n.word 4) 32 4 != 0 || decide (1024 < bits (n.word 4) 53 11) || decide (256 < bits (n.word 4) 44 9)
    || n.word 5 % 2 ^ 8 != 0 || n.word 6 % 2 ^ 8 != 0 || n.word 11 % 2 ^ 32 != 0
    || (n.gcount != 0 && decide (n.gcount ≤ n.gindex))
    || (match lvl with
        | 2 => n.word 10 % 2 ^ 37 != 0
        | 3 => n.word 10 % 2 ^ 24 != 0
        | _ => n.word 10 != 0)

/-- A node fails a check of R26 that concerns it alone. -/
def State.nodeBad (s : State) (job : Nat) (n : TNode) (lvl parent : Nat) : Bool :=
  n.word 0 % 2 ^ 8 != 1 || bits (n.word 0) 62 2 != lvl || n.word 1 != parent || n.reserved lvl
    || [12, 13, 14, 15].any (fun k => n.word k != 0)
    || (lvl == 0 && (bits (n.word 0) 32 8 != 0 || n.word 3 != 0))
    || (if lvl = 3 then n.nchild != 0 || n.word 2 != 0 else n.nchild == 0)
    || (if lvl = 2 then
          n.word 8 == 0 || (n.nalt == 0) != (n.word 9 == 0)
            || (n.nalt != 0 && (!s.mapped job (n.word 9) (16 * n.nalt) || (s.altWords job (n.word 9) n.nalt).any altBad))
        else n.word 8 != 0 || n.word 9 != 0)

/-! ### Effective values (R23) -/

/-- The node's own values. -/
def TNode.own (n : TNode) : NodeEff :=
  { benches := bits (n.word 4) 53 11, segs := bits (n.word 4) 44 9, mem := bits (n.word 4) 0 32,
    share := bits (n.word 4) 36 8, prio := bits (n.word 0) 56 4, fdom := bits (n.word 0) 40 16,
    policy := bits (n.word 0) 16 16, handler := n.word 7, rwait := bits (n.word 11) 48 16, freeze := bits (n.word 11) 32 16 }

/-- Effective values under a parent. -/
def TNode.effUnder (n : TNode) (p : NodeEff) : NodeEff :=
  let o := n.own
  let ovr := bits (n.word 0) 32 8
  let low (k a b : Nat) : Nat := if bit ovr k then min a b else b
  let own (k a b : Nat) : Nat := if bit ovr k then a else b
  { benches := low 0 o.benches p.benches, segs := low 1 o.segs p.segs, mem := low 2 o.mem p.mem,
    share := low 3 o.share p.share, prio := low 4 o.prio p.prio, fdom := own 5 o.fdom p.fdom,
    policy := own 6 o.policy p.policy, handler := own 7 o.handler p.handler, rwait := own 7 o.rwait p.rwait,
    freeze := own 7 o.freeze p.freeze }

/-! ### The whole tree (R25, R26) -/

/-- How the reading of a tree stands: the nodes copied, and those still to be read with level and parent. -/
structure TreeWalk where
  tree : FMap TNode
  todo : List (Nat × Nat × Nat)
  deriving DecidableEq, Repr

/-- The children of a node along CHILD and NEXT: exactly `k` of them, or the address at fault. -/
def State.kidsOf (s : State) (job node : Nat) : Nat → Nat → List Nat → Except Nat (List Nat)
  | 0, a, seen => if a = 0 then .ok seen.reverse else .error node
  | k + 1, a, seen =>
    if a = 0 then .error node
    else if !s.nodeThere job a || seen.contains a then .error a
    else s.kidsOf job node k ((s.nodeWords job a).getD 3 0#64).toNat (a :: seen)

/-- One node read, checked and copied. DESIGN CHOICE (log 70): a tree of more than 65,536 nodes (R18), which R26 does not list,
fails at the node past the limit. -/
def State.readNode (s : State) (job : Nat) (w : TreeWalk) (a lvl parent : Nat) : Except Nat TreeWalk :=
  if (w.tree.find? a).isSome || decide (65536 ≤ w.tree.length) || !s.nodeThere job a then .error a
  else
    let n : TNode := { TNode.init with level := lvl, parent := parent, words := s.nodeWords job a }
    if s.nodeBad job n lvl parent then .error a
    else
      match s.kidsOf job a n.nchild (n.word 2) [] with
      | .error x => .error x
      | .ok kids =>
        let eff := if lvl = 0 then n.own else n.effUnder (w.tree.getD parent .init).eff
        let alts := if lvl = 2 then
            (s.altWords job (n.word 9) n.nalt).map (fun e => (e.1, bits e.2 60 4, bits e.2 56 4, bits e.2 48 8))
          else []
        .ok { tree := w.tree.put a { n with kids := kids, eff := eff, alts := alts }
              todo := w.todo ++ kids.map (fun k => (k, lvl + 1, a)) }

/-- The nodes still to be read, one after the other. -/
def State.readTree (s : State) (job : Nat) : Nat → TreeWalk → Except Nat (FMap TNode)
  | 0, w => match w.todo with | [] => .ok w.tree | t :: _ => .error t.1
  | fuel + 1, w =>
    match w.todo with
    | [] => .ok w.tree
    | (a, lvl, parent) :: rest =>
      match s.readNode job { w with todo := rest } a lvl parent with
      | .ok w => s.readTree job fuel w
      | .error x => .error x

/-- The tree of a job node: its nodes, or the first failing node's address. -/
def State.tree (s : State) (job root : Nat) : Except Nat (FMap TNode) := s.readTree job 65537 ⟨[], [(root, 0, 0)]⟩

/-! ### Copies of images (R32) -/

/-- The candidates of a region in the order of R82: image, ROWS, COLS and fold factor. -/
def TNode.cands (n : TNode) : List (Nat × Nat × Nat × Nat) := (n.word 8, n.rows, n.cols, 1) :: n.alts

/-- The supervisor copy of an image. -/
def State.copyImage (s : State) (job a : Nat) : Image :=
  let len := if s.mapped job a 16 then s.peekD job (a + 8) % 2 ^ 32 else 0
  let all := s.mapped job a len
  let n := if all then len else 256
  { addr := a
    len := len
    mapped := all
    copy := ((s.peek job (n / 4096 + 2) a n).zipIdx.filter (fun b => b.1 != 0#8)).map (fun b => (b.2, b.1))
    bad := ((upTo (n / 64)).map (64 * ·)).filter (fun o =>
      match s.walk job (a + o) with
      | .leaf l => s.badBytes l.pa 64
      | _ => false)
    checked := [] }

/-- Every image that a tree names is copied. -/
def State.copyImages (s : State) (job : Nat) (t : FMap TNode) : FMap Image :=
  ((t.flatMap (fun n => if n.2.level = 2 then n.2.cands.map Prod.fst else [])).eraseDups).foldl (fun m a => m.put a (s.copyImage job a)) []

end Sys2Proof.Machine
end

