-- ==== Sys2Proof/Machine/Resource.lean ====
section
/-! DEFINITION. Benches, segments, bank groups, grants and queue memory: what a region needs, where it fits, and what
it holds (R24, R47, R48, R74 to R76, R80, R107, R423). -/

namespace Sys2Proof.Machine

/-! ### What is held -/

/-- A region stands on its benches, or its context is still being swapped out (R78, R360). -/
def Region.holds (x : Region) (now : Nat) : Bool :=
  match x.life with
  | .filling | .starting | .running | .finished => true
  | .preempted => decide (now < x.swapUntil)
  | _ => false

/-- A region holds a segment of a die, one reached by a chain from the die before it among them (R261). -/
def Region.holdsSeg (x : Region) (now die seg : Nat) : Bool :=
  x.holds now && x.place.segs.any (fun k => segKey x.place.die k == die * 64 + seg)

/-- The benches of a region on its die. -/
def Placement.benches (p : Placement) : List Nat :=
  (upTo (p.rows * p.cols)).map (fun b => (p.row + b / p.cols) * 16 + p.col + b % p.cols)

/-- The siblings of a region node in its triple set, itself included; itself alone when it is in none (R89). -/
def Job.triple (j : Job) (node : Nat) : List Nat :=
  let n := j.node node
  let sib := (j.node n.parent).kids.filter (fun a =>
    (j.node a).word 8 == n.word 8 && (j.node a).eff.fdom / 4 == n.eff.fdom / 4 && (j.node a).eff.fdom % 4 != 0)
  if n.eff.fdom % 4 != 0 && (upTo 3).all (fun k => (sib.filter (fun a => (j.node a).eff.fdom % 4 == k + 1)).length == 1) then sib
  else [node]

/-- A die bank group in use (group by die), and the graph, region node and logical group that it serves. -/
structure GroupUse where
  unit : Nat
  graph : Nat
  node : Nat
  logical : Nat
  deriving DecidableEq, Repr

/-- What is taken on the dies: benches and segments by die, bound groups, free queue memory. -/
structure Occ where
  benches : List Nat
  segs : List Nat
  groups : List GroupUse
  qfree : List Nat
  deriving DecidableEq, Repr

/-- What the regions of the package hold, but for some of them. -/
def State.occupied (s : State) (but : List Nat) : Occ :=
  let rs := s.regions.filter (fun x => x.2.holds s.cycle && !but.contains x.1)
  { benches := rs.flatMap (fun x => x.2.place.benches.map (fun b => x.2.place.die * 256 + b))
    segs := rs.flatMap (fun x => x.2.place.segs.map (segKey x.2.place.die))
    groups := rs.flatMap (fun x => x.2.place.groups.map (fun g => ⟨x.2.place.die * 64 + g.2, x.2.graph, x.2.node, g.1⟩))
    qfree := (upTo 4).map (fun d => (s.die d).qfree
      + ((s.regions.filter (fun x => but.contains x.1 && x.2.place.die == d)).map (fun x => x.2.place.qmem)).foldl (· + ·) 0) }

/-! ### Rules that a position decides (R263, R423) -/

/-- The valid sheet-map entries of a context at a position: bench, segment and entry. -/
def sheetsAt (cols row col : Nat) (ps : List (Nat × BenchPlane)) : List (Nat × Nat × SheetMap) :=
  ps.flatMap (fun p =>
    if p.2.ven then p.2.sheets.map (fun m => (p.1, segmentOf ((row + p.1 / cols) * 16 + col + p.1 % cols), m.2)) else [])

def SheetMap.meets (a b : SheetMap) : Bool := decide (a.first < b.first + b.count ∧ b.first < a.first + a.count)
def SheetMap.sameLanes (a b : SheetMap) : Bool := a.first == b.first && a.count == b.count

/-- The chain of an entry can be formed as XDIE states. -/
def chainFits (die seg : Nat) (m : SheetMap) : Bool :=
  if m.chain = 0 then !m.xdie
  else if m.xdie then decide (3 < seg % 4 + m.chain ∧ die ≤ 2) else decide (seg % 4 + m.chain ≤ 3)

/-- Firing slots of the VMACs of a plane by sheet. -/
def vmacsOf (p : BenchPlane) : List (Nat × Nat) :=
  p.sched.filterMap (fun w => match w with | .vmac t m .. => some (m.val, t.val) | _ => none)

/-- Two words of different benches that name one sheet can coincide (R266, R423). -/
def wordsMeet (cols row col : Nat) (ps : List (Nat × BenchPlane)) : Bool :=
  let seg (b : Nat) : Nat := segmentOf ((row + b / cols) * 16 + col + b % cols)
  ps.any (fun p => ps.any (fun q =>
    decide (p.1 < q.1) && p.2.ven && q.2.ven && seg p.1 == seg q.1
      && (vmacsOf p.2).any (fun v => (vmacsOf q.2).any (fun w =>
        (match p.2.sheets.find? v.1, q.2.sheets.find? w.1 with
          | some a, some b => a.sameLanes b
          | _, _ => false)
        && v.2 % Nat.gcd (p.2.sper + 1) (q.2.sper + 1) == w.2 % Nat.gcd (p.2.sper + 1) (q.2.sper + 1)))))

/-- The rules of R263 and R423 hold for one context at a position. The limit of 4,096 sheets of a segment cannot be
passed: four maps hold 512 entries. -/
def contextFits (die cols row col : Nat) (ps : List (Nat × BenchPlane)) : Bool :=
  let es := sheetsAt cols row col ps
  es.all (fun e => chainFits die e.2.1 e.2.2
    && es.all (fun f =>
      !(e.1 != f.1 && e.2.1 == f.2.1 && e.2.2.meets f.2.2) || e.2.2 == f.2.2)
    && !(es.any (fun f => decide (e.2.1 < f.2.1 ∧ f.2.1 ≤ e.2.1 + e.2.2.chain ∧ f.2.1 / 4 = e.2.1 / 4) && e.2.2.meets f.2.2)))
    && !wordsMeet cols row col ps

/-! ### Positions (R74 to R76) -/

/-- What a candidate asks of a die: its graph, region node and triple set, its image, the planes by context, the groups
and queue memory it needs. -/
structure Need where
  graph : Nat
  node : Nat
  sibs : List Nat
  img : Image
  planes : List (Nat × Nat × BenchPlane)
  groups : List Nat
  qmem : Nat
  deriving DecidableEq, Repr

/-- A position with what the region is granted there. -/
structure Spot where
  die : Nat
  row : Nat
  col : Nat
  segs : List Nat
  groups : FMap Nat
  qmem : Nat
  deriving DecidableEq, Repr

/-- Entries of channel queue memory that an image needs as a consumer (R107). -/
def Image.queueMem (m : Image) : Nat :=
  let depth (i : Nat) : Nat :=
    ((List.find? (fun o => bits (m.dw o) 56 8 == i) (m.entries 0x28 8)).map (fun o => 2 ^ (bits (m.dw o) 52 3 + 2))).getD 0
  let ins := (m.planes.flatMap (fun p => p.2.2.elems.flatMap (fun e =>
    (e.2.chans.filter (fun c => c.2.kind == 2 && !c.2.out)).map (fun c => (c.2.peer, c.2.buf)))))
  (ins.map (fun c => depth c.1 - c.2)).foldl (· + ·) 0

def Need.of (graph node : Nat) (sibs : List Nat) (m : Image) : Need :=
  ⟨graph, node, sibs.filter (· != node), m, m.planes, (upTo 64).filter m.groups.contains, m.queueMem⟩

/-- Die bank groups for some logical groups: the one already bound on the die for the graph (R75), unless another member
of the triple set uses it (R89), else the lowest free live one. -/
def bindGroups (live : List Nat) (taken : List GroupUse) (die : Nat) (n : Need) : List Nat → FMap Nat → Option (FMap Nat)
  | [], acc => some acc
  | g :: gs, acc =>
    let ours := taken.filter (fun t => t.unit / 64 == die && t.graph == n.graph)
    let old := (List.find? (fun t => t.logical == g && !ours.any (fun u => u.unit == t.unit && n.sibs.contains u.node)) ours).map
      (fun t => t.unit % 64)
    let free := List.find? (fun d => !taken.any (fun t => t.unit == die * 64 + d) && !(acc.map Prod.snd).contains d) live
    match old, free with
    | some d, _ => if live.contains d then bindGroups live taken die n gs (acc.put g d) else none
    | none, some d => bindGroups live taken die n gs (acc.put g d)
    | none, none => none

/-- A position of a candidate: every bench live and free, segments and groups live and free, and the rules that the
position decides. -/
def State.spotAt (s : State) (o : Occ) (n : Need) (die row col : Nat) : Option Spot :=
  let d := s.die die
  let m := n.img
  let bs := (upTo (m.rows * m.cols)).map (fun b => (row + b / m.cols) * 16 + col + b % m.cols)
  let segs := planeSegments m.rows m.cols n.planes false row col
  let bf := planeSegments m.rows m.cols n.planes true row col
  let whole (k : Nat) (bf16 : Bool) : Bool :=
    let e := s.die (segKey die k / 64)
    if bf16 then e.segmentWhole (segKey die k % 64) else !e.retiredSegs.contains (segKey die k % 64)
  if !(bs.all (fun b => !d.retiredBenches.contains b && !o.benches.contains (die * 256 + b)))
      || !(segs.all (fun k => whole k false && !o.segs.contains (segKey die k))) || !bf.all (fun k => whole k true)
      || decide (d.capacity 4 0 0 < m.requirement 4) || decide (d.capacity 7 (bs.headD 0) 0 < m.requirement 7)
      || !((upTo m.nbench).all (fun b => (upTo 16).all (fun e =>
            let at_ := bs.getD b 0
            decide (m.elemNeed 5 b e ≤ d.capacity 5 at_ e ∧ m.elemNeed 6 b e ≤ d.capacity 6 at_ e))))
      || decide (o.qfree.getD die 0 < n.qmem)
      || !((upTo m.contexts).all (fun c => contextFits die m.cols row col ((n.planes.filter (fun p => p.1 == c)).map Prod.snd)))
  then none
  else (bindGroups d.liveGroups o.groups die n n.groups []).map (fun g => ⟨die, row, col, segs, g, n.qmem⟩)

/-- The position on a die that the bench allocator takes: the lowest north-west bench (R76). -/
def State.spotOn (s : State) (o : Occ) (n : Need) (die : Nat) : Option Spot :=
  (positions n.img.rows n.img.cols).findSome? (fun p => s.spotAt o n die p.1 p.2)

/-- The dies in the order in which Derrick tries them for a placement (R76, log entry 8). -/
def dieOrder (ticket : Nat) : List Nat := (upTo 4).map (fun k => (k + Config.diePreference ticket) % 4)

/-- What is taken once a spot is granted. -/
def Occ.take (o : Occ) (n : Need) (p : Spot) : Occ :=
  { benches := o.benches ++ (upTo (n.img.rows * n.img.cols)).map (fun b =>
      p.die * 256 + (p.row + b / n.img.cols) * 16 + p.col + b % n.img.cols)
    segs := o.segs ++ p.segs.map (segKey p.die)
    groups := o.groups ++ p.groups.map (fun g => ⟨p.die * 64 + g.2, n.graph, n.node, g.1⟩)
    qfree := o.qfree.set p.die (o.qfree.getD p.die 0 - p.qmem) }

/-- No use is made of anything: what R423 calls every live bench free. -/
def Occ.none : Occ := ⟨[], [], [], [65536, 65536, 65536, 65536]⟩

/-! ### Page tables as Derrick reads them, and budgets (R24, R225) -/

/-- A leaf of a page table: where its entry stands, the virtual address and level, and the entry. -/
structure LeafAt where
  epa : Nat
  va : Nat
  level : Nat
  entry : Nat
  deriving DecidableEq, Repr

/-- Page size of a leaf, and its first physical byte. -/
def LeafAt.size (l : LeafAt) : Nat := if peC l.entry then 16 * 2 ^ (12 + 9 * l.level) else 2 ^ (12 + 9 * l.level)
def LeafAt.page (l : LeafAt) : Nat := peFrame l.entry - (if peC l.entry then l.va / 2 ^ (12 + 9 * l.level) % 16 * 2 ^ (12 + 9 * l.level) else 0)
/-- Bytes that a page occupies, to which its frame is aligned: a versioned page takes eight times its size (R218). -/
def LeafAt.span (l : LeafAt) : Nat := if peVerp l.entry then 8 * l.size else l.size

/-- Bytes of it that hold anything: of a versioned page the four slots and the directory (R218). -/
def LeafAt.held (l : LeafAt) : Nat := if peVerp l.entry then 5 * l.size else l.size

/-- The entries of a table that hold anything, by index. -/
def entriesOf (m : Memory) (table : Nat) : List Nat :=
  ((m.filter (fun c => decide (table ≤ c.1 ∧ c.1 < table + 4096))).map (fun c => (c.1 - table) / 8)).eraseDups

/-- The valid leaves below a table at a level. -/
def leavesFrom (m : Memory) : Nat → Nat → Nat → List LeafAt
  | 0, _, _ => []
  | lv + 1, table, va0 =>
    (entriesOf m table).flatMap (fun i =>
      let epa := table + 8 * i
      let e := m.readNat epa 8
      let va := va0 + i * 2 ^ (12 + 9 * lv)
      if !peV e then []
      else if peLeaf e then [⟨epa, va, lv, e⟩]
      else if bits e 2 10 != 0 then []
      else leavesFrom m lv (peFrame e) va)

/-- Bytes of device memory that some page tables map. -/
def State.mappedMem (s : State) (roots : List Nat) : Nat :=
  let ls := roots.eraseDups.flatMap (fun r => leavesFrom s.mem 5 r 0)
  (((ls.filter (fun l => l.page / 2 ^ 48 == 0)).map (fun l => (l.page, l.span))).eraseDups.map Prod.snd).foldl (· + ·) 0

/-- The regions that a job holds, but for some, and some more of given node, benches and segments together keep the
budgets of their graphs and of the job, and the job's pages its memory budget (R24). -/
def State.budgetOk (s : State) (j : Nat) (gone : List Nat) (more : List (Nat × Nat × Nat)) : Bool :=
  let x := s.job j
  let held := ((s.regions.filter (fun r => r.2.job == j && r.2.holds s.cycle && !gone.contains r.1)).map (fun r =>
    (r.2.node, r.2.place.rows * r.2.place.cols, r.2.place.segs.length))) ++ more
  let ok (node : Nat) (l : List (Nat × Nat × Nat)) : Bool :=
    let e := (x.node node).eff
    decide ((l.map (fun h => h.2.1)).foldl (· + ·) 0 ≤ e.benches ∧ (l.map (fun h => h.2.2)).foldl (· + ·) 0 ≤ e.segs)
  ok x.rcb held && ((more.map (fun h => (x.node h.1).parent)).eraseDups).all (fun g =>
      ok g (held.filter (fun h => (x.node h.1).parent == g)))
    && decide (s.mappedMem [x.root] ≤ (x.node x.rcb).eff.mem * 2 ^ 20)

/-- Spots for some needs of a job keep its budgets. -/
def State.budgetFits (s : State) (j : Nat) (gone : List Nat) (l : List (Nat × Need)) (spots : List (Nat × Spot)) : Bool :=
  s.budgetOk j gone (spots.map (fun q =>
    (q.1, ((List.find? (fun a => a.1 == q.1) l).map (fun a => a.2.img.nbench)).getD 0, q.2.segs.length)))

/-! ### Check 15 (R48, R49, R82, R83) -/

/-- The capacity of a class over some dies; the classes of single elements and sequencers count in full. -/
def State.bestCapacity (s : State) (dies : List Nat) (cls : Nat) : Nat :=
  match cls with
  | 5 => 8
  | 6 | 7 => 4
  | _ => (dies.map (fun d => (s.die d).capacity cls 0 0)).foldl max 0

/-- Check 15: the first class that fails with requirement and capacity, in the layout of R83; class 1 alone when no
position on any die is eligible. -/
def State.check15 (s : State) (dies : List Nat) (m : Image) : Option Nat :=
  let short := List.find? (fun c => decide (s.bestCapacity dies c < m.requirement c)) (upTo 8)
  match short with
  | some c => some (c * 2 ^ 56 + m.requirement c % 2 ^ 28 * 2 ^ 28 + s.bestCapacity dies c % 2 ^ 28)
  | none => if (upTo 4).any (fun d => (s.spotOn .none (Need.of 0 0 [] m) d).isSome) then none else some (2 ^ 56)

/-! ### Candidates (R49, R82) -/

/-- RACE of a node: 0 refuse, 1 flag (R21). -/
def TNode.race (n : TNode) : Nat := bits n.eff.policy 14 2

/-- The region of a node, when it has one. -/
def State.regionOf (s : State) (job node : Nat) : Option Nat :=
  (List.find? (fun x => x.2.job == job && x.2.node == node) s.regions).map Prod.fst

/-- An image of a region node as the loader's checks see it. -/
def State.loadOf (s : State) (job node img : Nat) : LoadImg :=
  let j := s.job job
  let n := j.node node
  let c := (List.find? (fun a => a.1 == img) n.cands).getD (0, 0, 0, 1)
  ⟨((j.node n.parent).kids.findIdx? (· == node)).getD 0, job, c.2.1 + 1, c.2.2.1 + 1, c.2.2.2 - 1, n.kids.length,
    j.images.getD img .empty⟩

/-- The current images of a graph's regions: the primary ones until a placement has chosen others. -/
def State.currentImages (s : State) (job graphNode : Nat) : List LoadImg :=
  ((s.job job).node graphNode).kids.map (fun a =>
    let img := match s.regionOf job a with
      | some r => if (s.reg r).place.img = 0 then ((s.job job).node a).word 8 else (s.reg r).place.img
      | none => ((s.job job).node a).word 8
    s.loadOf job a img)

/-- Checks 1 to 14 of one candidate, beside the graph's other current images; a race that RACE flags passes. -/
def State.candidateBad (s : State) (job node img : Nat) : Option (Nat × Nat × Fail) :=
  let n := (s.job job).node node
  if ((s.job job).images.getD img .empty).checked.contains node then none
  else
    let me := s.loadOf job node img
    let all := (s.currentImages job n.parent).map (fun l => if l.idx = me.idx then me else l)
    s.runChecks all [me] (if (((s.job job).node n.parent).race = 1) then 13 else 14)

/-- The candidate that a region takes: the first one that passes checks 1 to 14 and check 15 (R82); otherwise the last
one tried with its failure. -/
def State.chooseFrom (s : State) (job node : Nat) (dies : List Nat) :
    List (Nat × Nat × Nat × Nat) → Nat × Nat → Except (Nat × Nat) Nat
  | [], last => .error last
  | c :: cs, last =>
    if (s.candidateBad job node c.1).isSome then s.chooseFrom job node dies cs last
    else
      match s.check15 dies ((s.job job).images.getD c.1 .empty) with
      | none => .ok c.1
      | some f => s.chooseFrom job node dies cs (c.1, f)

def State.choose (s : State) (job node : Nat) (dies : List Nat) : Except (Nat × Nat) Nat :=
  let cs := ((s.job job).node node).cands
  s.chooseFrom job node dies cs ((cs.headD (0, 0, 0, 1)).1, 0)

/-! ### Grants (R47, R226) -/

/-- The grant table entries of a placed region. -/
def State.grantsOf (s : State) (r : Nat) : List Grant :=
  let x := s.reg r
  let m := (s.job x.job).images.getD x.place.img .empty
  (m.entries 0x40 32).map (fun o =>
    let w := m.dw o
    { any := bit w 41, src := BitVec.ofNat 22 (bits w 42 22)
      target := if bits w 39 2 = 0 then .element (x.dieBench (bits w 29 8)) (bits w 25 4)
                else .bankGroup (x.place.groups.getD (bits w 25 6) 0)
      w := bit w 38, rd := bit w 37, off := bits (m.dw (o + 8)) 0 32, len := bits (m.dw (o + 8)) 32 32
      flag := m.dw (o + 16), job := x.job, region := r })

/-- Free entries of a die's grant table. -/
def Die.freeGrants (d : Die) : List Nat := (upTo 64).filter (fun k => (d.grants.find? k).isNone)

/-- Grants of a region installed. -/
def State.installGrants (s : State) (r : Nat) : State :=
  let x := s.reg r
  let gs := s.grantsOf r
  s.updDie x.place.die (fun d =>
    { d with grants := (gs.zip d.freeGrants).foldl (fun m p => m.put p.2 p.1) d.grants })

/-- A region leaves its benches: grants, queue memory and parked accesses go (R47, R107, R217, R387). -/
def State.vacate (s : State) (r : Nat) : State :=
  let x := s.reg r
  let had := (s.die x.place.die).grants.any (fun g => g.2.region == r)
  let s := s.updDie x.place.die (fun d =>
    { d with
      grants := d.grants.filter (fun g => g.2.region != r)
      qfree := d.qfree + x.place.qmem
      parked := d.parked.filter (fun p => p.2.region != r)
      parkWait := d.parkWait.filter (fun p => p.region != r) })
  let s := s.updReg r (fun x => { x with place := { x.place with qmem := 0 } })
  if had then { s with jobs := s.jobs.mapVal (fun _ j =>
      if j.grantWait = some x.place.die then { j with grantWait := none } else j) } else s

end Sys2Proof.Machine
end

