-- ==== Sys2Proof/Machine/Place.lean ====
section
/-! DEFINITION. Placement of a launch, release, and what ends a launch (R24, R27, R66, R67, R77, R83, R136, R387). -/

namespace Sys2Proof.Machine

/-! ### A region as it starts (R19, R52, R136, R179, R235, R264) -/

/-- The iteration contexts of an element at a start with round n: after a first launch no tag has been issued, at a
relaunch NTAG and CTAG take the kernel's last committed tag (R179). -/
def Region.startCtxs (x : Region) (m : Image) (b e : Nat) (n : BitVec 24) : FMap Ctx :=
  (upTo 4).map (fun k =>
    let done := ((x.kernels.find? ((m.klist (m.elemOff 0 b e)).getD k 255)).map Kernel.itersDone).getD 0
    (k, if done = 0 then { Ctx.init with cround := n } else ⟨n, BitVec.ofNat 24 (done - 1), BitVec.ofNat 24 (done - 1)⟩))

/-- An element at a start with round n. -/
def Region.startElem (x : Region) (m : Image) (b e : Nat) (n : BitVec 24) : Element :=
  let cs := x.startCtxs m b e n
  { Element.init with
    ctxs := cs, ctxAt := [(n.toNat, cs)], genAt := [(n.toNat, (upTo 4).map (fun g => (g, 0)))], round0 := n }

/-- A bench at a start with round n. -/
def Region.startBench (x : Region) (m : Image) (b : Nat) (n : BitVec 24) : Bench :=
  { Bench.init with
    elems := (upTo 16).map (fun e => (e, x.startElem m b e n))
    port := { Port.init with owner := { Owner.init with round := n } }
    node := { Node.init with mround := n, rowsAt := [(n.toNat, ([], 0, false))] } }

/-- The fabric of a region with an image, at a start with round n: nothing of an earlier image stands in it (R84). -/
def Region.freshFabric (x : Region) (m : Image) (n : BitVec 24) : Region :=
  { x with
    benches := (upTo m.nbench).map (fun b => (b, x.startBench m b n))
    sheets := []
    fab := { Fabric.init with ucycle := x.fab.ucycle }
    kernels := x.kernels.mapVal (fun _ k => { k with issued := [] })
    reps := [], switching := none, owed := [], vers := [] }

/-- The sequencer at ENTRY (R136). Its command number and what it has outstanding stand. -/
def Region.freshSeq (x : Region) (m : Image) (n : BitVec 24) (handler : Nat) : Region :=
  { x with seq :=
      { Seq.init with
        pc := dw m.entry
        csrs := { Csrs.init with round := n, handler := BitVec.ofNat 57 handler, capvec := x.seq.csrs.capvec }
        cmdNo := x.seq.cmdNo, outstanding := x.seq.outstanding
        hold := { SeqHold.none with quiet := true, halted := x.seq.hold.halted, haltReq := x.seq.hold.haltReq } } }

/-- A region at its first launch, or at a relaunch under another image, with its first checkpoint (R84, R136, R351). -/
def Region.fresh (x : Region) (m : Image) (n : BitVec 24) (handler : Nat) : Region :=
  ((x.freshFabric m n).freshSeq m n handler).record

/-- The placement of a region at a spot. -/
def placeAt (p : Spot) (m : Image) (img rsize : Nat) : Placement :=
  { die := p.die, row := p.row, col := p.col, rows := m.rows, cols := m.cols, segs := p.segs, groups := p.groups,
    qmem := p.qmem, img := img, act := img, ctx := 0, ii := m.ii, rsize := rsize, fold := m.fold, rtype := m.rtype }

/-! ### Channels of a graph (R45, R106) -/

/-- The end of a channel in an image: bench, element and channel that bind it, in whatever context. -/
def Image.chanEnd (m : Image) (idx : Nat) (out : Bool) : Option (Nat × Nat × Nat) :=
  m.planes.findSome? (fun p => p.2.2.elems.findSome? (fun e =>
    (List.find? (fun c => c.2.kind == 2 && c.2.out == out && c.2.peer == idx) e.2.chans).map (fun c => (p.2.1, e.1, c.1))))

/-- The channels that the placed regions of a graph declare and that have both ends: each starts with its full credit. -/
def State.connect (s : State) (g : Nat) : State :=
  let rs := (s.graph g).regions
  let m (r : Nat) : Image := s.image r (s.reg r).place.img
  let ends (out : Bool) : List (Nat × Nat × Nat × Nat × Nat) :=
    rs.flatMap (fun r => ((m r).entries 0x28 8).filterMap (fun o =>
      let i := bits ((m r).dw o) 56 8
      ((m r).chanEnd i out).map (fun p => (i, r, p))))
  let depth (r i : Nat) : Nat :=
    ((List.find? (fun o => bits ((m r).dw o) 56 8 == i) ((m r).entries 0x28 8)).map (fun o =>
      2 ^ (bits ((m r).dw o) 52 3 + 2))).getD 4
  (ends true).foldl (fun s a =>
    match List.find? (fun b => b.1 == a.1) (ends false) with
    | some b =>
      if ((s.graph g).chans.find? a.1).isSome then s
      else
        let lat := elasticLat (s.reg a.2.1) (s.reg b.2.1) a.2.2.1 b.2.2.1
        let d := depth a.2.1 a.1
        let ch : Elastic := { src := a.2, dst := b.2, depth := d, credits := d, lat := lat, flight := [], qmem := [], back := [] }
        s.updGraph g (fun x => { x with chans := x.chans.put a.1 ch })
    | none => s) s

/-! ### Waiters (R31, R66) -/

/-- Effective priority of a waiter: one more for each full millisecond of waiting, up to 15 (R31). -/
def State.waitPrio (s : State) (prio since : Nat) : Nat := min 15 (prio + (s.time - since) / msUnits)

/-- The launch may be considered for placement (R66): with INORDER only behind launches that are resident or final. -/
def State.mayPlace (s : State) (j : Nat) : Bool :=
  let x := s.job j
  s.depsHold j && (!(s.queue x.queue).inOrder
    || !s.jobs.any (fun y => y.2.queue == x.queue && decide (y.2.order < x.order) && (y.2.state == 1 || y.2.state == 3)))

/-- Region nodes of a job that were never placed, but for failed graphs: graph node and region node. -/
def State.unplaced (s : State) (j : Nat) : List (Nat × Nat) :=
  let x := s.job j
  let lost (g : Nat) : Bool := s.graphs.any (fun y => y.2.job == j && y.2.node == g && (y.2.final != 0 || y.2.failBy.isSome))
  ((x.node x.rcb).kids.filter (fun g => !lost g)).flatMap (fun g => ((x.node g).kids.filter (fun r =>
    (x.node r).eff.share != 0 && (s.regionOf j r).isNone)).map (fun r => (g, r)))

/-! ### Releases -/

/-- A region leaves the package for good: what it held is free. -/
def State.release (s : State) (r : Nat) (l : Life) : State :=
  ((s.vacate r).updReg r (fun x => { x with life := l, benches := [], sheets := [], switching := none, owed := [] })).updSup
    (fun p => { p with resDirty := true })

/-- Derrick removes a finished region's grants and frees its benches, segments and bank groups (R387). -/
def execRegionRelease (r : Nat) (s : State) : Answer :=
  if (s.reg r).life = .finished then
    if s.sup.activeDie.isSome then .next (s.release r .released) else .next (s.after 1 (.regionRelease r))
  else .next s

/-- Commands of a job's regions end with FAULT and the launch-cancelled cause (R318). -/
def State.cancelEngines (s : State) (j : Nat) : State :=
  { s with dies := s.dies.mapVal (fun _ d => { d with engines := d.engines.mapVal (fun _ e =>
      if e.job = j && e.result.isNone then { e with result := some (dw (0xB0 * 2 ^ 16 + 2 ^ 11 + 2 ^ 8) |>.setWidth 32, 0xB0, 0) } else e) }) }

/-- A launch ends as a cancel ends it: uncommitted rounds void, benches freed, STATE 5 with a cause (R67, R350). -/
def State.cancelJob (s : State) (j cause : Nat) (tag : BitVec 24) (info : List DWord) : State :=
  if (s.job j).final then s
  else
    let s := s.cancelEngines j
    let gs := (s.graphs.filter (fun g => g.2.job == j)).map Prod.fst
    let s := gs.foldl (fun s g => if (s.graph g).regions.isEmpty then s else s.voidRound g (s.graph g).next) s
    let rs := (s.regions.filter (fun x => x.2.job == j && !x.2.life.done && x.2.life != .failed)).map Prod.fst
    let s := rs.foldl (fun s r => (s.failNode j (s.reg r).node 5 cause tag).release r .failed) s
    let s := gs.foldl (fun s g =>
      if (s.graph g).final = 0 then
        (s.failNode j (s.graph g).node 5 cause tag).updGraph g (fun x => { x with final := 5, cause := cause, held := false })
      else s) s
    (s.jobState j 5 cause tag info true).gangAlarm j

/-- The regions of a graph that are left, and the graph, take STATE 5 with a cause (R27, R83). -/
def State.failGraph (s : State) (g cause : Nat) : State :=
  let x := s.graph g
  let rs := ((s.graphRegions g).filter (fun r => !r.2.life.done && r.2.life != .failed)).map Prod.fst
  let s := rs.foldl (fun s r => (s.failNode x.job (s.reg r).node 5 cause 0#24).release r .failed) s
  (((s.failNode x.job x.node 5 cause 0#24).updGraph g (fun y => { y with final := 5, cause := cause, failBy := none })).recordEnds).gangAlarm
    x.job

/-! ### Gangs (R27) -/

/-- The key of a graph of a job, made when it has none yet. -/
def State.graphOf (s : State) (j node : Nat) : State × Nat :=
  match List.find? (fun g => g.2.job == j && g.2.node == node) s.graphs with
  | some g => (s, g.1)
  | none =>
    let (s, k) := s.fresh
    ({ s with graphs := s.graphs.put k { Graph.init with job := j, node := node } }, k)

/-- Every graph of a job has its record. -/
def State.makeGraphs (s : State) (j : Nat) : State :=
  ((s.job j).node (s.job j).rcb).kids.foldl (fun s g => (s.graphOf j g).1) s

/-- A member ends in STATE 5: a job as a cancel ends it, a graph with its regions. -/
def State.failMember (s : State) (j a cause : Nat) (info : List DWord) : State :=
  if a = (s.job j).rcb then s.cancelJob j cause 0#24 info
  else
    let s := s.makeGraphs j
    match List.find? (fun g => g.2.job == j && g.2.node == a && g.2.final == 0) s.graphs with
    | some g => (if g.2.regions.isEmpty then s else s.voidRound g.1 g.2.next).failGraph g.1 cause
    | none => s

/-- The graphs of a gang member. -/
def State.memberGraphs (s : State) (j a : Nat) : List Nat :=
  (s.graphs.filter (fun g => g.2.job == j && (s.job j).covers a g.2.node)).map Prod.fst

/-- The regions of a gang member in some states of life. -/
def State.memberRegions (s : State) (j a : Nat) (p : Life → Bool) : List Nat :=
  (s.regions.filter (fun x => x.2.job == j && (s.job j).covers a (s.graph x.2.graph).node && p x.2.life)).map Prod.fst

/-- A region is off its benches and not final. -/
def Life.off : Life → Bool
  | .preempted | .waiting => true
  | _ => false

/-- A member learns that another is placed; one that carries its own index fails. -/
def State.gangHears (s : State) (j a i : Nat) (coupled : Bool) : State :=
  let n := (s.job j).node a
  if n.gindex = i then s.failMember j a 0xAC [dw n.gang]
  else s.updSeat j a (fun x => { x with
    placed := if x.placed.contains i then x.placed else x.placed ++ [i]
    free := if coupled then x.free.filter (· != i) else i :: x.free.filter (· != i)
    lost := x.lost.filter (fun l => l.1 != i) })

/-- A member is placed: its own deadline begins, the others learn of it, and it learns of those placed before. -/
def State.memberPlaced (s : State) (j a : Nat) : State :=
  let n := (s.job j).node a
  let s := s.updSeat j a (fun x => { x with
    up := true
    deadline := if x.restart.isSome then none else some (s.time + n.gtime * msUnits) })
  let s := s.tellGang j a (.placed n.gang n.couples) (fun s k => s.gangHears k.1 k.2 n.gindex n.couples)
  (s.gangMates j a).foldl (fun s k =>
    let m := (s.job k.1).node k.2
    if ((s.job k.1).seat k.2).up then s.gangHears j a m.gindex m.couples else s) s

/-- The gang members of a job whose regions all stand on benches, and of which that is not yet reported, are placed. -/
def State.gangPlacedNow (s : State) (j : Nat) : State :=
  (s.job j).gangs.keys.foldl (fun s a =>
    if ((s.job j).seat a).up || !(s.memberRegions j a (fun l => l.off || l == .failed)).isEmpty
        || (s.unplaced j).any (fun u => (s.job j).covers a u.1) then s
    else s.memberPlaced j a) s

def execGangStart (j : Nat) (s : State) : Answer :=
  let ready := (s.job j).gangs.keys.filter (fun a =>
    (s.job j).seatReady a && (((s.job j).seat a).deadline.isSome || ((s.job j).seat a).restart.isSome)
      && (s.memberRegions j a Life.off).isEmpty)
  let s := ready.foldl (fun s a => s.updSeat j a (fun x => { x with deadline := none, restart := none })) s
  .next ((ready.flatMap (s.memberGraphs j)).foldl (fun s g => s.startGraph g) s)

/-- GTIME has passed and not every member is placed: this one is removed unstarted (R27). While no complex is active the
time counts on, and nothing else happens (R73). -/
def execGangLaunchTimeout (j : Nat) (s : State) : Answer :=
  if s.sup.activeDie.isNone then .next s
  else
    .next ((s.job j).gangs.keys.foldl (fun s a =>
      if ((s.job j).seat a).deadline.any (fun t => decide (t ≤ s.time)) && !(s.job j).seatReady a && !(s.job j).final then
        (s.failMember j a 0xAC [dw ((s.job j).node a).gang]).updSeat j a (fun x => { x with deadline := none })
      else s) s)

/-! ### Placement (R77) -/

/-- What a first placement wants for a region: its graph node, its node, the image chosen and the need. -/
structure Ask where
  graph : Nat
  node : Nat
  img : Nat
  need : Need
  deriving DecidableEq, Repr

/-- The asks keep the budgets of their graphs and of the job by what they need at least (R24). -/
def State.fitsBudget (s : State) (j : Nat) (asked : List Ask) : Bool :=
  s.budgetOk j [] (asked.map (fun a => (a.node, a.need.img.nbench, a.need.img.requirement 1)))

/-- The asks of one triple set stand together, in the order of the tree (R89). -/
def setsOf {α : Type} (node : α → Nat) (sib : Nat → List Nat) (l : List α) : List (List α) :=
  l.foldl (fun us a =>
    if us.any (fun u => u.any (fun b => (sib (node b)).contains (node a))) then
      us.map (fun u => if u.any (fun b => (sib (node b)).contains (node a)) then u ++ [a] else u)
    else us ++ [[a]]) []

/-- The asks that fit the budgets together, in the order of the tree; a triple set whole or not at all. -/
def State.withinBudget (s : State) (j : Nat) (asks : List Ask) : List Ask :=
  (setsOf Ask.node (s.job j).triple asks).foldl (fun acc u => if s.fitsBudget j (acc ++ u) then acc ++ u else acc) []

/-- Spots for the members of one unit behind those of others: for each in order the dies in Derrick's order, on at least
k different dies where there are as many members, then what `next` finds for the rest (R76, R89). -/
def State.spotsFor (s : State) (tk k first : Nat) (ok : List (Nat × Spot) → Bool)
    (next : Occ → List (Nat × Spot) → Option (List (Nat × Spot))) :
    List (Nat × Need) → Occ → List (Nat × Spot) → Option (List (Nat × Spot))
  | [], o, acc =>
    let mine := acc.drop first
    if min k mine.length ≤ (mine.map (fun q => q.2.die)).eraseDups.length then next o acc else none
  | a :: as, o, acc =>
    (dieOrder tk).findSome? (fun d =>
      match s.spotOn o a.2 d with
      | some p =>
        if ok (acc ++ [(a.1, p)]) then s.spotsFor tk k first ok next as (o.take a.2 p) (acc ++ [(a.1, p)]) else none
      | none => none)

/-- Spots for all units at one moment, each triple set on as many dies as can take it (R89). -/
def State.spreadUnits (s : State) (tk : Nat) (ok : List (Nat × Spot) → Bool) :
    List (List (Nat × Need)) → Occ → List (Nat × Spot) → Option (List (Nat × Spot))
  | [], _, acc => some acc
  | u :: us, o, acc =>
    (if u.length ≤ 1 then [1] else [3, 2, 1]).findSome? (fun k =>
      s.spotsFor tk k acc.length ok (fun o acc => s.spreadUnits tk ok us o acc) u o acc)

/-- Spots for some needs of a job that keep its budgets, when some of its regions give theirs up. -/
def State.spread (s : State) (tk j : Nat) (gone : List Nat) (l : List (Nat × Need)) (o : Occ) : Option (List (Nat × Spot)) :=
  s.spreadUnits tk (s.budgetFits j gone l) (setsOf Prod.fst (s.job j).triple l) o []

/-- A region made resident at its spot: its elements empty, context 0 on its way into the shadow planes (R52, R53, R77). -/
def State.makeRegion (s : State) (j : Nat) (a : Ask) (p : Spot) : State × Nat :=
  let x := s.job j
  let n := x.node a.node
  let (s, g) := s.graphOf j a.graph
  let (s, r) := s.fresh
  let (s, k) := ({ s with sup := { s.sup with order := s.sup.order + 1 } }, s.sup.order)
  let first := (s.graph g).next
  let reg : Region := { Region.init with
    job := j, graph := g, node := a.node, place := placeAt p a.need.img a.img n.rsize, life := .filling,
    lastRnd := first - 1
    kernels := n.kids.zipIdx.map (fun q => (q.2, ⟨q.1, (x.node q.1).iters, 0, [], false⟩))
    since := s.time, order := k }
  let s := { s with regions := s.regions.put r (reg.fresh a.need.img first n.eff.handler) }
  let s := s.updGraph g (fun y => { y with regions := y.regions ++ [r] })
  let s := s.updDie p.die (fun d => { d with qfree := d.qfree - p.qmem })
  (s.startFill r a.img 0, r)

/-- The first region whose grants find no room in its die's grant table: die, image and free entries (R49, check 16). -/
def State.grantShort (s : State) : List Nat → FMap Nat → Option (Nat × Nat × Nat)
  | [], _ => none
  | r :: rs, used =>
    let d := (s.reg r).place.die
    let free := (s.die d).freeGrants.length - used.getD d 0
    let n := (s.grantsOf r).length
    if free < n then some (d, (s.reg r).place.img, free) else s.grantShort rs (used.put d (used.getD d 0 + n))

/-- Check 16 has failed: the launch waits for an entry of the die's grant table, and the failure is reported once (R77). -/
def State.grantsFull (s : State) (j : Nat) (short : Nat × Nat × Nat) : State :=
  let x := s.job j
  if x.grantWait.isSome then s
  else
    (s.updJob j (fun x => { x with grantWait := some short.1 })).launchReport x.queue x.lid x.state 0x8F#8 x.origChip x.rcb
      [dw short.2.1, 0#64, 0#64, dw short.2.2]

/-- The regions of a placement at their spots, with their grants; check 16 takes all of it back when a grant table is
full (R77). -/
def State.grantAll (s : State) (j : Nat) (asks : List Ask) (spots : List (Nat × Spot)) : State :=
  let (s', rs) := asks.foldl (fun (acc : State × List Nat) a =>
    match List.find? (fun q => q.1 == a.node) spots with
    | some q =>
      let (t, r) := acc.1.makeRegion j a q.2
      (t, acc.2 ++ [r])
    | none => acc) (s, [])
  match s'.grantShort rs [] with
  | some short => s.grantsFull j short
  | none =>
    let s := rs.foldl (fun s r => s.installGrants r) s'
    let s := ((rs.map (fun r => (s.reg r).graph)).eraseDups).foldl (fun s g => s.connect g) s
    (s.note (.placement j)).gangPlacedNow j

/-- The asks of a job's regions that were never placed, or why the launch is refused: graph node, cause and
TRAPINFO. -/
def State.asksOf (s : State) (j : Nat) : List (Nat × Nat) → Except (Nat × Nat × List DWord) (List Ask)
  | [] => .ok []
  | (g, n) :: rest =>
    let x := s.job j
    match s.choose j n (upTo 4) with
    | .error (img, f) => .error (g, 0x8E, [dw img, 0#64, 0#64, dw f])
    | .ok img =>
      let m := x.images.getD img .empty
      let t := x.node n
      if decide (t.eff.benches < (t.rows + 1) * (t.cols + 1)) || decide (t.eff.segs < m.requirement 1) then
        .error (g, 0x9C, [dw n])
      else
        match s.asksOf j rest with
        | .error e => .error e
        | .ok as =>
          let gk := ((List.find? (fun y => y.2.job == j && y.2.node == g) s.graphs).map Prod.fst).getD 0
          .ok (⟨g, n, img, Need.of gk n (x.triple n) m⟩ :: as)

/-- Candidates that a placement has tried and that pass are not checked again (R49). -/
def State.markChecked (s : State) (j : Nat) (asks : List Ask) : State :=
  asks.foldl (fun s a => s.passImage j a.node a.img) s

end Sys2Proof.Machine
end

