-- ==== Sys2Proof/Machine/Preempt.lean ====
section
/-! DEFINITION. What takes a region off its benches and brings it back: pre-emption, resume, relaunch, shrink and grow,
and which regions give way to a waiter (R31, R81 to R91, R217, R358 to R362). -/

namespace Sys2Proof.Machine

/-! ### The boundary (R358) -/

/-- The regions of a region's triple set that stand in the package; itself alone when it is in none (R90). -/
def State.unit (s : State) (r : Nat) : List Nat :=
  let x := s.reg r
  ((s.job x.job).triple x.node).filterMap (fun a => s.regionOf x.job a)

/-- The latest round that executes in a graph. -/
def State.latestRound (s : State) (g : Nat) : BitVec 24 :=
  (((s.graph g).regions.filter (fun r => (s.reg r).life == .running)).map (fun r => (s.reg r).seq.csrs.round)).foldl
    (fun m n => if precedes m n then n else m) (s.graph g).next

/-- A graph is asked to hold after the round that executes. -/
def State.askBoundary (s : State) (g : Nat) : State :=
  let x := s.graph g
  if x.boundary.isSome then s
  else
    let b := s.latestRound g
    let s := s.updGraph g (fun x => { x with boundary := some b })
    if x.held then s
    else x.regions.foldl (fun s r => s.updReg r (fun y => { y with preq := some b.toNat })) s

/-- The boundary of a graph is reached: it is held after a void, or round b has committed. -/
def State.atBoundaryOf (s : State) (g : Nat) : Bool :=
  let x := s.graph g
  x.held || x.boundary.any (fun b => precedes b x.next)

/-- A change of shape under way is given up (R362): a shrink that the program asked for is refused, and FGROW stays
pending (R324). -/
def Region.dropShape (x : Region) : Region :=
  let mine : Bool := x.shape.isSome && x.shape == x.shreq && x.shreq.all (fun q => q.1 != 8)
  { x with
    shape := none
    shreq := if mine then none else x.shreq
    seq := if mine then { x.seq with request := 3 } else x.seq }

/-- A pre-emption of a region and its triple set is asked for. -/
def State.askPreempt (s : State) (r : Nat) : State :=
  let s := (s.unit r).foldl (fun s k => s.updReg k (fun x => { x.dropShape with
    wantOff := match x.wantOff with | some t => some t | none => some s.cycle })) s
  s.askBoundary (s.reg r).graph

/-- RWAIT of a region in cycles (R5, R20). -/
def State.rwait (s : State) (r : Nat) : Nat :=
  let w := (s.rnode r).eff.rwait
  850 * (if w = 0 then 100 else w)

/-! ### Context records (R359, R360) -/

/-- SPILL of a region's effective POLICY (R21). -/
def NodeEff.spills (e : NodeEff) : Bool := bit e.policy 9

/-- Cycles of a swap of B benches at a number of benches at once, with the spill of their declared local memory. -/
def Region.swapCycles (x : Region) (atOnce : Nat) (spill : Bool) : Nat :=
  let b := x.benches.length
  let up (n : Nat) : Nat := (b + n - 1) / n
  let unit := (x.benches.map (fun y => (y.2.plane.elems.map (fun e => 128 * (e.2.nlb + 1))).foldl (· + ·) 0)).foldl max 0
  256 + 768 * up atOnce + (if spill then 256 + unit * up 64 else 0)

/-- What a context record keeps of an element; local memory only when it is spilled, and then its declared banks. -/
def Element.saved (el : Element) (spill : Option Nat) : Element :=
  { el with
    local_ := match spill with
      | some nlb => el.local_.filter (fun b => decide (b.1 < 8192 * (nlb + 1)))
      | none => []
    localErr := if spill.isSome then el.localErr else []
    pipe := [], logs := [] }

/-- What a context record keeps of a bench. -/
def Bench.saved (y : Bench) (spill : Bool) : Bench :=
  { y with
    elems := y.elems.mapVal (fun e el => el.saved (if spill then (y.plane.elems.find? e).map ElemRec.nlb else none))
    port := { y.port with reqs := [] }
    node := { y.node with slot := 0, scaleBufs := [], drains := [] }
    shadow := .none }

/-- Records of a die's context store: 512, the oldest move to supervisor memory. -/
def Die.storeContext (d : Die) (r n : Nat) : Die :=
  let total (l : List (Nat × Nat)) : Nat := (l.map Prod.snd).foldl (· + ·) 0
  { d with ctxStore := (d.ctxStore ++ [(r, n)]).foldr (fun c acc => if total acc + c.2 ≤ 512 then c :: acc else acc) [] }

/-- A region leaves its benches with its context saved; a fill in progress is discarded with the FLOAD context it was to
hold (R362). -/
def State.takeOff (s : State) (r : Nat) (l : Life) : State :=
  let spill := (s.rnode r).eff.spills
  let x := s.reg r
  let until_ := s.cycle + x.swapCycles 32 spill
  let s := (s.abandon r).vacate r
  let s := s.updDie x.place.die (fun d => d.storeContext r x.benches.length)
  s.updReg r (fun x =>
    { x with
      life := l
      benches := x.benches.mapVal (fun _ y => y.saved spill)
      sheets := []
      switching := none, owed := [], refill := 0, wantOff := none, shape := none, recorded := false
      swapUntil := until_
      since := s.time
      seq := { x.seq with
        cache := [], filling := none, hold := { x.seq.hold with quiet := true }
        loaded := if x.filling then none else x.seq.loaded } })

/-- STATE 3 of a pre-empted region, and of a graph and a job of which nothing is resident any more (R30). -/
def State.markPreempted (s : State) (r : Nat) : State :=
  let x := s.reg r
  let off (p : Region → Bool) : Bool := !s.regions.any (fun y => p y.2 && (y.2.life == .running || y.2.life == .filling || y.2.life == .starting))
  let s := s.setNode x.job x.node 3
  let s := if off (fun y => y.graph == x.graph) then s.setNode x.job (s.graph x.graph).node 3 else s
  if off (fun y => y.job == x.job) then s.jobState x.job 3 0 0#24 [] true else s

/-- A fill that a request finds in progress: it is awaited when at most 1,700 cycles of it remain (R362). -/
def Region.fillPending (x : Region) (now : Nat) : Bool :=
  x.benches.any (fun y => y.2.shadow.state == 1 && decide (y.2.shadow.doneAt ≤ now + 1700))

/-- No region of a graph is running: what stands on its benches has not begun. -/
def State.idleGraph (s : State) (g : Nat) : Bool := !(s.graph g).regions.any (fun r => (s.reg r).life == .running)

/-- A pre-emption can be carried out now: at the boundary, with every switch that began complete (R54, R362); a region
that has not begun has its boundary at once. -/
def State.mayPreempt (s : State) (r : Nat) : Bool :=
  let x := s.reg r
  x.wantOff.isSome && s.sup.activeDie.isSome && (x.life == .running || x.life == .starting) && x.seq.hold.atS.isNone
    && !x.fillPending s.cycle && x.switching.all (fun w => w.done) && (s.idleGraph x.graph || s.atBoundaryOf x.graph)

/-- Pre-emption at its boundary (R358). -/
def execPreemption (r : Nat) (s : State) : Answer :=
  if s.mayPreempt r then
    let g := (s.reg r).graph
    let s := (s.takeOff r .preempted).markPreempted r
    let s := s.updGraph g (fun x => { x with held := true })
    .next (s.after ((s.reg r).swapUntil - s.cycle) (.contextSwap r))
  else .next s

/-- The boundary does not come within RWAIT: every uncommitted round of the graph is voided, and the region is
pre-empted at once (R31, R358). -/
def execPreemptionRwaitExpiry (r : Nat) (s : State) : Answer :=
  let x := s.reg r
  match x.wantOff with
  | some t =>
    if t + s.rwait r ≤ s.cycle && s.sup.activeDie.isSome && (x.life == .running || x.life == .starting)
        && x.seq.hold.atS.isNone && !s.atBoundaryOf x.graph then
      execPreemption r (s.voidRound x.graph (s.graph x.graph).next)
    else .next s
  | none => .next s

/-- The record of a pre-empted region is in the context store: its benches are free (R360). -/
def execContextSwap (r : Nat) (s : State) : Answer :=
  let x := s.reg r
  if x.life = .preempted ∧ x.swapUntil ≤ s.cycle then
    .next (s.updSup (fun p => { p with resDirty := true, look := s.cycle }))
  else .next s

/-! ### Which regions give way (R31, R91, R217) -/

/-- A resident region's effective priority for a waiter, one higher than the rule's number so that a region waiting on
probes counts lower than every waiter (R217, R343). -/
def State.residentPrio (s : State) (r : Nat) : Nat :=
  let x := s.reg r
  if (s.graph x.graph).held && s.hasParked r true then 0
  else if x.seq.yielded then 1 else (s.rnode r).eff.prio + 1

/-- A region at priority 15 has held its benches for its SHARE of the window of 256 ms (R31). -/
def State.shareSpent (s : State) (r : Nat) : Bool :=
  decide ((s.rnode r).eff.share * msUnits ≤ s.time - (s.reg r).since)

/-- The regions that may give way to a waiter of a job: in the order of R91. -/
def State.mayGiveWay (s : State) (job prio : Nat) : List Nat :=
  let on (l : Life) : Bool := l == .running || l == .starting || l == .filling
  let l := (s.regions.filter (fun x => on x.2.life && x.2.job != job
    && (decide (s.residentPrio x.1 < prio + 1) || (prio == 15 && s.residentPrio x.1 == 16 && s.shareSpent x.1)))).map Prod.fst
  l.mergeSort (fun a b =>
    decide (s.residentPrio a < s.residentPrio b)
      || (s.residentPrio a == s.residentPrio b && decide ((s.reg b).order ≤ (s.reg a).order)))

/-- The regions that are on their way off their benches: a pre-emption has been asked for, or the context is being swapped
out. A waiter counts their benches as its own already (R91). -/
def State.leaving (s : State) : List Nat :=
  (s.regions.filter (fun x => x.2.holds s.cycle && (x.2.wantOff.isSome || x.2.life == .preempted))).map Prod.fst

/-- Spots for some needs of a job with some regions out of the way. -/
def State.spotsWithout (s : State) (job : Nat) (l : List (Nat × Need)) (but : List Nat) : Option (List (Nat × Spot)) :=
  s.spread s.tickets job [] l (s.occupied but)

/-- The first regions in order without which the waiter fits. -/
def State.firstVictims (s : State) (job : Nat) (l : List (Nat × Need)) : List Nat → List Nat → Option (List Nat)
  | [], acc => if (s.spotsWithout job l acc).isSome then some acc else none
  | v :: vs, acc =>
    if (s.spotsWithout job l acc).isSome then some acc
    else s.firstVictims job l vs ((acc ++ s.unit v).eraseDups)

/-- Of these, beyond the ones that are leaving, those whose benches the waiter needs. -/
def State.victims (s : State) (job prio : Nat) (l : List (Nat × Need)) : List Nat :=
  let off := s.leaving
  match s.firstVictims job l ((s.mayGiveWay job prio).filter (fun v => !off.contains v)) off with
  | none => []
  | some vs =>
    let new := vs.filter (fun v => !off.contains v)
    new.foldr (fun v acc =>
      let rest := acc.filter (fun k => !(s.unit v).contains k)
      if (s.spotsWithout job l (off ++ rest)).isSome then rest else acc) new

/-! ### Shrink and grow (R87, R88, R324) -/

/-- The spot of a candidate at a region's own origin, when it passes its checks there. -/
def State.sameOrigin (s : State) (r img : Nat) (o : Occ) : Option Spot :=
  let x := s.reg r
  let j := s.job x.job
  let m := j.images.getD img .empty
  if (s.candidateBad x.job x.node img).isSome || (s.check15 [x.place.die] m).isSome
      || decide (16 < x.place.row + m.rows ∨ 16 < x.place.col + m.cols) then none
  else s.spotAt o (Need.of x.graph x.node (j.triple x.node) m) x.place.die x.place.row x.place.col

/-- A candidate lies inside the region's present rectangle. -/
def State.inside (s : State) (r img : Nat) : Bool :=
  let x := s.reg r
  let m := (s.job x.job).images.getD img .empty
  img != x.place.img && decide (m.rows ≤ x.place.rows ∧ m.cols ≤ x.place.cols)

/-- The spots of a candidate for every member of a unit at its own origin, and what is then occupied (R90). -/
def State.unitSpots (s : State) (img : Nat) : List Nat → Occ → Option (List (Nat × Spot) × Occ)
  | [], o => some ([], o)
  | r :: rs, o =>
    match s.sameOrigin r img o with
    | none => none
    | some p =>
      let x := s.reg r
      let j := s.job x.job
      (s.unitSpots img rs (o.take (Need.of x.graph x.node (j.triple x.node) (j.images.getD img .empty)) p)).map (fun q =>
        ((r, p) :: q.1, q.2))

/-- A candidate lies inside the present rectangle of every member of a unit. -/
def State.unitInside (s : State) (us : List Nat) (img : Nat) : Bool := us.all (fun u => s.inside u img)

/-- A shrink that leaves a waiter what it needs: the first candidate in the order of R82 that every member of the unit can
take (R87, R90). -/
def State.shrinkFor (s : State) (v : Nat) (but : List Nat) (job : Nat) (l : List (Nat × Need)) : Option Nat :=
  if !(s.rnode v).eff.shrinks then none
  else
    List.find? (fun k =>
      match s.shapeOf v k with
      | some img =>
        s.unitInside (s.unit v) img && (match s.unitSpots img (s.unit v) (s.occupied but) with
          | some (_, o) => (s.spread s.tickets job [] l o).isSome
          | none => false)
      | none => false) (9 :: upTo (s.rnode v).alts.length)

/-- The image to which a region's change of shape leads. -/
def State.shapeImg (s : State) (r : Nat) : Image :=
  s.image r (((s.reg r).shape.bind (fun q => s.shapeOf r q.1)).getD 0)

/-- The kept benches of a changing region whose shadow planes stand in some state. -/
def State.keptShadows (s : State) (r : Nat) (p : Shadow → Bool) : List Bool :=
  ((s.reg r).benches.filter (fun y => (s.reg r).keeps (s.shapeImg r) y.1)).map (fun y => p y.2.shadow)

/-- A change of shape of a unit begins: its regions hold at one next boundary, and the candidate's context 0 is filled; in
a folded region, whose passes use the shadow planes, once the boundary is reached (R78, R86, R87). -/
def State.beginShape (s : State) (r k : Nat) : State :=
  match s.shapeOf r k with
  | some img =>
    let us := s.unit r
    let n := (us.map (fun u => (s.reg u).seq.csrs.round)).foldl (fun m n => if precedes m n then n else m)
      (s.reg r).seq.csrs.round
    us.foldl (fun s u =>
      let s := s.updReg u (fun x => { x with
        shape := some (k, match x.shreq with | some (k', t) => if k' = k then t else s.cycle | none => s.cycle)
        preq := some n.toNat, seq := { x.seq with loaded := none } })
      if (s.reg u).place.fold = 0 then s.fillShape u img else s) s
  | none => s

/-- Nothing of a region's shadow planes is spoken for: no switch is armed or under way, and no change of shape. -/
def Region.shapeFree (x : Region) : Bool :=
  x.life == .running && x.shape.isNone && x.preq.isNone && x.wantOff.isNone && !x.seq.armed && (x.switching.isNone || 0 < x.place.fold)

/-- A shrink of a unit to a candidate may begin (R87, R90, R324). -/
def State.mayShrink (s : State) (r k : Nat) : Bool :=
  let us := s.unit r
  us.all (fun u => (s.reg u).life == .running) && (match s.shapeOf r k with
    | some img => s.unitInside us img && (s.unitSpots img us (s.occupied us)).isSome
    | none => false)

/-- A waiter that fits nowhere makes regions give way: each is shrunk where that frees enough, else pre-empted (R91). -/
def State.makeWay (s : State) (job prio : Nat) (l : List (Nat × Need)) : State :=
  let vs := s.victims job prio l
  let off := s.leaving
  vs.foldl (fun s v =>
    if (s.reg v).wantOff.isSome || (s.reg v).shape.any (fun q => q.1 != 8) then s
    else
      match (if (s.unit v).all (fun u => (s.reg u).shapeFree) then s.shrinkFor v (off ++ vs) job l else none) with
      | some k => s.beginShape v k
      | none => s.askPreempt v) s

/-- The boundary of a shape change is reached: round n has committed with its marker past every stateful node, or a void
holds the graph, and no fill is under way. -/
def State.shapeReady (s : State) (r : Nat) : Bool :=
  let x := s.reg r
  let g := s.graph x.graph
  x.shape.isSome && x.life == .running && s.sup.activeDie.isSome && x.seq.hold.atS.isNone && !x.filling
    && x.preq.any (fun n =>
      g.held && x.switching.isNone
        || precedes (BitVec.ofNat 24 n) g.next && s.drained r ⟨BitVec.ofNat 24 n, none, decide (0 < x.place.fold), false⟩
          && x.switching.all (fun w => w.pass && w.start.isNone && w.round == BitVec.ofNat 24 n))

/-- The new image replaces the old one: elements at zero, the sequencer, ROUND, LASTRND and the stop bit stand; planes
switch under R54 (R84, R87, R325). -/
def State.reshape (s : State) (r img : Nat) (p : Spot) : State :=
  let s := s.vacate r
  let x := s.reg r
  let m := (s.job x.job).images.getD img .empty
  let n := x.seq.csrs.round
  let s := s.updDie p.die (fun d => { d with qfree := d.qfree - p.qmem })
  let s := s.updReg r (fun x =>
    let y := x.freshFabric m n
    { y with
      place := placeAt p m img x.place.rsize
      benches := y.benches.mapVal (fun b z => { z with shadow := ⟨2, 0, img, s.cycle, m.plane 0 b, []⟩ })
      fab := { y.fab with stop := x.fab.stop, stopSince := x.fab.stopSince }
      seq := { x.seq with csrs := { x.seq.csrs with fpass := 0#4 }, loaded := none, armed := false }
      switching := some ⟨x.lastRnd, some s.cycle, false, false⟩
      refill := 0, preq := none, shape := none })
  (s.installGrants r).updSup (fun p => { p with resDirty := true })

/-- A request that the program made is answered: 2 done, 3 refused (R324, R327). -/
def Region.answerShape (x : Region) (k answer : Nat) : Region :=
  if x.shreq.any (fun q => q.1 == k) then { x with shreq := none, seq := { x.seq with request := answer } } else x

/-- A change of shape that can not be made: FSHRINK is refused, FGROW stays pending (R324). A folded region takes its own
next context into its shadow planes again. -/
def State.refuseShape (s : State) (us : List Nat) (k : Nat) : State :=
  us.foldl (fun s u =>
    let x := s.reg u
    let began := x.shape.isSome
    let s := s.updReg u (fun x => { (if k = 8 then x else x.answerShape k 3) with
      shape := none, preq := if began then none else x.preq })
    if !began || x.place.fold = 0 then s
    else if (s.graph x.graph).held then (s.updReg u (fun x => { x with refill := 1 })).startFill u x.place.img 0
    else s.startFill u x.place.img ((x.place.ctx + 1) % (x.place.fold + 1))) s

/-- A change of shape of a unit ends: done, or given up when its candidate does not fit any more; an invalid plane makes
it a pre-emption (R87, R90). -/
def State.endShape (s : State) (r k : Nat) : State :=
  let us := s.unit r
  if !us.all s.shapeReady then s
  else if us.any (fun u => (s.keptShadows u (fun h => h.state == 3)).any id) then
    (us.foldl (fun s u => s.updReg u (fun x => { x with preq := none })) s).askPreempt r
  else
    match s.shapeOf r k with
    | none => s
    | some img =>
      if !us.all (fun u => (s.keptShadows u (fun h => h.state == 2 && h.img == img && h.ctx == 0)).all id) then
        us.foldl (fun s u => s.fillShape u img) s
      else
        match (if k = 8 ∨ s.unitInside us img then s.unitSpots img us (s.occupied us) else none) with
        | some (spots, _) =>
          spots.foldl (fun s q => (s.reshape q.1 img q.2).updReg q.1 (fun x =>
            { x.answerShape k 2 with shrunk := decide (k < 8) })) s
        | none => s.refuseShape us k

/-- FSHRINK's request, or a shrink whose boundary has come (R87, R324): a request for a candidate that is no shrink of
the region, or that does not fit, is refused. -/
def execShrink (r : Nat) (s : State) : Answer :=
  let x := s.reg r
  match x.shape, x.shreq with
  | some (k, _), _ => if k = 8 then .next s else .next (s.endShape r k)
  | none, some (k, _) =>
    if k = 8 || s.sup.activeDie.isNone || !x.shapeFree then .next s
    else if s.mayShrink r k then .next (s.beginShape r k)
    else .next (s.refuseShape [r] k)
  | none, none => .next s

/-- The first region of its triple set in the package. -/
def State.leads (s : State) (r : Nat) : Bool := (s.unit r).head? == some r

/-- Needs of a unit under an image. -/
def State.unitNeeds (s : State) (us : List Nat) (img : Nat) : List (Nat × Need) :=
  us.map (fun r =>
    let x := s.reg r
    let j := s.job x.job
    (x.node, Need.of x.graph x.node (j.triple x.node) (j.images.getD img .empty)))

/-- A launch waits for benches: its dependences hold, and regions of it have never been placed. -/
def State.jobWaits (s : State) (j : Nat) : Bool :=
  let x := s.job j
  decide (1 ≤ x.state ∧ x.state ≤ 3) && x.since != 0 && !(s.unplaced j).isEmpty

/-- What everyone who waits needs: effective priority, job and needs. -/
def State.waiterNeeds (s : State) : List (Nat × Nat × List (Nat × Need)) :=
  ((s.jobs.filter (fun j => s.jobWaits j.1)).map (fun j =>
    let s := s.makeGraphs j.1
    let needs := match s.asksOf j.1 (s.unplaced j.1) with
      | .ok asks => (s.withinBudget j.1 asks).map (fun a => (a.node, a.need))
      | .error _ => []
    (s.waitPrio (j.2.node j.2.rcb).eff.prio j.2.since, j.1, needs)))
  ++ (s.regions.filter (fun x => x.2.life.off && s.leads x.1)).map (fun x =>
    (s.waitPrio (s.rnode x.1).eff.prio x.2.since, x.2.job, s.unitNeeds (s.unit x.1) x.2.place.img))

/-- A waiter of at least a priority needs what some spots would take: it fits without them and not with them, now or when
those that give way to it are gone (R88). -/
def State.neededOver (s : State) (prio : Nat) (take : Occ → Occ) : Bool :=
  s.waiterNeeds.any (fun w =>
    let fits (o : Occ) : Bool := (s.spread s.tickets w.2.1 [] w.2.2 o).isSome
    let test (o : Occ) : Bool := fits o && !fits (take o)
    decide (prio ≤ w.1) && !w.2.2.isEmpty
      && (test (s.occupied []) || test (s.occupied (s.leaving ++ s.mayGiveWay w.2.1 w.1))))

/-- A shrunk region, or one that asked for it, may grow back to its primary image: what it needs is free, in its budget,
and no waiter of its priority or a higher one needs it (R24, R88, R324). -/
def State.mayGrow (s : State) (r : Nat) : Bool :=
  let x := s.reg r
  let img := (s.rnode r).word 8
  let us := s.unit r
  let needs := s.unitNeeds us img
  s.sup.activeDie.isSome && us.all (fun u => (s.reg u).shapeFree) && (s.graph x.graph).boundary.isNone
    && (x.shrunk || x.shreq.any (fun q => q.1 == 8)) && img != x.place.img
    && (match s.unitSpots img us (s.occupied us) with
      | some (spots, _) =>
        let at_ := spots.map (fun q => ((s.reg q.1).node, q.2))
        s.budgetFits x.job us needs at_
          && !s.neededOver (s.rnode r).eff.prio (fun o => (needs.zip at_).foldl (fun o q => o.take q.1.2 q.2.2) o)
      | none => false)

/-- A grow begins when its conditions hold, and ends at the boundary. -/
def execGrow (r : Nat) (s : State) : Answer :=
  let x := s.reg r
  if s.mayGrow r then .next (s.beginShape r 8)
  else if x.shape.any (fun q => q.1 == 8) then .next (s.endShape r 8)
  else .next s

/-- A shrink that is not complete within RWAIT voids the current round, and ends at the boundary that the void makes. -/
def execShrinkRwaitExpiry (r : Nat) (s : State) : Answer :=
  let x := s.reg r
  match x.shape with
  | some (k, t) =>
    if k != 8 && decide (t + s.rwait r ≤ s.cycle) && s.sup.activeDie.isSome && !(s.graph x.graph).held then
      .next ((s.voidRound x.graph (s.graph x.graph).next).endShape r k)
    else .next s
  | none => .next s

/-! ### Resume (R361) and relaunch (R81 to R84) -/

/-- NPRE (48) or NRELA (32) counted in every node that the event concerns (R29, R30): the kernels and the region, and with
the first region of a triple set the graph and the job. -/
def State.countUnit (s : State) (us : List Nat) (off : Nat) : State :=
  let r := us.headD 0
  let s := us.foldl (fun s u =>
    let x := s.reg u
    (x.kernels.foldl (fun s k => s.countNode x.job k.2.node off) s).countNode x.job x.node off) s
  let x := s.reg r
  (s.countNode x.job (s.graph x.graph).node off).countNode x.job (s.job x.job).rcb off

/-- A region at a spot under its present image finds there what its active FLOAD context names (R16, R322). -/
def State.actFits (s : State) (r : Nat) (place : Placement) : Bool :=
  let x := s.reg r
  place.act == place.img
    || ((s.updReg r (fun x => { x with place := place })).installGrants r).contextHeld r (s.image r x.place.act) x.place.ctx

/-- A region comes back to benches: with its saved context, or afresh under another image or after its record was lost.
The stop bit is zero at a relaunch (R325). -/
def State.comeBack (s : State) (r img : Nat) (p : Spot) : State :=
  let x := s.reg r
  let j := s.job x.job
  let m := j.images.getD img .empty
  let act := if img = x.place.img ∧ m.fold = 0 then x.place.act else img
  let ctx := if img = x.place.img ∧ m.fold = 0 then x.place.ctx else 0
  let a := j.images.getD act .empty
  let place := { placeAt p m img x.place.rsize with act := act, ctx := ctx, ii := a.ii, rtype := a.rtype }
  let same := img == x.place.img && !x.lost && s.actFits r place
  let place := if same then place else placeAt p m img x.place.rsize
  let n := (s.graph x.graph).next
  let stored := (s.die x.place.die).ctxStore.any (fun c => c.1 == r)
  let swap := x.swapCycles (if stored then 32 else 8) (s.rnode r).eff.spills
  let (s, k) := ({ s with sup := { s.sup with order := s.sup.order + 1 } }, s.sup.order)
  let s := s.updDie x.place.die (fun d => { d with ctxStore := d.ctxStore.filter (fun c => c.1 != r) })
  let s := s.updDie p.die (fun d => { d with qfree := d.qfree - p.qmem })
  let s := s.updReg r (fun x =>
    let y := if same then x else x.fresh m n (s.rnode r).eff.handler
    { y with
      place := place
      life := .filling, refill := if same then 3 else 0, lost := false, shrunk := false
      fab := { y.fab with stop := y.fab.stop && x.life == .preempted }
      swapUntil := if same then s.cycle + swap else 0
      preq := none, wantOff := none, shape := none, since := s.time, order := k })
  let s := (s.startFill r place.act place.ctx).connect (s.reg r).graph
  if x.lost then s.event r 0xA9 0#64 0#64 (posWord x.place.die (x.dieBench 0) 0 0 0 0) 0#64 else s

/-- The regions of a unit come back at their spots, unless a grant table is full (check 16). -/
def State.unitBack (s : State) (us : List Nat) (img : Nat) (spots : List (Nat × Spot)) : State :=
  let s' := us.foldl (fun s r =>
    match List.find? (fun q => q.1 == (s.reg r).node) spots with
    | some q => s.comeBack r img q.2
    | none => s) s
  let j := (s.reg (us.headD 0)).job
  match s'.grantShort us [] with
  | some short => s.grantsFull j short
  | none => us.foldl (fun s r => s.installGrants r) (s'.note (.placement j))

/-- A unit is placed again, or makes way for itself. -/
def State.unitPlace (s : State) (us : List Nat) (img : Nat) : State × Bool :=
  let r := us.headD 0
  let x := s.reg r
  let needs := s.unitNeeds us img
  let (s, tk) := s.ticket
  match s.spread tk x.job [] needs (s.occupied []) with
  | some spots =>
    let s' := s.unitBack us img spots
    (s', (s'.reg r).life == .filling)
  | none => (s.makeWay x.job (s.waitPrio (s.rnode r).eff.prio x.since) needs, false)

/-- Regions become waiters for a relaunch: NRELA counts it (R29). -/
def State.toRelaunch (s : State) (us : List Nat) : State :=
  (us.foldl (fun s k => s.updReg k (fun y => { y with life := .waiting, nrela := y.nrela + 1 })) s).countUnit us 32

/-- Resume of a pre-empted region, and of its triple set (R90, R361); one whose image does not pass check 15 any more is
relaunched (R49, R81). -/
def execResume (r : Nat) (s : State) : Answer :=
  let x := s.reg r
  let us := s.unit r
  if s.sup.activeDie.isSome && us.all (fun k => (s.reg k).life == .preempted && decide ((s.reg k).swapUntil ≤ s.cycle))
      && (s.graph x.graph).failBy.isNone && !us.isEmpty && (s.job x.job).grantWait.isNone then
    if us.any (fun k => (s.reg k).lost) || (s.check15 (upTo 4) (s.image r x.place.img)).isSome then .next (s.toRelaunch us)
    else
      let (s, ok) := s.unitPlace us x.place.img
      if ok then
        .next (((us.foldl (fun s k => s.updReg k (fun y => { y with npre := y.npre + 1 })) s).countUnit us 48).gangPlacedNow x.job)
      else .next s
  else .next s

/-- Regions whose uncommitted rounds are void leave their benches to be relaunched (R81, R90, R350). -/
def State.sendAway (s : State) (r : Nat) : State :=
  let g := (s.reg r).graph
  let s := if (s.graph g).held then s else s.voidRound g (s.graph g).next
  let us := (s.unit r).filter (fun k => (s.reg k).life == .running || (s.reg k).life == .filling || (s.reg k).life == .starting)
  let s := us.foldl (fun s k =>
    (s.takeOff k .waiting).updReg k (fun y => { y with
      preq := none, seq := { y.seq with hold := { y.seq.hold with atS := none } } })) s
  if us.isEmpty then s else s.toRelaunch us

/-- No candidate fits regions of a graph (R83): the rest of the graph is pre-empted at its next round boundary, and the
cause goes to the job's handler on a resident region of the job, or to S. -/
def State.graphFails (s : State) (g r img : Nat) (info3 : Nat) : State :=
  let j := (s.graph g).job
  let others := (s.graph g).regions.filter (fun k =>
    (s.reg k).life == .running || (s.reg k).life == .starting || (s.reg k).life == .filling)
  let s := (others.foldl (fun s k => s.askPreempt k) s).gangAlarm j
  let res := (s.regions.filter (fun y => y.2.job == j && y.2.graph != g && y.2.life == .running)).map (fun y =>
    (y.2.place.die * 256 + y.2.dieBench 0, y.1))
  match res with
  | [] =>
    let t : TrapRec := ⟨0x8E#8, .async, 0#57, 0#24, dw img, 0#64, 0#64, dw info3, s.time⟩
    let (s, told) := s.tellS r t 1
    (s.updSeq r (fun q => { q with hold := { q.hold with atS := some (t, false), told := told } })).updGraph g (fun x =>
      { x with failBy := some r })
  | y :: ys =>
    let h := (ys.foldl (fun m z => if z.1 < m.1 then z else m) y).2
    (s.asyncRaise h 0x8E (dw img) 0#64 0#64 (dw info3)).updGraph g (fun x => { x with failBy := some h })

/-- No candidate fits a region and its triple set at a relaunch: they fail, and keep their LASTRND (R83). -/
def State.relaunchFails (s : State) (r img info3 : Nat) : State :=
  let x := s.reg r
  let s := (s.unit r).foldl (fun s k =>
    (s.failNode x.job (s.reg k).node 5 0x8E 0#24).updReg k (fun y => { y with life := .failed })) s
  s.graphFails x.graph r img info3

/-- Relaunch of a region and its triple set under the first candidate that fits every member (R82, R90). -/
def execRelaunch (r : Nat) (s : State) : Answer :=
  let x := s.reg r
  let us := s.unit r
  if s.sup.activeDie.isSome && us.all (fun k => (s.reg k).life == .waiting) && !us.isEmpty
      && (s.graph x.graph).failBy.isNone && (s.job x.job).grantWait.isNone then
    let dies := us.map (fun k => (s.reg k).place.die)
    let n := s.rnode r
    let pick := n.cands.foldl (fun acc c =>
      match acc with
      | .ok i => .ok i
      | .error e =>
        if us.any (fun k => (s.candidateBad x.job (s.reg k).node c.1).isSome) then .error e
        else
          match dies.findSome? (fun d => s.check15 [d] ((s.job x.job).images.getD c.1 .empty)) with
          | none => .ok c.1
          | some f => .error (c.1, f)) (Except.error (n.word 8, 0) : Except (Nat × Nat) Nat)
    match pick with
    | .ok img =>
      let s := us.foldl (fun s k => s.passImage x.job (s.reg k).node img) s
      .next ((s.unitPlace us img).1.gangPlacedNow x.job)
    | .error (img, f) => .next (s.relaunchFails r img f)
  else .next s

/-- The handler that 0x8E was raised to has returned, or S has acted (R83). -/
def State.failHandled (s : State) (g : Nat) : Bool :=
  match (s.graph g).failBy with
  | none => false
  | some h =>
    let q := (s.reg h).seq
    (s.reg h).life == .released || (s.reg h).life == .finished
      || (!q.pending.any (fun t => t.cause == 0x8E#8) && !q.hold.spill.any (fun t => t.cause == 0x8E#8)
        && !(q.csrs.priv && q.csrs.trapcause == 0x8E#8) && !q.hold.atS.any (fun t => t.1.cause == 0x8E#8))

/-! ### A capacity that fell (R81, R118) -/

/-- A resident region still fits where it stands, with the FLOAD context that it runs. -/
def State.stillFits (s : State) (r : Nat) : Bool :=
  let x := s.reg r
  let j := s.job x.job
  let m := j.images.getD x.place.img .empty
  let live := (s.die x.place.die).liveGroups
  (s.check15 [x.place.die] m).isNone && x.place.groups.all (fun g => live.contains g.2)
    && (x.place.act == x.place.img || s.contextHeld r (s.image r x.place.act) x.place.ctx)
    && (s.spotAt (s.occupied [r]) (Need.of x.graph x.node (j.triple x.node) m) x.place.die x.place.row x.place.col).isSome

/-- A context that FLOAD has loaded and that the region can not hold any more leaves the shadow planes as a failed FLOAD
does (R16, R322). -/
def State.dropLoaded (s : State) (r : Nat) : State :=
  match (s.reg r).seq.loaded with
  | some (img, ctx) =>
    if s.contextHeld r (s.image r img) ctx then s
    else (s.updReg r Region.spoilShadows).asyncRaise r 0x8E (dw img) 0#64 0#64 0#64
  | none => s

/-- Derrick tests every resident region against the readings: one that needs more is voided and relaunched (R81). -/
def State.retest (s : State) : State :=
  let s := s.updSup (fun p => { p with retest := false })
  let on := (s.regions.filter (fun x => x.2.life == .running || x.2.life == .filling || x.2.life == .starting)).map Prod.fst
  on.foldl (fun s r =>
    if (s.reg r).life == .waiting then s else if s.stillFits r then s.dropLoaded r else s.sendAway r) s

/-- A reading fell: CAPVEC shows it, and the resident regions are tested, while no complex is active after the takeover
(R73, R81, R118). -/
def execCapacityReduction (_die cls : Nat) (s : State) : Answer :=
  let s := { s with regions := s.regions.mapVal (fun _ x =>
    { x with seq := { x.seq with csrs := { x.seq.csrs with capvec := x.seq.csrs.capvec ||| BitVec.ofNat 8 (2 ^ (cls % 8)) } } }) }
  let s := s.updSup (fun p => { p with resDirty := true, retest := true })
  .next (if s.sup.activeDie.isSome then s.retest else s)

/-! ### What S does with a trap (R350) -/

/-- End: the job ends in STATE 5 with the cause. -/
def execTrapEnd (r : Nat) (s : State) : Answer :=
  match (s.reg r).seq.hold.atS with
  | some (t, _) =>
    if s.sup.activeDie.isSome then
      .next ((s.note (.trap r)).cancelJob (s.reg r).job t.cause.toNat t.tag [t.info0, t.info1, t.info2, t.info3])
    else .next s
  | none => .next s

/-- Relaunch: the uncommitted rounds are voided, and the region is relaunched. -/
def execTrapRelaunch (r : Nat) (s : State) : Answer :=
  match (s.reg r).seq.hold.atS with
  | some _ => if s.sup.activeDie.isSome then .next ((s.note (.trap r)).sendAway r) else .next s
  | none => .next s

/-! ### The first placement (R66, R77) -/

/-- Spots for as many asks, in the order of the tree and with triple sets whole, as fit the budgets where they come to
stand (R24, R48, R89). -/
def State.placeable (s : State) (j tk : Nat) (o : Occ) : Nat → List Ask → Option (List Ask × List (Nat × Spot))
  | 0, _ => none
  | fuel + 1, asks =>
    let needs := asks.map (fun a => (a.node, a.need))
    match s.spread tk j [] needs o with
    | some spots => some (asks, spots)
    | none =>
      if asks.isEmpty || (s.spreadUnits tk (fun _ => true) (setsOf Prod.fst (s.job j).triple needs) o []).isNone then none
      else s.placeable j tk o fuel ((setsOf Ask.node (s.job j).triple asks).dropLast.flatten)

/-- A launch whose dependences hold is placed; one with a dependence that can never hold ends (R66). -/
def execPlacement (j : Nat) (s : State) : Answer :=
  let x := s.job j
  if s.sup.activeDie.isNone || !(x.state == 1 || x.state == 2 || x.state == 3) then .next s
  else
    let first : Bool := !s.regions.any (fun y => y.2.job == j)
    match List.find? (fun d => s.depState x.queue d == some false) x.deps with
    | some d => if first then .next (s.jobState j 6 0xAF 0#24 [dw d.1.toNat] false) else .next s
    | none =>
      if first && !s.mayPlace j then .next s
      else
        let s := s.makeGraphs j
        let left := s.unplaced j
        if left.isEmpty then .next s.recordEnds
        else
          match s.asksOf j left with
          | .error (g, c, info) =>
            if first then .next (s.jobState j 6 c 0#24 info true)
            else
              let (s, k) := s.graphOf j g
              .next (s.graphFails k ((s.graph k).regions.headD (s.jobRegion j)) (info.headD 0#64).toNat (info.getD 3 0#64).toNat)
          | .ok asks =>
            let s := s.markChecked j asks
            let fit := s.withinBudget j asks
            if fit.isEmpty || x.grantWait.isSome then .next s
            else
              let (s, tk) := s.ticket
              match s.placeable j tk (s.occupied []) (fit.length + 1) fit with
              | some (fit, spots) => if fit.isEmpty then .next s else .next (s.grantAll j fit spots)
              | none =>
                .next (s.makeWay j (s.waitPrio (x.node x.rcb).eff.prio x.since) (fit.map (fun a => (a.node, a.need))))

end Sys2Proof.Machine
end

