-- ==== Sys2Proof/Machine/Launch.lean ====
section
/-! DEFINITION. Notifies, launch packets and what Derrick does with them (R60 to R67, R340). -/

namespace Sys2Proof.Machine

/-! ### Notifies (R61 to R63) -/

/-- How a notify or a report message fares in the checks of R62. -/
inductive NotifyRes where
  | accepted
  | unroutable
  | malformed
  | stale
  | badTag
  deriving DecidableEq, Repr

/-- The input of a notify's tag: both doublewords, the source chip and the new packets (R61). -/
def State.notifyBody (s : State) (src : BitVec 22) (dw0 dw1 : DWord) : List Byte :=
  let q := dw0.toNat % 2 ^ 12
  let d := s.queue q
  let n := (dw1.toNat / 2 ^ 32 + 2 ^ 32 - d.tail) % 2 ^ 32
  tagHead dw0 dw1 src ++ (upTo n).flatMap (fun k => s.packetBytes q ((d.tail + k) % 2 ^ 32))

/-- The checks in their order; a report message passes over the third (R62, R69). A package without a chip number accepts
none (R415). -/
def State.notifyCheck (s : State) (path : Path) (src : BitVec 22) (dw0 dw1 : DWord) (report : Option (BitVec 512))
    (tag : BitVec 128) : NotifyRes :=
  let q := dw0.toNat % 2 ^ 12
  let d := s.queue q
  let adv := (dw1.toNat / 2 ^ 32 + 2 ^ 32 - d.tail) % 2 ^ 32
  let used := (d.tail + 2 ^ 32 - d.head) % 2 ^ 32
  match (s.sup.queues.find? q).bind (fun d => if d.enable then d.key else none) with
  | none => .unroutable
  | some key =>
    if !s.nvm.chipOk then .unroutable
    else if !d.allows path src then .malformed
    else if report.isNone && (bits dw0.toNat 12 4 != 0 || dw1.toNat % 2 ^ 32 != 0 || adv == 0
        || decide (2 ^ d.lgSlots < used + adv)) then .malformed
    else if dw0.toNat / 2 ^ 16 ≤ d.lastSeq then .stale
    else
      let want := match report with
        | some body => reportTag key dw0 dw1 src (leBytes body.toNat 64)
        | none => kmac128 key "VSQ4 NOTIFY" (s.notifyBody src dw0 dw1)
      if tag = want then .accepted else .badTag

/-- A dropped notify counts in exactly one counter. -/
def State.dropNotify (s : State) (q : Nat) (e : NotifyRes) : State :=
  match e with
  | .unroutable => s.updSup (fun p => { p with unroutable := p.unroutable + 1 })
  | .malformed => s.updQueue q (fun d => d.count 3 0 16)
  | .stale => s.updQueue q (fun d => d.count 4 32 32)
  | .badTag => s.updQueue q (fun d => d.count 4 0 32)
  | .accepted => s

/-- The packet at HEAD. -/
def State.headPacket (s : State) (q : Nat) : List Nat :=
  let bs := s.packetBytes q (s.queue q).head
  (upTo 8).map (fun k => leNat ((bs.drop (8 * k)).take 8))

/-- The step that handles the packet at HEAD, by its KIND. -/
def State.packetEvent (s : State) (q : Nat) : Event :=
  match (s.headPacket q).headD 0 / 2 ^ 56 with
  | 2 => .cancelPacket q
  | 3 => .queryPacket q
  | _ => .launchPacket q

/-- Derrick takes the next packet of a queue after some time (R62). -/
def State.nextPacket (s : State) (q : Nat) : State :=
  if (s.queue q).head = (s.queue q).tail then s
  else
    let (s, t) := s.ticket
    s.after (1 + Config.derrickLatency t) (s.packetEvent q)

/-- A notify handled: accepted or dropped. -/
def State.notify (s : State) (n : NotifyMsg) : State × Bool :=
  let q := n.dw0.toNat % 2 ^ 12
  match s.notifyCheck n.path n.src n.dw0 n.dw1 none n.tag with
  | .accepted =>
    let idle := (s.queue q).head == (s.queue q).tail
    let s := (s.note (.notify q (n.dw0.toNat / 2 ^ 16))).updQueue q (fun d =>
      (d.setF 3 16 48 (n.dw0.toNat / 2 ^ 16)).setF 2 32 32 (n.dw1.toNat / 2 ^ 32))
    (if idle then s.nextPacket q else s, true)
  | e => (s.dropNotify q e, false)

/-- A notify arrives; with no complex in service it waits at its link (R73). -/
def execNotifyArrival (n : NotifyMsg) (s : State) : Answer :=
  if s.sup.activeDie.isSome then .next (s.notify n).1 else .next (s.after 1 (.notifyArrival n))

/-- A report message arrives: checked like a notify and appended to its queue's report ring (R69). -/
def execReportMessageReceived (m : ReportMsg) (s : State) : Answer :=
  if s.sup.activeDie.isNone then .next (s.after 1 (.reportMessageReceived m))
  else
    let q := m.dw0.toNat % 2 ^ 12
    match s.notifyCheck m.path m.src m.dw0 m.dw1 (some m.report) m.tag with
    | .accepted =>
      .next ((s.updQueue q (fun d => d.setF 3 16 48 (m.dw0.toNat / 2 ^ 16))).ringAppend q (leBytes m.report.toNat 64))
    | e => .next (s.dropNotify q e)

/-- S serves a launch service call: g receives 0 or 1, and the sequencer goes on (R63, R340). -/
def State.serveLaunch (s : State) (r : Nat) : State :=
  match (s.reg r).seq.hold.launch with
  | none => s
  | some (g, addr) =>
    let d (k : Nat) : DWord := dw (leNat (s.peek (s.reg r).job 2 (addr + 8 * k) 8))
    let (s, ok) := s.notify ⟨.localPath, s.nvm.chip, d 0, d 1, (d 3) ++ (d 2)⟩
    s.updSeq r (fun q =>
      { q with
        g := if g = 0 then q.g else q.g.put g (if ok then 0#64 else 1#64)
        csrs := { q.csrs with trapblk := q.pc.setWidth 57 }
        hold := { q.hold with launch := none } })

/-- A key installed by S: it and LASTSEQ at one instant (R60). -/
def execKeyInstallation (q : Nat) (key : BitVec 256) (lastSeq : BitVec 48) (s : State) : Answer :=
  .next (s.updQueue (q % 4096) (fun d => { d.setF 3 16 48 lastSeq.toNat with key := some key }))

/-! ### Packets (R64, R65) -/

/-- A packet's fields. -/
structure Packet where
  kind : Nat
  lid : Word
  rcb : Nat
  orig : BitVec 22
  deps : List (Word × Bool)
  bad : Bool
  deriving DecidableEq, Repr

/-- The packet at HEAD of a queue. DESIGN CHOICE (log 71): a dependence word at or past DEPCNT that is not zero, as R64 asks,
makes it malformed. -/
def State.packet (s : State) (q : Nat) : Packet :=
  let w := s.headPacket q
  let d (k : Nat) : Nat := w.getD k 0
  let n := bits (d 0) 48 3
  let kind := bits (d 0) 56 8
  { kind := kind
    lid := BitVec.ofNat 32 (d 0)
    rcb := bits (d 1) 0 57
    orig := BitVec.ofNat 22 (bits (d 2) 42 22)
    deps := (upTo (min n 4)).map (fun k => (BitVec.ofNat 32 (d (3 + k) / 2 ^ 32), bit (d (3 + k)) 31))
    bad := !(kind == 1 || kind == 2 || kind == 3) || bits (d 0) 51 4 != 0 || bits (d 0) 32 16 != 0 || bits (d 1) 57 7 != 0
      || bits (d 2) 0 42 != 0 || d 7 != 0 || decide (4 < n) || (!bit (d 0) 55 && bits (d 2) 42 22 != 0)
      || (kind != 1 && bits (d 1) 0 57 != 0)
      || (upTo 4).any (fun k => bits (d (3 + k)) 0 31 != 0 || (decide (n ≤ k) && d (3 + k) != 0)) }

/-- The unfinished launch of a queue with an LID. -/
def State.liveJob (s : State) (q : Nat) (lid : Word) : Option Nat :=
  (List.find? (fun j => j.2.queue == q && j.2.lid == lid && !j.2.final) s.jobs).map Prod.fst

/-- HEAD moves past a handled packet, and the next one is taken. -/
def State.headOn (s : State) (q : Nat) : State :=
  ((s.note (.head q)).updQueue q (fun d => d.setF 2 0 32 ((d.head + 1) % 2 ^ 32))).nextPacket q

/-- The report of a handled packet whose launch stands or stood: its state, or 0 when it is unknown. -/
def State.reportLid (s : State) (q : Nat) (p : Packet) : State :=
  match s.liveJob q p.lid with
  | some j => s.launchReport q p.lid (s.job j).state (s.job j).cause p.orig p.rcb (s.job j).infos
  | none =>
    match List.find? (fun o => o.1 == p.lid) (s.queue q).outcomes with
    | some o => s.launchReport q p.lid o.2.1 o.2.2.1 p.orig p.rcb o.2.2.2
    | none => s.launchReport q p.lid 0 0#8 p.orig p.rcb []

/-- The loader's checks 1 to 14 over the graphs of a job, graph by graph: the first failure, or the first conflict that
RACE flags (R49, R51). -/
def State.loaderChecks (s : State) (j : Nat) : List Nat → Option (Nat × Nat × Fail) → Option (Nat × Nat × Fail) × Option (Nat × Nat × Fail)
  | [], flag => (none, flag)
  | g :: gs, flag =>
    let all := s.currentImages j g
    match s.runChecks all all 13 with
    | some f => (some f, flag)
    | none =>
      match s.runChecks all all 14 with
      | some f =>
        if ((s.job j).node g).race = 1 then s.loaderChecks j gs (match flag with | some x => some x | none => some f)
        else (some f, flag)
      | none => s.loaderChecks j gs flag

/-- STATE 1 of every node of an accepted tree, children first; LASTRND of regions is 0xFF_FFFF (R29, R30). -/
def State.recordAccepted (s : State) (j : Nat) : State :=
  let t := (s.job j).tree
  [3, 2, 1, 0].foldl (fun s lvl =>
    (t.filter (fun n => n.2.level == lvl)).foldl (fun s n =>
      let s := if lvl = 2 then s.pokeD j (n.1 + 0x60) (0xFFFFFF * 2 ^ 24) else s
      s.setNode j n.1 1) s) s

/-- A launch that fails its checks: STATE 6 with cause and TRAPINFO. -/
def State.reject (s : State) (j cause : Nat) (info : List DWord) : State :=
  if s.nodeThere j (s.job j).rcb then s.jobState j 6 cause 0#24 info true
  else
    let s := s.updJob j (fun x => { x with
      state := 6, cause := BitVec.ofNat 8 cause
      info := info.zipIdx.foldl (fun m p => m.set 0#64 p.2 p.1) ([] : FMap DWord) })
    (s.reportJob j).retain j

/-- A launch packet that names a new launch: tree checks, copies, loader checks, and a launch table entry (R65). -/
def State.accept (s : State) (q : Nat) (p : Packet) : State :=
  let (s, j) := s.fresh
  let s := s.updSup (fun x => { x with order := x.order + 1 })
  let job : Job := { Job.init with
    lid := p.lid, queue := q, rcb := p.rcb, origChip := p.orig, deps := p.deps, order := s.sup.order, root := (s.queue q).root }
  let s := { s with jobs := s.jobs.put j job }
  match s.tree j p.rcb with
  | .error a => s.reject j 0x9B [dw a]
  | .ok t =>
    let s := s.updJob j (fun x => { x with tree := t })
    let s := s.updJob j (fun x => { x with images := s.copyImages j t, gangs := x.seats })
    match s.loaderChecks j ((s.job j).node p.rcb).kids none with
    | (some (k, a, f), _) => s.reject j (0x7F + k) [dw a, dw f.1, dw f.2.1, dw f.2.2]
    | (none, flag) =>
      let s := s.updJob j (fun x => { x with
        images := x.images.mapVal (fun a m =>
          { m with checked := (x.tree.filter (fun n => n.2.level == 2 && n.2.word 8 == a)).map Prod.fst }) })
      let s := s.recordAccepted j
      let s := (s.updSup (fun x => { x with resDirty := true })).markSince
      match flag with
      | some (_, a, f) => s.launchReport q p.lid 1 0x8D#8 p.orig p.rcb [dw a, dw f.1, dw f.2.1, dw f.2.2]
      | none => s.reportJob j

/-- Unfinished launches: the launch table holds 4,096 (R65). -/
def State.tableFull (s : State) : Bool := decide (4096 ≤ (s.jobs.filter (fun j => !j.2.final)).length)

/-- What each packet step does first: it waits while no complex is active or the launch table is full, lets the step of
the packet's own KIND have it, and answers a malformed packet with 0xAD. -/
def State.handlePacket (s : State) (q : Nat) (self : Event) (f : Packet → State) : Answer :=
  let d := s.queue q
  if d.head = d.tail then .next s
  else if s.sup.activeDie.isNone || s.tableFull then .next (s.after 1 self)
  else if s.packetEvent q != self then .next (s.nextPacket q)
  else
    let p := s.packet q
    if p.bad then .next ((s.launchReport q p.lid 6 0xAD#8 p.orig p.rcb []).headOn q) else .next ((f p).headOn q)

/-- A launch packet (R65). -/
def execLaunchPacket (q : Nat) (s : State) : Answer :=
  s.handlePacket q (.launchPacket q) (fun p =>
    let known (l : Word) : Bool := (s.liveJob q l).isSome || (s.queue q).outcomes.any (fun o => o.1 == l)
    if known p.lid then s.reportLid q p
    else
      match List.find? (fun d => d.1 == p.lid || !known d.1) p.deps with
      | some d => s.launchReport q p.lid 6 0xAE#8 p.orig p.rcb [dw d.1.toNat]
      | none => s.accept q p)

/-- A cancel packet (R67). -/
def execCancelPacket (q : Nat) (s : State) : Answer :=
  s.handlePacket q (.cancelPacket q) (fun p =>
    match s.liveJob q p.lid with
    | some j => (s.cancelJob j 0xB0 0#24 []).reportLid q p
    | none => s.reportLid q p)

/-- A query packet (R65). -/
def execQueryPacket (q : Nat) (s : State) : Answer :=
  s.handlePacket q (.queryPacket q) (fun p => s.reportLid q p)

/-! ### Delegation (R346) and the time of waiting (R31) -/

/-- S changes an entry of a job's delegation vector within its floor. -/
def execDelegationChange (j : Nat) (code : BitVec 8) (level : Fin 4) (s : State) : Answer :=
  let c := code.toNat
  if c < 192 ∧ level.val < 3 ∧ delegFloor c ≤ level.val ∧ (delegFloor c = 0 → level.val ≤ 1) ∧ (delegFloor c = 1 → level.val = 1) then
    .next (s.updJob j (fun x => { x with deleg := x.deleg.put c level.val }))
  else .next s

/-- A full millisecond of waiting has passed: Derrick looks at the waiters again (R31). -/
def execPriorityAging (j : Nat) (s : State) : Answer :=
  if (s.jobs.find? j).isSome then .next (s.updSup (fun p => { p with look := s.cycle })) else .next s

/-- A region at priority 15 has held its benches for its SHARE (R31): Derrick looks again. -/
def execShareWindowExpiry (j : Nat) (s : State) : Answer :=
  if (s.jobs.find? j).isSome then .next (s.updSup (fun p => { p with look := s.cycle })) else .next s

end Sys2Proof.Machine
end

