-- ==== Sys2Proof/Machine/Derrick.lean ====
section
/-! DEFINITION. Derrick's complexes, reports of residency, lost gang members, what S writes, and page migration (R56, R58,
R70 to R73, R211, R223 to R225, R363). -/

namespace Sys2Proof.Machine

/-! ### Complexes (R56, R71 to R73) -/

/-- Live pairs of a complex. -/
def Complex.live (c : Complex) : Nat := (c.pairs.filter id).length

/-- A complex that could take over: in service, with a live pair, and not the active one. -/
def State.standby (s : State) : Option Nat :=
  (List.find? (fun c => c.2.inService && decide (0 < c.2.live) && s.sup.activeDie != some c.1) s.sup.complexes).map Prod.fst

/-- The active complex sends a heartbeat. -/
def execHeartbeat (s : State) : Answer :=
  if s.sup.activeDie.isSome then .next (s.updSup (fun p => { p with lastBeat := s.time })) else .next s

/-- The standby misses the heartbeat, or learns that the active complex has failed: that one is held in reset, and the
takeover completes within 50 ms. -/
def execMissedHeartbeat (s : State) : Answer :=
  if s.sup.takeoverAt.isNone && s.standby.isSome
      && (s.sup.activeDie.isNone || decide (s.sup.lastBeat + 5 * msUnits ≤ s.time)) then
    let (s, t) := s.ticket
    .next (s.updSup (fun p => { p with
      complexes := match p.activeDie with
        | some d => p.complexes.modify d (fun c => { c with inService := false })
        | none => p.complexes
      activeDie := none
      takeoverAt := some (s.time + Config.derrickLatency t % (50 * msUnits)) }))
  else .next s

/-- Records of the parked-trap queues of all dies in their order of arrival, which their STAMP shows, then of traps still
held only in trap registers (R73). -/
def State.serveParked (s : State) : State :=
  let at_ (t : Nat × List DWord) : Nat := (t.2.getD 7 0#64).toNat
  let s := ((s.dies.flatMap (fun d => d.2.trapq)).mergeSort (fun a b => decide (at_ a ≤ at_ b))).foldl (fun s t =>
    s.emit (.supRecord t.2)) s
  let s := { s with dies := s.dies.mapVal (fun _ d => { d with trapq := [] }) }
  s.regions.foldl (fun s x =>
    match x.2.seq.hold.atS with
    | some (t, atM) =>
      if x.2.seq.hold.told then s
      else
        (s.emit (.supRecord (s.supWords x.1 t (if atM then 2 else 1) true))).updSeq x.1 (fun q =>
          { q with hold := { q.hold with told := true } })
    | none => s) s

/-- The new active complex reads the journal (R72): the act that it holds is done, since a step performs the acts that it
writes there. A report may nevertheless be sent a second time, with the same REPSEQ. -/
def State.readJournal (s : State) : State :=
  match s.sup.journal with
  | [.report (.report chip q link dw0 body tag)] =>
    let (s, t) := s.ticket
    if Config.sentAgain t then s.emit (.report chip q link dw0 body tag) else s
  | _ => s

/-- The standby is active: it completes what the journal holds and serves what waited (R72, R73, R81). -/
def execTakeover (s : State) : Answer :=
  match s.sup.takeoverAt, s.standby with
  | some t, some d =>
    if t ≤ s.time ∧ s.sup.activeDie = none then
      let s := s.updSup (fun p => { p with
        activeDie := some d, takeoverAt := none, failover := true, lastBeat := s.time, resDirty := true, look := s.cycle })
      let s := s.readJournal.serveParked.recordEnds
      .next (if s.sup.retest then s.retest else s)
    else .next s
  | _, _ => .next s

/-- A pair stops on a mismatch: the remaining pairs receive lockstep-mismatch at M; a complex with no live pair has
failed, and no complex is active until the takeover (R56, R71). -/
def execLockstepMismatch (die pair : Nat) (s : State) : Answer :=
  match s.sup.complexes.find? die with
  | none => .next s
  | some c =>
    if !c.inService || !(c.pairs.getD pair false) then .next s
    else
      let c' := { c with pairs := c.pairs.set pair false }
      let dead := c'.live == 0
      let s := s.updSup (fun p => { p with complexes := p.complexes.put die { c' with inService := !dead }, resDirty := true })
      if dead then
        if s.sup.activeDie = some die then
          let (s, t) := s.ticket
          .next ((s.updSup (fun p => { p with activeDie := none })).after (1 + Config.derrickLatency t) .missedHeartbeat)
        else .next s
      else
        .next (s.emit (.supRecord [dw (0xA2 * 2 ^ 56 + 3 * 2 ^ 53 + 2 ^ 51), 0#64, 0#64, dw (die * 4 + pair), 0#64, 0#64, 0#64,
          dw s.stamp]))

/-- M returns a failed complex to service as standby after its self-test (R71). -/
def execStandbyReturn (die : Nat) (s : State) : Answer :=
  match s.sup.complexes.find? die with
  | none => .next s
  | some c =>
    if c.inService then .next s
    else .next (s.updSup (fun p => { p with complexes := p.complexes.put die .init, resDirty := true }))

/-! ### Residency reports (R70) -/

/-- Effective priorities of the waiters. -/
def State.waiterPrios (s : State) : List Nat :=
  (s.jobs.filter (fun j => s.jobWaits j.1)).map (fun j => s.waitPrio (j.2.node j.2.rcb).eff.prio j.2.since)
    ++ (s.regions.filter (fun x => x.2.life.off)).map (fun x => s.waitPrio (s.rnode x.1).eff.prio x.2.since)

/-- Free device memory in MiB: the HBM4E of the live pseudo-channels less the pages that jobs map and the supervisor
memory, whose size the spec does not state. -/
def State.freeMiB (s : State) (ticket : Nat) : Nat :=
  let live := ((upTo 4).map (fun d => 192 * 10 ^ 9 * (s.die d).capacity 4 0 0 / 192)).foldl (· + ·) 0
  let used := s.mappedMem ((s.jobs.filter (fun j => !j.2.final)).map (fun j => j.2.root))
  (live - used) / 2 ^ 20 - Config.supervisorMiB ticket

/-- Units of the four dies, n bits each, die 3 highest. -/
def perDie (n : Nat) (f : Nat → Nat) : Nat := f 0 + f 1 * 2 ^ n + f 2 * 2 ^ (2 * n) + f 3 * 2 ^ (3 * n)

/-- The residency report of the moment. -/
def State.residency (s : State) (freeMem : Nat) : List DWord :=
  let p := s.sup
  let act := p.activeDie.getD 0
  let o := s.occupied []
  let freeB (d : Nat) : Nat :=
    ((upTo 256).filter (fun b => !(s.die d).retiredBenches.contains b && !o.benches.contains (d * 256 + b))).length
  let freeS (d : Nat) : Nat :=
    ((upTo 64).filter (fun g => !(s.die d).retiredSegs.contains g && !o.segs.contains (d * 64 + g))).length
  [dw (0x82 * 2 ^ 56 + p.failover.toNat * 2 ^ 55 + act % 2 * 2 ^ 54 + s.standby.isSome.toNat * 2 ^ 53
      + ((p.complexes.find? act).map Complex.live).getD 0 * 2 ^ 50 + s.clk % 4 * 2 ^ 48 + s.nvm.chip.toNat),
   dw (perDie 9 freeB), dw (perDie 7 freeS), dw (perDie 9 (fun d => (s.die d).capacity 0 0 0)),
   dw ((s.jobs.filter (fun j => j.2.state == 2)).length % 2 ^ 16 * 2 ^ 48
      + (s.jobs.filter (fun j => j.2.state == 1)).length % 2 ^ 16 * 2 ^ 32 + s.waiterPrios.foldl max 0 % 16 * 2 ^ 28),
   dw (freeMem % 2 ^ 32 * 2 ^ 32), 0#64, dw s.stamp]

/-- A report is due: a change not yet reported, or 10 ms since the last one; never twice within 100 µs, which are 85,000
cycles at every clock step (R5). -/
def State.residencyDue (s : State) : Bool :=
  s.sup.activeDie.isSome && s.sup.schedQ.isSome && s.nvm.chipOk
    && (decide (s.sup.resLast + 10 * msUnits ≤ s.time) || (s.sup.resDirty && decide (s.sup.resCycle + 85000 ≤ s.cycle)))

def execResidencyReport (s : State) : Answer :=
  match s.sup.schedQ with
  | some q =>
    if s.residencyDue then
      let (s, t) := s.ticket
      let s := s.sendReport q (s.residency (s.freeMiB t))
      .next (s.updSup (fun p => { p with failover := false, resDirty := false, resLast := s.time, resCycle := s.cycle }))
    else .next s
  | none => .next s

/-! ### Lost gang members (R363) -/

/-- A member voids its uncommitted rounds, is pre-empted, and the gang starts again under R27. -/
def State.gangRestart (s : State) (j a : Nat) : State :=
  let n := (s.job j).node a
  let s := s.updSeat j a (fun x => { x with
    placed := [], up := false, lost := none, told := false, deadline := none, restart := some (s.time + n.gtime * msUnits) })
  let gs := (s.memberGraphs j a).filter (fun g => (s.graph g).final == 0 && !(s.graph g).regions.isEmpty)
  let s := gs.foldl (fun s g => if (s.graph g).held then s else s.voidRound g (s.graph g).next) s
  let rs := s.memberRegions j a (fun l => l == .running || l == .starting || l == .filling)
  rs.foldl (fun s r => (s.takeOff r .preempted).markPreempted r) s

/-- A member learns that member i is lost: S receives 0xA7, and GFAIL decides when the gang starts again. -/
def State.gangLoses (s : State) (j a i : Nat) : State :=
  let n := (s.job j).node a
  if (s.job j).final || !n.couples then s
  else
    let s := s.event (((s.memberRegions j a (fun _ => true)).head?).getD (s.jobRegion j)) 0xA7 (dw n.gang) (dw i) 0#64 0#64
    if n.gfail = 1 then s.gangRestart j a
    else s.updSeat j a (fun x => { x with
      placed := x.placed.filter (· != i), lost := some (i, s.time + n.gtime * msUnits) })

/-- A member with COUPLE has failed: one of its regions is in STATE 5. -/
def State.gangFailed (s : State) (j a : Nat) : Bool :=
  ((s.job j).gangs.find? a).isSome && ((s.job j).node a).couples
    && (a == (s.job j).rcb && (s.job j).state == 5 || !(s.memberRegions j a (· == .failed)).isEmpty)

/-- The members of a job that have failed tell their gangs. -/
def execGangMemberFailure (j : Nat) (s : State) : Answer :=
  if s.sup.activeDie.isNone then .next (s.after 1 (.gangMemberFailure j))
  else
    .next ((s.job j).gangs.keys.foldl (fun s a =>
      if s.gangFailed j a && !((s.job j).seat a).told then
        let me := ((s.job j).node a).gindex
        ((s.updSeat j a (fun x => { x with told := true })).tellGang j a (.lost ((s.job j).node a).gang) (fun s k => s.gangLoses k.1 k.2 me)).gangLoses j a me
      else s) s)

/-- GTIME has passed since a member was lost, or since the gang began to start again; while no complex is active the time
counts on, and nothing else happens (R73). -/
def execGangRelaunchTimeout (j : Nat) (s : State) : Answer :=
  if s.sup.activeDie.isNone then .next s
  else
    .next ((s.job j).gangs.keys.foldl (fun s a =>
      let x := (s.job j).seat a
      let n := (s.job j).node a
      if (s.job j).final then s
      else
        match x.restart, x.lost with
        | some t, _ =>
          if t ≤ s.time ∧ !(s.job j).seatReady a then
            (s.failMember j a 0xA8 [dw n.gang, dw n.gindex]).updSeat j a (fun x => { x with restart := none })
          else s
        | none, some (_, t) => if t ≤ s.time then s.gangRestart j a else s
        | none, none => s) s)

/-- The gang that a report concerns. -/
def gangOf : GangReport → Nat
  | .placed g _ => g
  | .reached g _ => g
  | .lost g => g

/-- A report of another member of a gang reaches the members that a job holds in it (R27, R28, R363); what only Derrick can
act on waits for a complex. -/
def execGangMemberReportArrival (j : Nat) (i : Nat) (m : GangReport) (s : State) : Answer :=
  let seats := (s.job j).gangs.keys.filter (fun a => ((s.job j).node a).gang == gangOf m)
  let act (f : State → Nat → State) : Answer :=
    if s.sup.activeDie.isNone then .next (s.after 1 (.gangMemberReportArrival j i m)) else .next (seats.foldl f s)
  if (s.job j).final || !(s.jobs.find? j).isSome then .next s
  else
    match m with
    | .reached _ n =>
      .next (seats.foldl (fun s a => s.updSeat j a (fun x => { x with
        round := if (x.round.find? i).any (fun o => atOrBefore n o) then x.round else x.round.put i n })) s)
    | .placed _ c => act (fun s a => s.gangHears j a i c)
    | .lost _ => act (fun s a => s.gangLoses j a i)

/-! ### What S writes (R58, R59, R70, R209, R215, R223, R231, R350) -/

/-- The fields of a queue descriptor, by doubleword: reserved bits read zero (R4, R59). -/
def queueFields : List Nat :=
  [2 ^ 57 - 1, 2 ^ 64 - 2 ^ 31, 2 ^ 64 - 1, 2 ^ 64 - 1, 2 ^ 64 - 1, 2 ^ 64 - 2 ^ 16, 2 ^ 57 - 1, 2 ^ 64 - 2 ^ 23]

/-- A write of S to its state. -/
def State.supWrite (s : State) : SupWrite → State
  | .ceilStep d v => if d < 4 ∧ v ≤ 14 then s.updDie d (fun x => { x with ceil := v }) else s
  | .ceThreshold d c v =>
    if d < 4 ∧ c < 5 ∧ 1 ≤ v ∧ v ≤ 65535 then s.updDie d (fun x => { x with cethr := x.cethr.put c v }) else s
  | .ceWindow d c v => if d < 4 ∧ c < 5 ∧ v ≤ 10 then s.updDie d (fun x => { x with cewin := x.cewin.put c v }) else s
  | .memBytes pa bs => if s.backed pa bs.length then (s.keepStale [(pa, bs.length)]).storeBytes pa bs else s
  | .memBytesOfJob j va bs => s.poke j (bs.length / 4096 + 2) va bs
  | .queueDescr q ws =>
    if q < 4096 then
      s.updSup (fun p => { p with queues := p.queues.put q { p.queues.getD q .init with
        words := (ws.zip queueFields).map (fun w => w.1 &&& dw w.2) } })
    else s
  | .queueRoot q root => s.updQueue q (fun d => { d with root := root })
  | .clearCounters d => { s with atomics := s.atomics.filter (fun c => c.1 % 5 != d) }
  | .schedulerQueue q => s.updSup (fun p => { p with schedQ := q.filter (· < 4096), resDirty := true })
  | .trapBlk r a =>
    match (s.reg r).seq.hold.atS with
    | some (t, m) =>
      s.updSeq r (fun q =>
        if q.hold.atSPriv then { q with hold := { q.hold with atS := some ({ t with blk := a }, m) } }
        else { q with csrs := { q.csrs with trapblk := a } })
    | none => s

/-- S writes while a complex runs it. -/
def execSupervisorStateWrite (w : SupWrite) (s : State) : Answer :=
  if s.sup.activeDie.isSome then .next (s.supWrite w) else .next s

/-! ### Translation invalidation (R154, R211) -/

/-- The invalidation of a job's translations reaches its sequencers: at once, or at the end of the block in flight. -/
def Seq.invalidate (q : Seq) : Seq := if q.block.isSome then { q with flushing := true } else { q with stale := [] }

/-- An invalidation begins: what a later access does not wait for is named by the numbers of the ports' requests. -/
def State.invalidate (s : State) (j : Nat) : State :=
  let ports := (s.regions.filter (fun x => x.2.job == j)).flatMap (fun x =>
    x.2.benches.map (fun y => (x.1, y.1, y.2.port.nextSeq)))
  ({ s with regions := s.regions.mapVal (fun _ x =>
    if x.job = j then { x with seq := x.seq.invalidate } else x) }).updJob j (fun x => { x with inval := some ports })

/-- Accesses of a job that translated before its invalidation began and have neither been performed nor parked: requests
past their walk, and blocks in flight. -/
def State.translationsOut (s : State) (j : Nat) : Bool :=
  s.regions.any (fun x => x.2.job == j && x.2.seq.flushing)
    || ((s.job j).inval.getD []).any (fun p => (s.port p.1 p.2.1).reqs.any (fun q =>
      q.state == .translated && !q.accs.isEmpty && decide (q.seq < p.2.2)))

/-- The invalidation of a job's translations (R154, R211): it completes once nothing is left that used the old entries,
and every later access walks afresh. -/
def execTranslationInvalidation (j : Nat) (s : State) : Answer :=
  let s := if (s.job j).inval.isSome then s else s.invalidate j
  if s.translationsOut j then .next (s.after 1 (.translationInvalidation j))
  else .next (s.updJob j (fun x => { x with inval := none }))

/-! ### Page migration (R223 to R225) -/

/-- The leaves of every job on this package. -/
def State.leaves (s : State) : List LeafAt :=
  (((s.jobs.filter (fun j => !j.2.final)).map (fun j => j.2.root)).eraseDups).flatMap (fun r => leavesFrom s.mem 5 r 0)

/-- A leaf maps into a 2 MiB unit of physical memory. -/
def LeafAt.meets (l : LeafAt) (unit : Nat) : Bool :=
  decide (l.page < (unit + 1) * 2 ^ 21 ∧ unit * 2 ^ 21 < l.page + l.span)

/-- The die whose counter is largest, and its count. -/
def State.hottest (s : State) (unit : Nat) : Nat × Nat :=
  (upTo 4).foldl (fun m d => if m.2 < s.atomics.getD (5 * unit + d) 0 then (d, s.atomics.getD (5 * unit + d) 0) else m) (0, 0)

/-- The die to whose HBM the pages of a unit move, when its record qualifies. -/
def State.movesTo (s : State) (unit : Nat) : Option Nat :=
  let (d, n) := s.hottest unit
  let pa := unit * 2 ^ 21
  let sp := pa / 2 ^ 48
  let home := pa / 2 ^ 46 % 4
  if n < 4096 then none
  else if sp = 0 then
    if home ≠ d ∧ 2 * s.atomics.getD (5 * unit + home) 0 ≤ n then some d else none
  else if sp = 1 ∨ sp = 3 then some d
  else none

/-- The frames of migrations under way or still to begin. -/
def State.claimed (s : State) : List Nat :=
  let of (e : Event) : Option Nat := match e with | .migration _ _ f => some f | _ => none
  s.sup.migrations.map (fun m => m.2.2.1) ++ s.timers.filterMap (fun t => of t.2)
    ++ s.work.filterMap (fun w => match w with | .ev e => of e | _ => none)

/-- No listed byte, no page and no migration's frame lies in some physical bytes. -/
def State.unused (s : State) (ls : List LeafAt) (pa n : Nat) : Bool :=
  !s.mem.any (fun c => decide (pa ≤ c.1 ∧ c.1 < pa + n))
    && !ls.any (fun l => decide (l.page < pa + n ∧ pa < l.page + l.span))
    && !s.claimed.any (fun f => decide (f < pa + n ∧ pa < f + 8 * 2 ^ 21))

/-- Some bytes of a die's HBM4E stand on channels that are all live (R229). -/
def State.liveChannels (s : State) (die pa n : Nat) : Bool :=
  let lost := (s.die die).channelsLost
  lost.isEmpty || (upTo (n / 64)).all (fun i => !lost.contains (Config.pseudoChannel (pa + 64 * i)))

/-- A free frame for a page in a die's HBM4E, as S chooses it: from an open first choice on, the first that is backed,
unused and on live channels; none when 4,096 in a row are not. -/
def State.freeFrame (s : State) (ls : List LeafAt) (die n : Nat) : State × Option Nat :=
  let (s, t) := s.ticket
  let k := Config.freeFrame t die
  (s, ((upTo 4096).map (fun i => die * 2 ^ 46 + (k + i) % (192 * 10 ^ 9 / n) * n)).find? (fun f =>
    s.unused ls f n && s.backed f n && s.liveChannels die f n))

/-- Every 16 ms Derrick examines the records of the memory of a die: pages of those that qualify move, and the counters
are cleared. -/
def execMigrationExamination (die : Nat) (s : State) : Answer :=
  if s.sup.activeDie.isNone then .next s
  else
    let units := (((s.atomics.map (fun c => c.1 / 5)).eraseDups).filter (fun u => u * 2 ^ 21 / 2 ^ 46 % 4 == die))
    let ls := s.leaves
    let s := units.foldl (fun s u =>
      match s.movesTo u with
      | none => s
      | some d =>
        let here := ls.filter (fun l => l.meets u)
        if here.any (fun l => pePin l.entry) then s
        else
          let pages := ((here.filter (fun l => decide (l.size ≤ 2 ^ 21) && peRes l.entry)).map (fun l => (l.page, l.size, l.span))).eraseDups
          pages.foldl (fun s p =>
            match List.find? (fun l => l.page == p.1) here with
            | some l =>
              match List.find? (fun j => !j.2.final && (leavesFrom s.mem 5 j.2.root 0).contains l) s.jobs with
              | some j =>
                match s.freeFrame ls d p.2.2 with
                | (s, some frame) => s.now (.migration j.1 l.va frame)
                | (s, none) => s
              | none => s
            | none => s) s) s
    .next { s with atomics := s.atomics.filter (fun c => !units.contains (c.1 / 5)) }

/-- A page is pinned by a probe of some port (R247). -/
def State.pagePinned (s : State) (page size : Nat) : Bool :=
  s.regions.any (fun x => x.2.benches.any (fun y => y.2.port.pins.any (fun p => p.2.any (fun q =>
    decide (q.frame < page + size ∧ page < q.frame + q.size)))))

/-- The entries of some leaves written: a frame that replaces the page, MIG and RES. -/
def State.setLeaves (s : State) (ls : List LeafAt) (frame : LeafAt → Nat) (mig res : Bool) : State :=
  let s := s.keepStale (ls.map (fun l => (l.epa, 8)))
  { s with mem := ls.foldl (fun m l =>
      let e := putBits (putBits (putBits l.entry 12 40 (frame l / 2 ^ 12)) 10 1 mig.toNat) 6 1 res.toNat
      m.writeBytes l.epa (leBytes e 8)) s.mem }

/-- The data of a page in its new place: bytes, error marks, and the slots that rounds in flight own. -/
def State.copyPage (s : State) (old new n : Nat) : State :=
  let moved := s.mem.filter (fun c => decide (old ≤ c.1 ∧ c.1 < old + n))
  let rest := s.mem.filter (fun c => !decide (new ≤ c.1 ∧ c.1 < new + n))
  { s with
    mem := moved.foldl (fun m c => m.write (c.1 - old + new) c.2) rest
    uerr := s.uerr.filter (fun u => !decide (new ≤ 64 * u ∧ 64 * u < new + n)) ++ (s.uerr.filter (fun u => decide (old ≤ 64 * u ∧ 64 * u < old + n))).map (fun u => (64 * u - old + new) / 64)
    regions := s.regions.mapVal (fun _ x => { x with vers := x.vers.map (fun v =>
      if old ≤ v.1 ∧ v.1 < old + n then (v.1 - old + new, v.2) else v) }) }

/-- The invalidation of every job that may hold a page in its tables begins. -/
def State.invalidateAll (s : State) : State :=
  ((s.jobs.filter (fun j => !j.2.final)).map Prod.fst).foldl (fun s j => s.invalidate j) s

/-- The same, each as an event of its own. -/
def State.askInvalidations (s : State) : State :=
  ((s.jobs.filter (fun j => !j.2.final)).map Prod.fst).foldl (fun s j => s.now (.translationInvalidation j)) s

/-- A migration of the page at an address of a job (R225): its leaves take MIG and the invalidation runs; the data is
copied; the leaves take the new FRAME. -/
def execMigration (j va frame : Nat) (s : State) : Answer :=
  if s.sup.activeDie.isNone then .next (s.after 1 (.migration j va frame))
  else
    match List.find? (fun l => decide (l.va ≤ va ∧ va < l.va + 2 ^ (12 + 9 * l.level))) (leavesFrom s.mem 5 (s.job j).root 0) with
    | none => .next s
    | some l =>
      let page := l.page
      let all := s.leaves.filter (fun k => k.page == page)
      match List.find? (fun m => m.1 == j && m.2.1 == va) s.sup.migrations with
      | none =>
        if !peRes l.entry || pePin l.entry || decide (2 ^ 21 < l.size) || frame % l.span != 0 || !s.backed frame l.span
            || all.any (fun k => pePin k.entry) then .next s
        else if s.pagePinned page l.span then .next (s.after 1 (.migration j va frame))
        else
          let s := (s.setLeaves all (fun k => peFrame k.entry) true false).invalidateAll
          .next ((s.updSup (fun p => { p with migrations := p.migrations ++ [(j, va, frame, 0)] })).after 1 (.migration j va frame))
      | some m =>
        if m.2.2.2 = 0 then
          if s.jobs.any (fun k => !k.2.final && s.translationsOut k.1) then .next (s.after 1 (.migration j va frame))
          else
            let s := { s with jobs := s.jobs.mapVal (fun _ x => { x with inval := none }) }
            let (s, t) := s.ticket
            let due := s.cycle + 1 + Config.derrickLatency t % (l.span / 235 + 1)
            .next ((s.updSup (fun p => { p with
              migrations := p.migrations.map (fun k => if k = m then (j, va, m.2.2.1, due) else k) })).after (due - s.cycle) (.migration j va frame))
        else if s.cycle < m.2.2.2 then .next s
        else
          let s := s.copyPage page m.2.2.1 l.held
          let s := s.setLeaves all (fun k => peFrame k.entry - page + m.2.2.1) false true
          .next ((s.updSup (fun p => { p with migrations := p.migrations.filter (· != m) })).askInvalidations)

end Sys2Proof.Machine
end

