-- ==== Sys2Proof/Machine/Retire.lean ====
section
/-! DEFINITION. Errors of stores and links, retirement, bank maps and evacuation, scrubbing (R80, R81, R92, R229 to R233,
R261, R281, R354, R364, R365, R416). -/

namespace Sys2Proof.Machine

/-! ### The retirement list (R81, R415, R416) -/

/-- The next larger unit that contains a unit. -/
def larger : HwUnit → Option HwUnit
  | .lane g _ => some (.segment g)
  | .vatBank g _ => some (.bankGroup g)
  | .localBank b e _ => some (.element b e)
  | .regBank b e _ => some (.element b e)
  | .cacheBank b _ => some (.bench b)
  | .pseudoChannel n => some (.stack (n / 64))
  | .bench _ | .segment _ | .element _ _ | .bankGroup _ | .stack _ => none

/-- A die has the unit. -/
def hasUnit : HwUnit → Bool
  | .bench n => decide (n < 256)
  | .lane g n => decide (g < 64 ∧ n < 33024)
  | .segment n => decide (n < 64)
  | .vatBank g k => decide (g < 64 ∧ k < 16)
  | .localBank b e k => decide (b < 256 ∧ e < 16 ∧ k < 8)
  | .regBank b e k => decide (b < 256 ∧ e < 16 ∧ k < 4)
  | .cacheBank b k => decide (b < 256 ∧ k < 4)
  | .pseudoChannel n => decide (n < 192)
  | .element b e => decide (b < 256 ∧ e < 16)
  | .bankGroup g => decide (g < 64)
  | .stack n => decide (n < 3)

/-- M records a retirement; a full list records the larger unit in place of what it contains. The unit that retires. -/
def Nvm.enlist (m : Nvm) (die : Nat) (u : HwUnit) : Nvm × HwUnit :=
  if m.retired.length < 16384 then ({ m with retired := m.retired ++ [(die, u)] }, u)
  else
    match larger u with
    | none => (m, u)
    | some v => ({ m with retired := (m.retired.filter (fun x => !(x.1 == die && larger x.2 == some v))) ++ [(die, v)] }, v)

/-! ### Retirement (R229, R231) -/

/-- A number added to a list that lacks it. -/
def addOnce (l : List Nat) (n : Nat) : List Nat := if l.contains n then l else l ++ [n]

/-- A unit with a spare begins its evacuation; one without enters STATE 3, in which its lines are lost. The flag says so. -/
def Die.moveOut (d : Die) (key spare : Nat) (left : Bool) : Die × Bool :=
  let e := d.bank key
  if e.state = 2 ∨ e.state = 3 then (d, false)
  else if left then
    ({ d with
      banks := d.banks.put key { e with state := 2, newPhys := spare, cursor := 0, lockEnd := 0 }
      evacs := d.evacs ++ [key] }, false)
  else ({ d with banks := d.banks.put key { e with state := 3 } }, true)

/-- A bank of the Vat store retires. -/
def Die.retireVat (d : Die) (g k : Nat) : Die × Bool :=
  let key := bankKey 3 0 0 (16 * g + k)
  let (d', lost) := d.moveOut key (1024 + d.vatSpares) (decide (d.vatSpares < 64))
  if d'.evacs.length = d.evacs.length then (d', lost) else ({ d' with vatSpares := d.vatSpares + 1 }, lost)

/-- A bank of local memory retires; with the spare used class 5 falls. -/
def Die.retireLocal (d : Die) (b e k : Nat) : Die × Bool :=
  let at_ := 16 * b + e
  let used := d.localSpares.getD at_ 0
  let (d', lost) := d.moveOut (bankKey 0 b e k) 8 (decide (used < 1))
  if lost then ({ d' with localBanksLost := d'.localBanksLost.put at_ (d'.localBanksLost.getD at_ 0 + 1) }, true)
  else if d'.evacs.length = d.evacs.length then (d', false)
  else ({ d' with localSpares := d'.localSpares.put at_ (used + 1) }, false)

/-- A class 5 to 7 of a bench falls, while the bench counts (R80). -/
def Die.falls (d : Die) (bench cls : Nat) : List Nat := if d.retiredBenches.contains bench then [] else [cls]

/-- A unit of a die retires: the die, and the classes 5 to 7 that fall. -/
def Die.retire (d : Die) (u : HwUnit) : Die × List Nat :=
  match u with
  | .bench n | .element n _ => ({ d with retiredBenches := addOnce d.retiredBenches n }, [])
  | .lane g n =>
    let lost := d.lanesLost.getD g 0 + 1
    ({ d with
      lanesLost := d.lanesLost.put g lost
      laneRemaps := d.laneRemaps ++ [(g, n)]
      retiredSegs := if 256 < lost then addOnce d.retiredSegs g else d.retiredSegs }, [])
  | .segment n => ({ d with retiredSegs := addOnce d.retiredSegs n }, [])
  | .vatBank g k =>
    ((d.retireVat g k).1, [])
  | .localBank b e k =>
    let (d', lost) := d.retireLocal b e k
    (d', if lost then d.falls b 5 else [])
  | .regBank b e k =>
    let key := bankKey 1 b e k
    if (d.bank key).state = 3 then (d, [])
    else
      ({ d with
        banks := d.banks.put key { d.bank key with state := 3 }
        regBanksLost := d.regBanksLost.put (16 * b + e) (d.regBanksLost.getD (16 * b + e) 0 + 1) }, d.falls b 6)
  | .cacheBank b k =>
    let l := addOnce (d.cacheBanksLost.getD b []) k
    ({ d with
      cacheBanksLost := d.cacheBanksLost.put b l
      retiredBenches := if l.length = 4 then addOnce d.retiredBenches b else d.retiredBenches }, d.falls b 7)
  | .pseudoChannel n => ({ d with channelsLost := addOnce d.channelsLost n }, [])
  | .bankGroup g =>
    ({ d with
      banks := (upTo 16).foldl (fun m k =>
        let key := bankKey 3 0 0 (16 * g + k)
        m.put key { m.getD key (.own (16 * g + k)) with state := 3, newPhys := 0, cursor := 0 }) d.banks
      evacs := d.evacs.filter (fun key => !(key / 2 ^ 22 == 3 && key % 1024 / 16 == g)) }, [])
  | .stack n => ({ d with channelsLost := (upTo 64).foldl (fun l k => addOnce l (64 * n + k)) d.channelsLost }, [])

/-- The registers of a bank that retires are lost: until they are written again, in the live bank that then serves them
(R38), their reads carry ERR (R231). -/
def State.loseRegisters (s : State) (die : Nat) (u : HwUnit) : State :=
  match u with
  | .regBank b e k =>
    { s with regions := s.regions.mapVal (fun _ x =>
      if x.place.die != die || !x.holds s.cycle then x
      else
        { x with benches := x.benches.mapVal (fun i y =>
          if x.dieBench i != b then y
          else y.updElem e (fun el => { el with
            regs := (upTo 8).foldl (fun m j => m.put (8 * k + j) { m.getD (8 * k + j) .zero with err := true }) el.regs })) }) }
  | _ => s

/-- Pages of a pseudo-channel, which S migrates when it retires (R229): a page of HBM4E whose bytes it holds. -/
def State.channelPages (s : State) (die : Nat) (lost : List Nat) : List (Nat × Nat × Nat) :=
  let live := s.jobs.filter (fun j => !j.2.final)
  live.flatMap (fun j => (leavesFrom s.mem 5 j.2.root 0).filterMap (fun l =>
    if l.page / 2 ^ 48 == 0 && l.page / 2 ^ 46 % 4 == die && peRes l.entry && !pePin l.entry && decide (l.size ≤ 2 ^ 21)
        && (upTo (l.span / 64)).any (fun i => lost.contains (Config.pseudoChannel (l.page + 64 * i))) then
      some (j.1, l.va, l.span)
    else none))

/-- A bank stands on its spare, which may fail as the bank before it did (R231). -/
def State.standsOnSpare (s : State) (die : Nat) (u : HwUnit) : Bool := (hwKey u).any (fun k => ((s.die die).bank k).state == 1)

/-- A unit retires: its list record, the die, and the readings that fell (R80, R81). A unit already on the list has
retired, unless it is a bank on its spare. -/
def State.retireUnit (s : State) (die : Nat) (u : HwUnit) : State :=
  if !hasUnit u || decide (4 ≤ die) || (s.nvm.retired.contains (die, u) && !s.standsOnSpare die u) then s
  else
    let (m, u) := s.nvm.enlist die u
    let old := s.die die
    let (new, extra) := old.retire u
    let s := (({ s with nvm := m }).updDie die (fun _ => new)).loseRegisters die u
    let gone := new.channelsLost.filter (fun n => !old.channelsLost.contains n)
    let s := (if gone.isEmpty then [] else s.channelPages die gone).foldl (fun s p =>
      match s.freeFrame s.leaves die p.2.2 with
      | (s, some frame) => s.now (.migration p.1 p.2.1 frame)
      | (s, none) => s) s
    let s := match u with
      | .lane g _ =>
        if s.regions.any (fun x => x.2.holdsSeg s.cycle die g) then s
        else s.now (.laneRemap die g)
      | _ => s
    ((upTo 5).filter (fun c => decide (new.capacity c 0 0 < old.capacity c 0 0)) ++ extra).foldl (fun s c =>
      s.now (.capacityReduction die c)) s

/-- S, the couch unit or the boot firmware retires a unit. -/
def execRetirementCommand (die : Nat) (u : HwUnit) (s : State) : Answer := .next (s.retireUnit die u)

/-- CECNT restarts at each window start: windows of 2^w ms (R231). -/
def execCeWindowStart (die : Nat) (s : State) : Answer :=
  let ms := s.time / msUnits
  .next (s.updDie die (fun d => { d with banks := d.banks.mapVal (fun key e =>
    if ms % 2 ^ d.cewin.getD (key / 2 ^ 22) 10 = 0 then { e with cecnt := 0 } else e) }))

/-- A corrected error counts; at CETHR within a window the unit retires. -/
def execCorrectableError (die : Nat) (u : HwUnit) (s : State) : Answer :=
  match hwKey u with
  | none => .next s
  | some key =>
    if !hasUnit u || decide (4 ≤ die) then .next s
    else
      let e := (s.die die).bank key
      let n := if e.cecnt < 65535 then e.cecnt + 1 else e.cecnt
      let s := s.updDie die (fun d => { d with banks := d.banks.put key { e with cecnt := n } })
      let thr := (s.die die).cethr.getD (key / 2 ^ 22) 65535
      if thr ≤ n ∧ (e.cecnt < thr ∨ !s.nvm.retired.contains (die, u)) then .next (s.retireUnit die u) else .next s

/-! ### Evacuation (R232, R233) -/

/-- No scheduled access of this cycle uses a bank, by a word, a port or an element: the copy waits for such a cycle. -/
def State.bankIdle (s : State) (die key : Nat) : Bool :=
  !s.bankUsed die key && (key / 2 ^ 22 != 3 || !s.regions.any (fun x => x.2.place.die == die
    && x.2.fab.reads.any (fun q => q.1 == s.cycle && q.2.1 == key % 1024 / 16)))

/-- A line copied or the next one locked, for two cycles each. -/
def execEvacuationLineCopy (die : Nat) (u : HwUnit) (s : State) : Answer :=
  match hwKey u with
  | none => .next s
  | some key =>
    let e := (s.die die).bank key
    if e.state ≠ 2 then .next s
    else
      let lock (s : State) : State :=
        if s.bankIdle die key then
          s.updDie die (fun d => { d with banks := d.banks.put key { d.bank key with lockEnd := s.cycle + 3 } })
        else s
      if e.lockEnd = 0 then .next (lock s)
      else if e.lockEnd ≤ s.cycle + 1 then
        let s := s.updDie die (fun d => { d with banks := d.banks.put key { e with cursor := e.cursor + 1, lockEnd := 0 } })
        if bankLines key ≤ e.cursor + 1 then .next (s.now (.evacuationComplete die u)) else .next (lock s)
      else .next s

/-- The regions that hold a bank, with the round that their graphs commit next. -/
def State.bankHolders (s : State) (die key : Nat) : List (Nat × BitVec 24) :=
  (s.regions.filter (fun x => x.2.holds s.cycle && x.2.place.die == die &&
    (if key / 2 ^ 22 = 3 then x.2.place.groups.any (fun g => g.2 == key % 1024 / 16)
     else x.2.place.benches.contains (key / 2 ^ 14)))).map (fun x => (x.1, (s.graph x.2.graph).next))

/-- The last line is copied: the unit stands on its spare. -/
def execEvacuationComplete (die : Nat) (u : HwUnit) (s : State) : Answer :=
  match hwKey u with
  | none => .next s
  | some key =>
    let e := (s.die die).bank key
    if e.state = 2 ∧ bankLines key ≤ e.cursor then
      let hs := s.bankHolders die key
      .next (s.updDie die (fun d => { d with
        banks := d.banks.put key { e with state := 1, phys := e.newPhys, newPhys := 0, cursor := 0, lockEnd := 0,
                                          old := some (e.phys, hs) }
        evacs := d.evacs.filter (· != key) }))
    else .next s

/-- Every region that held the bank has passed a round boundary. -/
def State.boundariesPassed (s : State) (e : BankEntry) : Bool :=
  e.old.any (fun o => o.2.all (fun h => !(s.reg h.1).holds s.cycle || (s.graph (s.reg h.1).graph).next != h.2))

/-- The old bank takes no more writes and is retired. -/
def execOldBankRetirement (die : Nat) (u : HwUnit) (s : State) : Answer :=
  match hwKey u with
  | none => .next s
  | some key =>
    let e := (s.die die).bank key
    if s.boundariesPassed e then .next (s.updDie die (fun d => { d with banks := d.banks.put key { e with old := none } }))
    else .next s

/-- The lanes retired in a segment are remapped to spare lanes (R261). No result shows it. -/
def execLaneRemap (die segment : Nat) (s : State) : Answer :=
  .next (s.updDie die (fun d => { d with laneRemaps := d.laneRemaps.filter (fun l => l.1 != segment) }))

/-- An uncorrectable error in the spare restarts the copy onto another spare, if one is left (R233). -/
def State.spareFails (s : State) (die key : Nat) : State :=
  let d := s.die die
  let e := d.bank key
  let vat : Bool := key / 2 ^ 22 == 3
  if vat && decide (d.vatSpares < 64) then
    s.updDie die (fun d => { d with
      banks := d.banks.put key { e with newPhys := 1024 + d.vatSpares, cursor := 0, lockEnd := 0 }
      vatSpares := d.vatSpares + 1 })
  else
    let at_ := key / 1024 % 2 ^ 12
    let s := s.updDie die (fun d => { d with
      banks := d.banks.put key { e with state := 3, newPhys := 0, cursor := 0, lockEnd := 0 }
      evacs := d.evacs.filter (· != key)
      localBanksLost := if vat then d.localBanksLost else d.localBanksLost.put at_ (d.localBanksLost.getD at_ 0 + 1) })
    let cs := if !vat then d.falls (key / 2 ^ 14) 5 else if (s.die die).capacity 3 0 0 < d.capacity 3 0 0 then [3] else []
    cs.foldl (fun s c => s.now (.capacityReduction die c)) s

/-- The key of an evacuating bank whose copied line an error strikes: the spare serves that line. -/
def State.onSpare (s : State) (die key line : Nat) : Bool :=
  let e := (s.die die).bank key
  e.state == 2 && decide (line < e.cursor)

/-! ### Uncorrectable errors (R125, R156, R281, R354, R361, R364, R365) -/

/-- A parity failure of an entry of a plane: a wheel entry, or with an element number past 15 one of the bench part. -/
def BenchPlane.spoil (p : BenchPlane) (elem phase : Nat) : BenchPlane :=
  if elem < 16 then
    { p with elems := p.elems.modify elem (fun e => { e with wheel := e.wheel.modify phase (fun u => { u with parity := true }) }) }
  else
    let base := match elem with | 16 => 0 | 17 => 64 | 18 => 128 | _ => 256
    { p with partParity := addOnce p.partParity (base + phase) }

/-- The physical unit of a Vat store address: die, bank key and line. -/
def vatPlace (pa : Nat) : Option (Nat × Nat × Nat) :=
  if pa / 2 ^ 48 = 2 then
    let o := pa % 2 ^ 46
    some (pa / 2 ^ 46 % 4, bankKey 3 0 0 (16 * (o / (3 * 2 ^ 20)) + o / 64 % 16), o % (3 * 2 ^ 20) / 1024)
  else none

/-- The vop of the word whose firing or transfer is on the links of a sheet of a bench: VCHAIN or VMAC (R281). -/
def Region.linkWord (x : Region) (b m : Nat) : Option Nat :=
  match x.sheetMap b m with
  | none => none
  | some e =>
    if x.life != .running then none
    else
      (x.sheet (x.sheetKey b e)).queue.findSome? (fun o =>
        match o with
        | .fire .. | .sample .. => some (opByte (.vmac 0 0 0 0 false .keep 0))
        | .send .. => some (opByte (.vchain 0 0 0 .here))
        | _ => none)

/-- The head of a buffer with ERR. -/
def markHead : List Token → List Token
  | [] => []
  | t :: ts => { t with err := true } :: ts

/-- What an uncorrectable error does where it is found. -/
def State.strike (s : State) : ErrSite → State
  | .memLine pa =>
    match vatPlace pa with
    | some (d, key, line) =>
      if s.onSpare d key line then s.spareFails d key else { s with uerr := (s.uerr ++ [pa / 64]).eraseDups }
    | none => { s with uerr := (s.uerr ++ [pa / 64]).eraseDups }
  | .localLine r b e line =>
    let x := s.reg r
    let key := bankKey 0 (x.dieBench b) e (line / 1024)
    if x.life = .preempted ∨ x.life = .waiting then s.updReg r (fun x => { x with lost := true })
    else if s.onSpare x.place.die key (line % 1024 / 8) then s.spareFails x.place.die key
    else s.updElem r b e (fun el => { el with localErr := addOnce el.localErr line })
  | .registerV r b e n =>
    s.updElem r b e (fun el => { el with regs := el.regs.put (n % 32) { el.regs.getD (n % 32) .zero with err := true } })
  | .maskReg r b e n =>
    s.updElem r b e (fun el => { el with masks := el.masks.put (n % 8) { el.masks.getD (n % 8) .zero with err := true } })
  | .scaleReg r b e n => s.updElem r b e (fun el => { el with scaleBad := addOnce el.scaleBad (n % 16) })
  | .contextRecord r =>
    if (s.reg r).life = .preempted ∨ (s.reg r).life = .waiting then s.updReg r (fun x => { x with lost := true }) else s
  | .cacheLine r addr =>
    s.updSeq r (fun q => { q with cache := q.cache.mapVal (fun _ l =>
      l.map (fun k => if k.addr = addr then { k with parity := true } else k)) })
  | .tokenHead r b e c =>
    let x := s.reg r
    match ((x.bench b).elem e).bufs.getD c [] with
    | [] => s
    | t :: ts =>
      (s.updElem r b e (fun el => { el with bufs := el.bufs.put c ({ t with err := true } :: ts) })).elog r b e
        ⟨t.round, t.tag, 17, 0⟩ (posWord x.place.die (x.dieBench b) e x.fab.phase 0 0)
  | .scaleHead r b m => s.updNode r b (fun n => { n with scaleBufs := n.scaleBufs.modify m markHead })
  | .lineToken r line =>
    s.updReg r (fun x => { x with fab := { x.fab with lines := x.fab.lines.map (fun l =>
      if l.1 = line then (l.1, l.2.1, { l.2.2 with err := true }) else l) } })
  | .planeActive r b e ph => s.updBench r b (fun y => { y with plane := y.plane.spoil e ph })
  | .planeShadow r b e ph => s.updBench r b (fun y => { y with shadow := { y.shadow with plane := y.shadow.plane.spoil e ph } })
  | .chainLink r b m d g =>
    let x := s.reg r
    match x.linkWord b m with
    | some op =>
      s.raiseRound r (roundCause 0x61 (((x.bench b).node).dtag) (dw m)
        (posWord x.place.die (x.dieBench b) 15 ((x.bench b).node.slot) 0 op) 0#64 (dw (d * 64 + g)))
    | none => s
  | .aluRegister r b e n x =>
    s.updElem r b e (fun el => let w := el.regs.getD (n % 32) .zero
      { el with regs := el.regs.put (n % 32) { w with val := w.val ^^^ x } })
  | .aluToken r b e c x =>
    s.updElem r b e (fun el =>
      let q := el.bufs.getD c []
      { el with bufs := el.bufs.put c (q.modify (q.length - 1) (fun t => { t with data := t.data ^^^ x })) })
  | .vatLane r b m x =>
    match (s.reg r).sheetMap b m with
    | some e => s.updSheet r ((s.reg r).sheetKey b e) (fun sh => { sh with acc := sh.acc ^^^ x })
    | none => s
  | .image j i off =>
    s.updJob j (fun x => { x with images := x.images.modify i (fun m => { m with bad := addOnce m.bad (off / 64 * 64) }) })
  | .seqResidue r again =>
    let x := s.reg r
    match x.seq.block with
    | none => s
    | some blk =>
      let s := s.abandon r
      if again then s.blockCause r ⟨0xAB#8, .block, BitVec.ofNat 57 blk.addr, 0#24, 0#64, 0#64,
        posWord x.place.die (x.dieBench 0) 0 0 0 0, 0#64, 0⟩ else s

def execUncorrectableError (site : ErrSite) (s : State) : Answer := .next (s.strike site)

/-- The scrubber's pass, once per millisecond: shadow planes are refilled at once, active ones at the next boundary. -/
def execScrub (s : State) : Answer :=
  .next { s with regions := s.regions.mapVal (fun _ x =>
    { x with
      scrubbed := x.scrubbed || x.parityLost
      benches := x.benches.mapVal (fun _ y => { y with shadow := { y.shadow with plane := y.shadow.plane.mend } }) }) }

/-- Traffic of a region that a failed link of its die can have lost: requests on their way, tokens between dies, chained
firings across dies, and transfers of its engines. -/
def State.hasTraffic (s : State) (r : Nat) : Bool :=
  let x := s.reg r
  x.benches.any (fun y => y.2.port.reqs.any (fun q => q.state == .translated && !q.accs.isEmpty)
      || y.2.plane.sheets.any (fun m => m.2.xdie))
    || (s.graph x.graph).chans.any (fun c => !c.2.flight.isEmpty && (c.2.src.1 == r || c.2.dst.1 == r)
      && (s.reg c.2.src.1).place.die != (s.reg c.2.dst.1).place.die)
    || (s.die x.place.die).engines.any (fun e => e.2.region == r && e.2.started && decide (7 ≤ e.2.cmd))

/-- A link gives up after 16 failed retries: link-failure for the regions whose traffic was lost (R364). -/
def execLinkFailure (die link : Nat) (s : State) : Answer :=
  let rs := (s.regions.filter (fun x => x.2.life == .running && x.2.place.die == die && s.hasTraffic x.1)).map Prod.fst
  .next (rs.foldl (fun s r => s.raiseRound r (roundCause 0xA6 0#24 (dw link) 0#64 0#64 0#64)) s)

end Sys2Proof.Machine
end

