-- ==== Sys2Proof/Machine/Engines.lean ====
section
/-! DEFINITION. Stream engines: how commands start, act and complete; peer transfers and collectives (R226 to R228, R300,
R315 to R320). -/

namespace Sys2Proof.Machine

/-! ### Accesses of an engine (R211, R318) -/

/-- Why an engine access does not go on: a cause with the failing byte, a page that S has to bring, or a wait. -/
inductive EngStop where
  | fault (cause va : Nat)
  | park (va : Nat)
  | wait
  deriving DecidableEq, Repr

/-- The cause of a failed check, by access kind (R319). -/
def engCause (kind : Nat) : Nat := if kind = 1 then 0x42 else 0x41

/-- One piece of an access, translated. -/
def State.engLeaf (s : State) (job kind va len : Nat) : Except EngStop Part :=
  if va / 2 ^ 57 ≠ 0 then .error (.fault (engCause kind) va)
  else
    match s.walk job va with
    | .malformed _ _ => .error (.fault 0x48 va)
    | .unbackedTable _ _ => .error (.fault 0x49 va)
    | .invalid => .error (.fault (engCause kind) va)
    | .leaf l =>
      if !leafOk l.entry kind then .error (.fault (engCause kind) va)
      else if !peRes l.entry then .error (if peMig l.entry then .wait else .park va)
      else if !s.backed l.pa len then .error (.fault 0x49 va)
      else .ok ⟨va, len, l⟩

/-- One piece of an access of a region's engine, on one page: `store` is the round of a write. It waits for a cycle in
which nothing else uses the banks of the lines it touches, and for their unlock (R232, R268). -/
def State.engPage (s : State) (r job kind : Nat) (store : Option (BitVec 24)) (va len : Nat) : Except EngStop Part :=
  match s.engLeaf job kind va len with
  | .ok p =>
    if (s.touched (s.reg r).writer none store [p]).any (fun a => s.vatLocked a || s.vatTaken a) then .error .wait else .ok p
  | e => e

/-- The pieces of n bytes in their 64-byte units. -/
def unitsOf : Nat → Nat → Nat → List (Nat × Nat)
  | 0, _, _ => []
  | fuel + 1, va, n =>
    if n = 0 then []
    else
      let k := if va % 64 + n ≤ 64 then n else 64 - va % 64
      (va, k) :: unitsOf fuel (va + k) (n - k)

/-- Bytes with a mark for those of an uncorrectable unit. -/
abbrev Marked := List (Byte × Bool)

/-- Bytes read from virtual memory up to a stop; a versioned line gives its newest committed or own slot (R221, R318). -/
def State.engRead (s : State) (r job va n : Nat) : Marked × Option EngStop :=
  (unitsOf (n / 64 + 2) va n).foldl (fun acc u =>
    match acc with
    | (bs, none) =>
      match s.engPage r job 0 none u.1 u.2 with
      | .error e => (bs, some e)
      | .ok p =>
        match s.readPart (s.reg r).writer none p with
        | .bytes cs err => (bs ++ cs.map (fun b => (b, err)), none)
        | .wait => (bs, some .wait)
        | .fail c va _ => (bs, some (.fault c va))
    | x => x) ([], none)

/-- A 64-byte unit takes an uncorrectable mark. -/
def State.markBad (s : State) (pa : Nat) : State := { s with uerr := (s.uerr ++ [pa / 64]).eraseDups }

/-- ERR of a completion status (R319). -/
def stErr : Nat := 2 ^ 12

/-- One piece written through its page, with the status bits it sets: a versioned page takes it as the version of a
round (R219, R318), and a line whose directory entry is uncorrectable stays and gives ERR (R218). -/
def State.engPut (s : State) (r : Nat) (round : BitVec 24) (p : Part) (bs : Marked) : State × Nat × Option EngStop :=
  if peVerp p.leaf.entry then
    (linesOf (p.len / 32 + 2) p.va p.len).foldl (fun acc l =>
      match acc with
      | (s, f, none) =>
        let d := l.1 - p.va
        let q : Part := ⟨l.1, l.2, { p.leaf with pa := p.leaf.pa + d }⟩
        let cs := (bs.drop d).take l.2
        match s.versStore r round q (cs.map (fun b => some b.1)) with
        | .done t =>
          let v := q.leaf.vline
          let k := ((List.find? (fun q => q.2.round == round && q.2.writer == (t.reg r).writer) (liveSlots t.mem v.dir)).map Prod.fst).getD 0
          (if cs.any Prod.snd then t.markBad (v.data k) else t, f, none)
        | .wait => (s, f, some .wait)
        | .fail c va _ => (s, f, some (.fault c va))
        | .uncorrectable => (s, f ||| stErr, none)
      | x => x) (s, 0, none)
  else
    let s := s.storeBytes p.leaf.pa (bs.map Prod.fst)
    (if bs.any Prod.snd then s.markBad p.leaf.pa else s, 0, none)

/-- Bytes written to virtual memory up to a stop; what was written before it stands. -/
def State.engWrite (s : State) (r job : Nat) (round : BitVec 24) (va : Nat) (bs : Marked) : State × Nat × Option EngStop :=
  let go := (unitsOf (bs.length / 64 + 2) va bs.length).foldl (fun (acc : State × Nat × Option EngStop × Marked) u =>
    match acc with
    | (s, f, none, bs) =>
      match s.engPage r job 1 (some round) u.1 u.2 with
      | .error e => (s, f, some e, bs)
      | .ok p =>
        let (s, f', e) := s.engPut r round p (bs.take u.2)
        (s, f ||| f', e, bs.drop u.2)
    | x => x) (s, 0, none, bs)
  (go.1, go.2.1, go.2.2.1)

/-! ### Local targets (R316, R317) -/

/-- The side of a copy: virtual memory, the Vat store, or an element of the region. -/
inductive Side where
  | va (a : Nat)
  | vat (pa : Nat)
  | elem (bench elem off : Nat)
  deriving DecidableEq, Repr

/-- The declared local memory of an element in bytes; none when its record has ACT = 0. -/
def Region.localSize (x : Region) (b e : Nat) : Nat :=
  match (x.bench b).plane.elems.find? e with
  | some k => (k.nlb + 1) * 8192
  | none => 0

/-- A local target of LEN bytes, when it lies in the region as R317 asks. -/
def Region.target (x : Region) (w n : Nat) : Option Side :=
  let off := bits w 0 22
  if bits w 22 22 ≠ 0 then none
  else
    match bits w 62 2 with
    | 0 =>
      let b := bits w 54 8
      let e := bits w 50 4
      if bits w 44 6 = 0 ∧ b < x.place.rows * x.place.cols ∧ off + n ≤ x.localSize b e then some (.elem b e off) else none
    | 1 =>
      match x.place.groups.find? (bits w 44 6) with
      | some g => if bits w 50 12 = 0 ∧ off + n ≤ 3 * 2 ^ 20 then some (.vat (groupAddr x.place.die g off)) else none
      | none => none
    | _ => none

/-- Bytes of an element's local memory. -/
def Element.bytesAt (el : Element) (off n : Nat) : Marked :=
  (upTo n).map (fun i => (el.local_.getD (off + i) 0#8, el.localErr.contains ((off + i) / 8)))

/-- Bytes written to an element's local memory: whole 8-byte units lose their marks, marked units take them. -/
def Element.putBytes (el : Element) (off : Nat) (bs : Marked) : Element :=
  let n := bs.length
  let marks := ((bs.zipIdx.filter (fun b => b.1.2)).flatMap (fun b => (upTo 8).map (fun k => (off + b.2) / 64 * 8 + k))).eraseDups
  { el with
    local_ := bs.zipIdx.foldl (fun m b => m.set 0#8 (off + b.2) b.1.1) el.local_
    localErr := (el.localErr.filter (fun u => !decide (off ≤ 8 * u ∧ 8 * u + 8 ≤ off + n)) ++ marks).eraseDups }

/-- A piece of local memory has a line under copy. -/
def State.elemLocked (s : State) (r b e off n : Nat) : Bool :=
  let x := s.reg r
  (unitsOf (n / 64 + 2) off n).any (fun u => s.localLocked x.place.die (x.dieBench b) e u.1)

/-- A line of some Vat store bytes is under copy, or its bank is in use (R232, R268). -/
def State.vatHeld (s : State) (pa n : Nat) : Bool :=
  (unitsOf (n / 64 + 2) pa n).any (fun u => s.vatLocked u.1 || s.vatTaken u.1)

/-- Bytes of an element's local memory on its bench, with the marks of those lost with their bank. -/
def State.localRead (s : State) (r b e off n : Nat) : Marked :=
  let x := s.reg r
  let lost := s.lostLocal x.place.die (x.dieBench b) e
  ((((x.bench b).elem e).bytesAt off n).zipIdx).map (fun c => (c.1.1, c.1.2 || lost.contains ((off + c.2) / 8192)))

def State.sideRead (s : State) (r job : Nat) (a : Side) (n : Nat) : Marked × Option EngStop :=
  match a with
  | .va va => s.engRead r job va n
  | .vat pa =>
    if s.vatHeld pa n then ([], some .wait)
    else ((upTo n).map (fun i => (s.mem.read (pa + i), s.badBytes (pa + i) 1)), none)
  | .elem b e off =>
    if s.elemLocked r b e off n then ([], some .wait) else (s.localRead r b e off n, none)

def State.sideWrite (s : State) (r job : Nat) (round : BitVec 24) (a : Side) (bs : Marked) : State × Nat × Option EngStop :=
  match a with
  | .va va => s.engWrite r job round va bs
  | .vat pa =>
    if s.vatHeld pa bs.length then (s, 0, some .wait)
    else
      let s := s.storeBytes pa (bs.map Prod.fst)
      ((bs.zipIdx.filter (fun b => b.1.2)).foldl (fun s b => s.markBad (pa + b.2)) s, 0, none)
  | .elem b e off =>
    if s.elemLocked r b e off bs.length then (s, 0, some .wait)
    else (s.updElem r b e (fun el => el.putBytes off bs), 0, none)

/-! ### Descriptors (R316) -/

def EngCmd.d (e : EngCmd) (k : Nat) : Nat := (e.descr.getD k 0#64).toNat
def EngCmd.src (e : EngCmd) : Nat := e.d 0
def EngCmd.dst (e : EngCmd) : Nat := e.d 1
def EngCmd.len (e : EngCmd) : Nat := bits (e.d 2) 0 40
def EngCmd.aux (e : EngCmd) : Nat := e.d 3
def EngCmd.ord (e : EngCmd) : Bool := bit (e.d 4) 15
def EngCmd.pdir (e : EngCmd) : Bool := bit (e.d 4) 14
def EngCmd.cop (e : EngCmd) : Nat := bits (e.d 4) 12 2
def EngCmd.cdt (e : EngCmd) : Nat := bits (e.d 4) 9 3
def EngCmd.cred (e : EngCmd) : Nat := bits (e.d 4) 7 2
def EngCmd.badMode (e : EngCmd) : Nat := bits (e.d 4) 5 2
def EngCmd.signed (e : EngCmd) : Bool := bit (e.d 4) 4
def EngCmd.esz (e : EngCmd) : Nat := bits (e.d 4) 2 2
def EngCmd.cseq (e : EngCmd) : Nat := bits (e.d 5) 0 32

/-- Bytes of an SCOLL element. -/
def EngCmd.collSize (e : EngCmd) : Nat := if e.cdt = 4 then 16 else 4

/-- The peer that AUX names: chip, die, target; none when the word is malformed. -/
def EngCmd.peer (e : EngCmd) : Option (Nat × Nat × PhysTarget) :=
  let a := e.aux
  let chip := bits a 42 22
  let die := bits a 40 2
  if bits a 0 26 ≠ 0 then none
  else
    match bits a 38 2 with
    | 0 => some (chip, die, .element (bits a 30 8) (bits a 26 4))
    | 1 => if bits a 32 6 = 0 then some (chip, die, .bankGroup (bits a 26 6)) else none
    | _ => none

/-- The descriptor breaks R316 or the table of R317: reserved and unused fields, reserved values, local targets. -/
def EngCmd.malformed (e : EngCmd) (x : Region) : Bool :=
  let f := e.d 4 % 2 ^ 15
  let others (lo hi : Nat) : Bool := f != bits f lo (hi - lo) * 2 ^ lo
  decide (2 ^ 40 ≤ e.d 2) || decide (2 ^ 16 ≤ e.d 4) || decide (2 ^ 32 ≤ e.d 5) || e.d 6 != 0 || e.d 7 != 0
    || (e.cmd != 8 && e.d 5 != 0)
    || (match e.cmd with
      | 1 => f != 0 || e.aux != 0
      | 2 => f != 0 || e.aux != 0 || (x.target e.dst e.len).isNone
      | 3 => f != 0 || e.aux != 0 || (x.target e.src e.len).isNone
      | 4 | 5 => others 2 7 || e.badMode == 3
      | 6 => f != 0 || e.aux != 0 || e.dst != 0
      | 7 => others 14 15 || e.peer.isNone || decide (2 ^ 22 ≤ (if e.pdir then e.src else e.dst))
      | _ => others 7 14 || decide (4 < e.cdt) || e.cred == 3 || (e.cdt == 4 && e.cred != 0) || e.len % e.collSize != 0)

/-! ### How a command ends (R319) -/

/-- What a command has come to: it waits, or it has ended with its state, CAUSE, failing byte and status bits. -/
inductive EngRes where
  | hold (stop : EngStop)
  /-- An SPEER whose transfer was accepted on this package waits for a line of its target (R228). -/
  | accepted (s : State)
  | fin (s : State) (cause va flags : Nat)

/-- Status bits (R319). -/
def stVoided : Nat := 2 ^ 14
def stSat : Nat := 2 ^ 13
def stDenied : Nat := 2 ^ 10
def stBadIdx : Nat := 2 ^ 9

/-- The status word: FAULT and CAUSE when a cause ended the command, and DONE. -/
def statusWord (cause flags : Nat) : Word :=
  BitVec.ofNat 32 (cause * 2 ^ 16 + (if cause = 0 then 0 else 2 ^ 11) + flags + 2 ^ 8)

/-- ERR when some byte met was uncorrectable. -/
def errFlag (bs : Marked) : Nat := if bs.any Prod.snd then stErr else 0

/-- After a stop: a fault ends the command, a wait holds it and nothing of this attempt stands. -/
def endAt (s : State) (flags : Nat) : Option EngStop → EngRes
  | none => .fin s 0 0 flags
  | some (.fault c va) => .fin s c va flags
  | some e => .hold e

/-- SCOPY, SLOAD and SSTORE: every source byte is read before a destination byte is written; the bytes before one
that cannot be read are written (R317, R319). -/
def State.copyCmd (s : State) (e : EngCmd) (src dst : Side) : EngRes :=
  let (bs, st) := s.sideRead e.region e.job src e.len
  match st with
  | some .wait | some (.park _) => endAt s (errFlag bs) st
  | _ =>
    match s.sideWrite e.region e.job e.round dst bs with
    | (s', f, none) => endAt s' (errFlag bs ||| f) st
    | (s', f, some stop) => endAt s' (errFlag bs ||| f) (some stop)

/-- SPROBE: every page is resident. -/
def State.probeCmd (s : State) (e : EngCmd) : EngRes :=
  endAt s 0 ((pagesOf (e.len / 4096 + 2) e.src e.len).findSome? (fun p =>
    match s.engLeaf e.job 0 p.1 p.2 with
    | .error e => some e
    | .ok _ => none))

/-! ### SGATH and SSCAT (R317) -/

/-- An index word's element address, on unbounded integers (R8): one that is no 64-bit address stands above them all, its
low 64 bits kept. -/
def EngCmd.indexAddr (e : EngCmd) (base : Nat) (w : Nat) : Nat :=
  let k : Int := base + (if e.signed then sext 32 w else (w : Int)) * (2 ^ e.esz : Nat)
  wrapInt 64 k + (if 0 ≤ k ∧ k < 2 ^ 64 then 0 else 2 ^ 64)

/-- Checks 1 to 3 fail for some bytes: `some true` is bad, `none` waits for check 4. -/
def State.engBad (s : State) (job kind a n : Nat) : Bool :=
  match s.seqCheck job kind none a n with
  | .fail c _ => decide (c < 4)
  | .ok _ => false

/-- One index: its element moved, skipped, zeroed, or the end of the command. -/
def State.indexStep (s : State) (e : EngCmd) (flags i : Nat) : EngRes :=
  let n := 2 ^ e.esz
  let gather := e.cmd = 4
  let kind := if gather then 0 else 1
  let base := if gather then e.src else e.dst
  let (ix, st) := s.engRead e.region e.job (e.aux + 4 * i) 4
  match st with
  | some st => endAt s (flags ||| errFlag ix) (some st)
  | none =>
    let a0 := e.indexAddr base (leNat (ix.map Prod.fst))
    let bad0 := s.engBad e.job kind a0 n
    let a := if bad0 ∧ e.badMode = 2 then base else a0
    let bad := bad0 && (e.badMode != 2 || s.engBad e.job kind base n)
    let flags := flags ||| errFlag ix ||| (if bad0 ∧ e.badMode ≠ 0 then stBadIdx else 0)
    if bad ∧ e.badMode = 0 then .fin s (engCause kind) a0 flags
    else if gather then
      let (bs, st) := if bad then (List.replicate n (0#8, false), none) else s.engRead e.region e.job a n
      match st with
      | some st => endAt s (flags ||| errFlag bs) (some st)
      | none =>
        let (s', f, st) := s.engWrite e.region e.job e.round (e.dst + n * i) bs
        endAt s' (flags ||| errFlag bs ||| f) st
    else if bad then .fin s 0 0 flags
    else
      let (bs, st) := s.engRead e.region e.job (e.src + n * i) n
      match st with
      | some st => endAt s (flags ||| errFlag bs) (some st)
      | none =>
          let (s', f, st) := s.engWrite e.region e.job e.round a bs
          endAt s' (flags ||| errFlag bs ||| f) st

/-- The indices in ascending order. -/
def State.indexCmd (s : State) (e : EngCmd) : EngRes :=
  (upTo e.len).foldl (fun acc i =>
    match acc with
    | .fin s 0 _ flags => s.indexStep e flags i
    | x => x) (.fin s 0 0 0)

/-! ### Peers (R226 to R228) -/

/-- The entry that a transfer may use: the first that satisfies every condition of R227. -/
def Die.grantFor (d : Die) (x : PeerXfer) : Option Grant :=
  let room := match x.target with
    | .element _ _ => 2 ^ 16
    | .bankGroup _ => 3 * 2 ^ 20
  (List.find? (fun g => g.2.target == x.target && (g.2.any || g.2.src == x.src) && (if x.write then g.2.w else g.2.rd)
    && decide (g.2.off ≤ x.off ∧ x.off + x.len ≤ g.2.off + g.2.len ∧ x.off + x.len ≤ room)) d.grants).map Prod.snd

/-- The region and bench number that stand on a bench of a die. -/
def State.standsOn (s : State) (die bench : Nat) : Option (Nat × Nat) :=
  s.regions.findSome? (fun x =>
    if x.2.holds s.cycle && x.2.place.die == die then
      ((List.range (x.2.place.rows * x.2.place.cols)).find? (fun b => x.2.dieBench b == bench)).map (fun b => (x.1, b))
    else none)

/-- Bytes of a physical target; none while a line of them is under copy. -/
def State.peerRead (s : State) (x : PeerXfer) : Option Marked :=
  match x.target with
  | .element b e =>
    match s.standsOn x.die b with
    | some (r, k) => if s.elemLocked r k e x.off x.len then none else some (s.localRead r k e x.off x.len)
    | none => some (List.replicate x.len (0#8, false))
  | .bankGroup g =>
    let (bs, st) := s.sideRead 0 0 (.vat (groupAddr x.die g x.off)) x.len
    if st.isSome then none else some bs

/-- Bytes landed at a physical target; none while a line of them is under copy. -/
def State.peerWrite (s : State) (x : PeerXfer) : Option State :=
  let bs : Marked := x.data.zipIdx.map (fun b => (b.1, x.bad.contains b.2))
  match x.target with
  | .element b e =>
    match s.standsOn x.die b with
    | some (r, k) =>
      if s.elemLocked r k e x.off x.len then none else some (s.updElem r k e (fun el => el.putBytes x.off bs))
    | none => some s
  | .bankGroup g =>
    let (s', _, st) := s.sideWrite 0 0 0#24 (.vat (groupAddr x.die g x.off)) bs
    if st.isSome then none else some s'

/-- Offsets of marked bytes. -/
def badOffsets (bs : Marked) : List Nat := (bs.zipIdx.filter (fun b => b.1.2)).map Prod.snd

/-- How a transfer stands at its target die: answered, or accepted and waiting for a line. -/
inductive PeerRes where
  | answered (s : State) (r : PeerReply)
  | waits (s : State)

/-- A transfer at its target die: denied and counted, or performed with the flag add of a write. One that waits stays
accepted, whatever becomes of its grant (R228). -/
def State.peerArrives (s : State) (x : PeerXfer) : PeerRes :=
  let d := s.die x.die
  match ((List.find? (fun a : PeerXfer × Grant => a.1 == x) d.accepted).map Prod.snd).orElse (fun _ => d.grantFor x) with
  | none =>
    .answered (s.updDie x.die (fun d => { d with
      grantDenied := if d.grantDenied < 2 ^ 32 - 1 then d.grantDenied + 1 else d.grantDenied })) ⟨true, [], []⟩
  | some g =>
    let rest := d.accepted.filter (fun a => a.1 != x)
    let done := s.updDie x.die (fun d => { d with accepted := rest })
    let res :=
      if x.write then (done.peerWrite x).map (fun s => (s.now (.flagAdd g.job (flagSite x.die g.flag)), (⟨false, [], []⟩ : PeerReply)))
      else (done.peerRead x).map (fun bs => (done, ⟨false, bs.map Prod.fst, badOffsets bs⟩))
    match res with
    | some (s, r) => .answered s r
    | none => .waits (s.updDie x.die (fun d => { d with accepted := rest ++ [(x, g)] }))

/-- A transfer of another package arrives. -/
def execPeerTransferArrival (x : PeerXfer) (s : State) : Answer :=
  match s.peerArrives x with
  | .answered s r => .next (s.emit (.peerReply x.sender r))
  | .waits s => .next (s.after 1 (.peerTransferArrival x))

/-- An engine command of a die changed. -/
def State.updEng (s : State) (die idx : Nat) (f : EngCmd → EngCmd) : State :=
  s.updDie die (fun d => { d with engines := d.engines.modify idx f })

def EngCmd.init : EngCmd :=
  { region := 0, job := 0, num := 0, cmd := 0, descrAddr := 0, descr := [], barrier := 0, round := 0#24, started := false,
    due := 0, voided := false, result := none, sent := false, reply := none, msgs := [], waitVa := none, versioned := false }

def State.eng (s : State) (die idx : Nat) : EngCmd := (s.die die).engines.getD idx .init

/-- An SPEER sends: a write with its bytes, a read with none; a target on this package answers at once. -/
def State.peerSend (s : State) (die idx : Nat) (e : EngCmd) : EngRes :=
  match e.peer with
  | none => .fin s 0x96 0 0
  | some (chip, d, tgt) =>
    let (bs, st) := if e.pdir then ([], none) else s.engRead e.region e.job e.src e.len
    match st with
    | some st => endAt s (errFlag bs) (some st)
    | none =>
      let x : PeerXfer :=
        { src := s.nvm.chip, die := d, target := tgt, off := if e.pdir then e.src else e.dst, len := e.len, write := !e.pdir,
          data := bs.map Prod.fst, bad := badOffsets bs, sender := idx * 4 + die }
      if s.nvm.chipOk ∧ chip = s.nvm.chip.toNat then
        match s.peerArrives x with
        | .answered s r => .fin (s.updEng die idx (fun e => { e with sent := true, reply := some r })) 0 0 (errFlag bs)
        | .waits s => .accepted s
      else .fin ((s.emit (.peer chip d x)).updEng die idx (fun e => { e with sent := true })) 0 0 (errFlag bs)

/-- An SPEER whose answer is there. -/
def State.peerCmd (s : State) (e : EngCmd) (r : PeerReply) : EngRes :=
  if r.denied then .fin s 0 0 stDenied
  else if e.pdir then
    let bs : Marked := (r.data.take e.len).zipIdx.map (fun b => (b.1, r.bad.contains b.2))
    let (s', f, st) := s.engWrite e.region e.job e.round e.dst bs
    endAt s' (errFlag bs ||| f) st
  else .fin s 0 0 0

/-! ### Collectives (R320) -/

/-- A group table: NR, MYRANK, GID and the entries. -/
structure GroupTable where
  nr : Nat
  my : Nat
  gid : Nat
  rows : List Nat
  deriving DecidableEq, Repr

/-- The group table of a command, its reserved bits ignored (R4); malformed ones end it with 0x96. -/
def State.groupTable (s : State) (die : Nat) (e : EngCmd) : Except EngStop GroupTable :=
  match s.engRead e.region e.job e.aux 8 with
  | (_, some st) => .error st
  | (h, none) =>
    let w := leNat (h.map Prod.fst)
    let nr := bits w 41 23
    let my := bits w 19 22
    if nr = 0 ∨ 2 ^ 22 < nr ∨ nr ≤ my then .error (.fault 0x96 e.aux)
    else
      match s.engRead e.region e.job (e.aux + 8) (4 * nr) with
      | (_, some st) => .error st
      | (t, none) =>
        let rows := (upTo nr).map (fun k => leNat (((t.drop (4 * k)).take 3).map Prod.fst))
        if rows.getD my 0 != s.nvm.chip.toNat + die * 2 ^ 22 || !s.nvm.chipOk then
          .error (.fault 0x96 e.aux)
        else .ok ⟨nr, my, bits w 0 16, rows⟩

/-- A message taken up by the dies of this package that its table names. -/
def State.takeMessage (s : State) (m : CollMsg) : State :=
  (upTo 4).foldl (fun s d =>
    let n := (m.table.zipIdx.filter (fun w => w.2 != m.rank && w.1 == s.nvm.chip.toNat + d * 2 ^ 22)).length
    if n = 0 then s else { s with colls := s.colls ++ [(d, n, m)] }) s

/-- A message of a collective arrives from another rank. -/
def execCollectiveMessageArrival (m : CollMsg) (s : State) : Answer := .next (s.takeMessage m)

/-- An SCOLL sends its header and, where the operation needs it, its source to every other rank. -/
def State.collSend (s : State) (die idx : Nat) (e : EngCmd) (t : GroupTable) : EngRes :=
  let need := e.cop ≠ 2 ∨ t.my = 0
  let (bs, st) := if need then s.engRead e.region e.job e.src e.len else ([], none)
  match st with
  | some st => endAt s (errFlag bs) (some st)
  | none =>
    let m : CollMsg :=
      { gid := t.gid, cseq := e.cseq, rank := t.my, table := t.rows, len := e.len, cop := e.cop, cdt := e.cdt, cred := e.cred,
        data := bs.map Prod.fst, bad := badOffsets bs }
    let chips := ((t.rows.map (fun w => w % 2 ^ 22)).eraseDups).filter (· != s.nvm.chip.toNat)
    let s := chips.foldl (fun s c => s.emit (.collective c m)) (s.takeMessage m)
    .fin (s.updEng die idx (fun e => { e with sent := true, msgs := e.msgs ++ [m] })) 0 0 0

/-- Messages of a command's collective that wait at its die are taken. -/
def State.collTake (s : State) (die idx : Nat) (gid : Nat) : State :=
  s.colls.foldl (fun s c =>
    let e := s.eng die idx
    if c.1 == die && c.2.2.gid == gid && c.2.2.cseq == e.cseq && !e.msgs.any (fun m => m.rank == c.2.2.rank) then
      let s := s.updEng die idx (fun e => { e with msgs := e.msgs ++ [c.2.2] })
      let rest := s.colls.filter (· != c)
      { s with colls := if c.2.1 ≤ 1 then rest else rest ++ [(c.1, c.2.1 - 1, c.2.2)] }
    else s) s

/-- Two elements combined: the result and whether a type clamped. -/
def combine (cdt cred a b : Nat) : Nat × Bool :=
  let x := BitVec.ofNat 32 a
  let y := BitVec.ofNat 32 b
  let nat : Bool := cdt == 3
  if cdt = 4 then ((csMerge (BitVec.ofNat 128 a) (BitVec.ofNat 128 b)).toNat, false)
  else if cdt = 0 then
    match cred with
    | 0 => ((faddW x y).1.toNat, false)
    | 1 => ((fmaxW x y).toNat, false)
    | _ => ((fminW x y).toNat, false)
  else
    match cred with
    | 0 =>
      if cdt = 1 then ((x + y).toNat, false)
      else
        let (w, f) := satLane nat (laneInt nat x + laneInt nat y)
        (w.toNat, f != 0#8)
    | 1 => ((if laneInt nat x < laneInt nat y then y else x).toNat, false)
    | _ => ((if laneInt nat y < laneInt nat x then y else x).toNat, false)

/-- The canonical tree over the ranks' vectors, left operand first (R320). -/
def reduceTree (cdt cred : Nat) : Nat → List (List (Nat × Bool)) → List (Nat × Bool) × Bool
  | 0, _ => ([], false)
  | fuel + 1, xs =>
    match xs with
    | [] => ([], false)
    | [x] => (x, false)
    | _ =>
      let h := 2 ^ Nat.log2 (xs.length - 1)
      let (l, sl) := reduceTree cdt cred fuel (xs.take h)
      let (r, sr) := reduceTree cdt cred fuel (xs.drop h)
      let zs := (l.zip r).map (fun p => (combine cdt cred p.1.1 p.2.1, p.1.2 || p.2.2))
      (zs.map (fun z => (z.1.1, z.2)), sl || sr || zs.any (fun z => z.1.2))

/-- The elements of a rank's source; a carry-save token whose parity fails carries ERR (R175). -/
def collElems (m : CollMsg) (z : Nat) : List (Nat × Bool) :=
  (upTo (m.len / z)).map (fun i =>
    let x := leNat ((m.data.drop (z * i)).take z)
    (x, m.bad.any (fun o => decide (z * i ≤ o ∧ o < z * i + z)) || (m.cdt == 4 && !(csDecode (BitVec.ofNat 128 x)).parOk)))

/-- The message of a rank. -/
def EngCmd.fromRank (e : EngCmd) (k : Nat) : Option CollMsg := List.find? (fun m => m.rank == k) e.msgs

/-- A rank's bytes with their marks. -/
def collMarked (m : CollMsg) : Marked := m.data.zipIdx.map (fun b => (b.1, m.bad.contains b.2))

/-- An SCOLL once the messages it needs are there; none while some rank is missing. -/
def State.collCmd (s : State) (e : EngCmd) (t : GroupTable) : Option EngRes :=
  let clash := e.msgs.any (fun m => m.table != t.rows || m.len != e.len || m.cop != e.cop || m.cdt != e.cdt || m.cred != e.cred)
  if clash then some (.fin s 0x95 e.aux 0)
  else if !(upTo t.nr).all (fun k => (e.fromRank k).isSome) then none
  else
    let ms := (upTo t.nr).filterMap e.fromRank
    let z := e.collSize
    let red := reduceTree e.cdt e.cred t.nr (ms.map (fun m => collElems m z))
    let redBytes : Marked := red.1.flatMap (fun x => (leBytes x.1 z).map (fun b => (b, x.2)))
    let sat := if red.2 then stSat else 0
    let put (bs : Marked) (flags : Nat) : EngRes :=
      let (s', f, st) := s.engWrite e.region e.job e.round e.dst bs
      endAt s' (flags ||| errFlag bs ||| f) st
    some (match e.cop with
      | 0 => put redBytes sat
      | 1 => if t.my = 0 then put redBytes sat else .fin s 0 0 sat
      | 2 => put ((e.fromRank 0).map collMarked |>.getD []) 0
      | _ => put (ms.flatMap collMarked) 0)

/-! ### Start and completion (R315, R318, R319) -/

/-- Engines of a die: 32, shared by commands and evacuations (R231, R315). -/
def enginesPerDie : Nat := 32

/-- Engines of a die that run commands. -/
def Die.running (d : Die) : Nat := (d.engines.filter (fun e => e.2.started)).length

/-- A command may start: an engine is free, earlier commands of its sequencer have started, and with ORD completed. -/
def State.mayStart (s : State) (die idx : Nat) : Bool :=
  let d := s.die die
  match d.engines.find? idx with
  | none => false
  | some e =>
    let earlier := ((s.reg e.region).seq.outstanding).takeWhile (· != e.num)
    !e.started && decide (d.running + d.evacs.length < enginesPerDie)
      && (if e.ord then earlier.isEmpty
        else s.dies.all (fun d => d.2.engines.all (fun f =>
          f.2.region != e.region || f.2.started || !earlier.contains f.2.num)))

/-- Virtual ranges that a command writes: address and length. -/
def EngCmd.writes (s : State) (e : EngCmd) : List (Nat × Nat) :=
  match e.cmd with
  | 1 | 3 => [(e.dst, e.len)]
  | 4 => [(e.dst, e.len * 2 ^ e.esz)]
  | 5 => (upTo e.len).map (fun i =>
      (e.indexAddr e.dst (leNat ((s.engRead e.region e.job (e.aux + 4 * i) 4).1.map Prod.fst)), 2 ^ e.esz))
  | 7 => if e.pdir then [(e.dst, e.len)] else []
  | 8 =>
    let w := leNat ((s.engRead e.region e.job e.aux 8).1.map Prod.fst)
    if e.cop = 1 ∧ bits w 19 22 ≠ 0 then [] else [(e.dst, if e.cop = 3 then e.len * bits w 41 23 else e.len)]
  | _ => []

/-- A command writes a versioned page (R318). -/
def State.writesVersioned (s : State) (e : EngCmd) : Bool :=
  (e.writes s).any (fun w => (pagesOf (w.2 / 4096 + 2) w.1 w.2).any (fun p =>
    match s.walk e.job p.1 with
    | .leaf l => peVerp l.entry
    | _ => false))

/-- A command starts: a malformed descriptor or an empty command is decided at once. -/
def execEngineCommandStart (die idx : Nat) (s : State) : Answer :=
  if s.mayStart die idx then
    let e := s.eng die idx
    let (s, t) := s.ticket
    let decided : Option (Word × Nat × Nat) :=
      if e.result.isSome then e.result
      else if e.malformed (s.reg e.region) then some (statusWord 0x96 0, 0x96, 0)
      else if e.len = 0 then some (statusWord 0 0, 0, 0)
      else none
    let v := s.writesVersioned e
    .next (s.updEng die idx (fun e => { e with
      started := true, versioned := v, result := decided, due := s.cycle + 1 + Config.engineLatency t }))
  else .next s

/-- A command leaves the engine: it arrives on its barrier object, or without one a fault is an asynchronous trap. -/
def State.engineEnds (s : State) (die idx : Nat) (w : Word) (cause va : Nat) : State :=
  let e := s.eng die idx
  let s := s.updDie die (fun d => { d with engines := d.engines.del idx })
  let s := s.updSeq e.region (fun q => { q with outstanding := q.outstanding.filter (· != e.num) })
  if e.barrier ≠ 0 then s.arriveAt e.job e.barrier e.region w
  else if bit w.toNat 11 then s.asyncRaise e.region cause (dw e.num) (dw va) (dw e.descrAddr) 0#64
  else s

/-- A command that waits for a page: S is told once (R318). -/
def State.engineHolds (s : State) (die idx : Nat) (st : EngStop) : State :=
  match st with
  | .park va =>
    let e := s.eng die idx
    if e.waitVa = some va then s
    else (s.event e.region 0x46 (dw va) 0#64 0#64 0#64).updEng die idx (fun e => { e with waitVa := some va })
  | _ => s

/-- An attempt carried out: its state and end, or the wait. -/
def State.engineDoes (s : State) (die idx : Nat) (r : EngRes) : State :=
  match r with
  | .hold st => s.engineHolds die idx st
  | .accepted s => s.engineHolds die idx .wait
  | .fin s c va flags => s.engineEnds die idx (statusWord c flags) c va

/-- A first half carried out, with what it sends; a fault ends the command. -/
def State.engineSends (s : State) (die idx : Nat) (r : EngRes) : State :=
  match r with
  | .hold st => s.engineHolds die idx st
  | .accepted s => s.engineHolds die idx .wait
  | .fin s 0 _ _ => s
  | .fin s c va flags => s.engineEnds die idx (statusWord c flags) c va

/-- An SCOLL in turn: it reads its table, sends, takes messages, and completes. -/
def State.collTurn (s : State) (die idx : Nat) (e : EngCmd) : State :=
  match s.groupTable die e with
  | .error (.fault c va) => s.engineEnds die idx (statusWord c 0) c va
  | .error st => s.engineHolds die idx st
  | .ok t =>
    if !e.sent then s.engineSends die idx (s.collSend die idx e t)
    else
      let s := s.collTake die idx t.gid
      match s.collCmd (s.eng die idx) t with
      | some r => s.engineDoes die idx r
      | none => s

/-- A started command in turn. An SPEER of this package's own is answered by `reply` when its peer's answer arrives. -/
def execEngineCommandComplete (die idx : Nat) (reply : Option PeerReply) (s : State) : Answer :=
  match (s.die die).engines.find? idx with
  | none => .next s
  | some _ =>
    let s := match reply with
      | some r => s.updEng die idx (fun e => if e.sent && e.cmd == 7 && e.reply.isNone then { e with reply := some r } else e)
      | none => s
    let e := s.eng die idx
    match e.result with
    | some (w, c, va) => .next (s.engineEnds die idx w c va)
    | none =>
      if !e.started then .next s
      else if e.voided && e.versioned then .next (s.engineEnds die idx (statusWord 0 stVoided) 0 0)
      else if s.cycle < e.due then .next s
      else
        let x := s.reg e.region
        match e.cmd with
        | 1 => .next (s.engineDoes die idx (s.copyCmd e (.va e.src) (.va e.dst)))
        | 2 => .next (s.engineDoes die idx (match x.target e.dst e.len with
            | some t => s.copyCmd e (.va e.src) t
            | none => .fin s 0x96 0 0))
        | 3 => .next (s.engineDoes die idx (match x.target e.src e.len with
            | some t => s.copyCmd e t (.va e.dst)
            | none => .fin s 0x96 0 0))
        | 4 | 5 => .next (s.engineDoes die idx (s.indexCmd e))
        | 6 => .next (s.engineDoes die idx (s.probeCmd e))
        | 7 =>
          match e.reply with
          | some r => .next (s.engineDoes die idx (s.peerCmd e r))
          | none => if e.sent then .next s else .next (s.engineSends die idx (s.peerSend die idx e))
        | _ => .next (s.collTurn die idx e)

end Sys2Proof.Machine
end

