-- ==== Sys2Proof/Machine/Package.lean ====
section
/-! DEFINITION. The package: cold start and loss of power, management commands, the debug port, clocks and power (R11, R56,
R413 to R422). -/

namespace Sys2Proof.Machine

/-! ### Cold start (R11, R80, R81, R415) -/

/-- A unit that a cold start finds retired: a bank with a spare left stands on it at once. -/
def Die.bootRetire (d : Die) (u : HwUnit) : Die :=
  if !hasUnit u then d
  else
    let d' := (d.retire u).1
    { d' with
      banks := d'.banks.mapVal (fun _ e => if e.state = 2 then { e with state := 1, phys := e.newPhys, newPhys := 0 } else e)
      evacs := [], laneRemaps := [] }

/-- What is left without power: the flash and the two counters. What the outside has in store, and the model's own
counters, stand. -/
def State.lostPower (s : State) : State :=
  { State.reset with
    powered := false, cycle := s.cycle, tier := s.tier, cxl := s.cxl, nvm := s.nvm, inputs := s.inputs, tickets := s.tickets
    nextId := s.nextId }

def execPowerLoss (s : State) : Answer := .next s.lostPower

/-- The units that the self-test finds join the list, and the list is applied. -/
def Nvm.selfTest (m : Nvm) : Nvm :=
  (upTo 4).foldl (fun m d =>
    (Config.selfTestFails m.coldStarts d).foldl (fun m u =>
      if m.retired.contains (d, u) || !hasUnit u then m else (m.enlist d u).1) m) m

/-- A package after power-on: with no slot that verifies no complex becomes active. -/
def State.boot (s : State) : State :=
  let s := s.lostPower
  let m := ({ s.nvm with coldStarts := s.nvm.coldStarts + 1 }).selfTest
  let m := { m with chip := BitVec.ofNat 22 m.record.toNat, chipOk := m.record.toNat / 2 ^ 22 == 0 }
  let bootable := m.slotA || m.slotB
  { s with
    powered := true
    nvm := m
    dies := s.dies.mapVal (fun d x => ((m.retired.filter (fun u => u.1 == d)).map Prod.snd).foldl Die.bootRetire x)
    sup := if bootable then s.sup
      else { s.sup with activeDie := none, complexes := s.sup.complexes.mapVal (fun _ c => { c with inService := false }) } }

/-- A cold start of a package without power. -/
def execColdStart (s : State) : Answer := if s.powered then .next s else .next s.boot

/-! ### Management commands (R417, R418, R420) -/

/-- A command other than the cold reset is answered busy while no complex is active. -/
def State.managed (s : State) (code : Nat) (f : State → State) : Answer :=
  if s.sup.activeDie.isSome then .next (f s) else .next (s.emit (.mgmtBusy code))

/-- The current residency report; with no scheduler queue the first read after a takeover carries FAILOVER (R70). -/
def execReadResidency (s : State) : Answer :=
  s.managed 1 (fun s =>
    let (s, t) := s.ticket
    (s.emit (.mgmt 1 (s.residency (s.freeMiB t)))).updSup (fun p =>
      { p with failover := p.failover && p.schedQ.isSome }))

/-- The readings of R80: by die the classes 0 to 4, then 5 and 6 by element and 7 by bench. -/
def State.readings (s : State) : List Nat :=
  (upTo 4).flatMap (fun d =>
    let x := s.die d
    (upTo 5).map (fun c => x.capacity c 0 0)
      ++ (upTo 4096).map (fun k => x.capacity 5 (k / 16) (k % 16))
      ++ (upTo 4096).map (fun k => x.capacity 6 (k / 16) (k % 16))
      ++ (upTo 256).map (fun b => x.capacity 7 b 0))

def execReadCapacity (s : State) : Answer := s.managed 2 (fun s => s.emit (.mgmt 2 (s.readings.map dw)))

/-- The average of the samples of the last millisecond, in microwatts. A sample comes every 100 microseconds at 850 MHz,
and so fewer than ten of them at a lower clock step (R5). -/
def Power.average (p : Power) : Nat :=
  if p.samples.isEmpty then 0 else (p.samples.map Prod.snd).foldl (· + ·) 0 / p.samples.length

/-- Package time of a hundred microseconds at a clock step: 85,000 cycles (R5). -/
def sampleUnits (clk : Nat) : Nat :=
  match clk with
  | 0 => 13090000
  | 1 => 15895000
  | _ => 20230000

/-- The samples at a package time: those of the millisecond before it. -/
def Power.within (p : Power) (now : Nat) : Power := { p with samples := p.samples.filter (fun x => decide (now < x.1 + msUnits)) }

def execReadPower (s : State) : Answer :=
  s.managed 3 (fun s => s.emit (.mgmt 3 ([dw s.power.average, dw s.clk] ++ s.power.temps.map dw)))

/-- The bytes that an attestation report signs. -/
def attestBytes (chip : BitVec 22) (index : Nat) (nonce : BitVec 256) (measures : List Byte) (caps : List Nat) (unlocks : Nat) :
    List Byte :=
  leBytes chip.toNat 8 ++ leBytes index 8 ++ leBytes nonce.toNat 32 ++ measures ++ caps.flatMap (fun c => leBytes c 8)
    ++ leBytes unlocks 8

/-- An attestation report: the counter is written before a byte of the signature leaves; at 2^20 nothing more is signed. -/
def execAttest (nonce : BitVec 256) (s : State) : Answer :=
  s.managed 4 (fun s =>
    let m := s.nvm
    let measured := Config.measures (!m.slotA)
    let sig := Config.xmssSign (attestBytes m.chip m.xmss nonce measured s.readings m.unlocks) m.xmss
    if !m.chipOk then s
    else if 2 ^ 20 ≤ m.xmss then
      s.emit (.attestation false m.chip m.xmss nonce measured s.readings m.unlocks (sig.map (fun _ => 0#8)))
    else
      ({ s with nvm := { m with xmss := m.xmss + 1 } }).emit
        (.attestation true m.chip m.xmss nonce measured s.readings m.unlocks sig))

/-- A key passes to S, which installs it (R60, R418). -/
def execInstallKey (q : Nat) (key : BitVec 256) (lastSeq : BitVec 48) (s : State) : Answer :=
  s.managed 5 (fun s => s.now (.keyInstallation q key lastSeq))

/-- Power-on reset of the package; it acts whether or not a complex is active. -/
def execColdReset (s : State) : Answer := if s.powered then .next s.boot else .next s

/-- The package record takes a chip number, in effect at the next cold start (R415). -/
def execWriteChipNumber (n : BitVec 22) (s : State) : Answer :=
  s.managed 7 (fun s => { s with nvm := { s.nvm with record := n.setWidth 64 } })

/-! ### The debug port (R375, R421) -/

/-- An unlock token for the current count opens the port; the count is written first, so that none opens it twice. -/
def execDebugUnlock (token : Nat) (s : State) : Answer :=
  if Config.xmssUnlockOk token s.nvm.chip.toNat s.nvm.unlocks then
    .next ({ s with nvm := { s.nvm with unlocks := s.nvm.unlocks + 1 } }.updSup (fun p => { p with unlocked := true }))
  else .next s

/-- An act of an unlocked port on a region's sequencer. -/
def State.debugged (s : State) (r : Nat) (f : State → State) : Answer :=
  if s.sup.unlocked && (s.regions.find? r).isSome then .next (f s) else .next s

def execDebugHalt (r : Nat) (s : State) : Answer :=
  s.debugged r (fun s =>
    let (s, n) := s.fresh
    s.updSeq r (fun q => { q with hold := { q.hold with haltReq := if q.hold.halted then none else some (n, 0) } }))

/-- A step: a halted sequencer runs one block, a running one stops at its next boundary. -/
def execDebugStep (r : Nat) (s : State) : Answer :=
  s.debugged r (fun s =>
    let (s, n) := s.fresh
    s.updSeq r (fun q => { q with hold := { q.hold with
      halted := false, haltReq := some (n, if q.hold.halted then 1 else 2) } }))

/-- The registers of a sequencer that the port has stopped. -/
def Seq.registers (q : Seq) : List DWord :=
  (upTo 64).map (fun n => if n = 0 then 0#64 else q.g.getD n 0#64)
    ++ (upTo 8).map (fun n => dw (if n = 0 then true else q.p.getD n false).toNat)
    ++ [q.pc, q.csrs.round.setWidth 64, q.csrs.fpass.setWidth 64, dw q.csrs.priv.toNat, q.csrs.capvec.setWidth 64, q.csrs.bmapsel,
        q.csrs.handler.setWidth 64, q.csrs.trapcause.setWidth 64, q.csrs.trapblk.setWidth 64, q.csrs.traptag.setWidth 64]
    ++ (upTo 4).map (fun k => q.csrs.trapinfo.getD k 0#64)

def execDebugReadRegisters (r : Nat) (s : State) : Answer :=
  s.debugged r (fun s => if (s.reg r).seq.hold.halted then s.emit (.debug (s.reg r).seq.registers) else s)

def execDebugResume (r : Nat) (s : State) : Answer :=
  s.debugged r (fun s => s.updSeq r (fun q => { q with hold := { q.hold with halted := false } }))

/-! ### Clocks and power (R16, R419) -/

/-- The average of the last millisecond would pass 3,200 W with the next sample, taking it to equal the last one. -/
def Power.tooHigh (p : Power) (now clk : Nat) : Bool :=
  let next := now + sampleUnits clk
  decide (3200 * 10 ^ 6 <
    (({ p with samples := p.samples ++ [(next, (p.samples.getLastD (0, 0)).2)] } : Power).within next).average)

/-- A sample of power, every 100 microseconds, and of the dies' temperatures: the clock falls a step at once, and rises
one after 10 ms below 85 % of the estimate for the higher step. -/
def execPowerSample (microwatts : Nat) (temps : List Nat) (s : State) : Answer :=
  let p : Power := { s.power.within s.time with temps := temps }
  let p : Power := { p with samples := p.samples ++ [(s.time, microwatts)] }
  let hot := (upTo 4).any (fun d => decide (Config.thermalLimit d < temps.getD d 0))
  let changed (s : State) (clk : Nat) (p : Power) : State :=
    ({ s with clk := clk, power := { p with lowSince := none } }).updSup (fun q => { q with resDirty := true })
  if p.tooHigh s.time s.clk || hot then
    if s.clk < 2 then .next (changed s (s.clk + 1) p) else .next { s with power := { p with lowSince := none } }
  else if 0 < s.clk ∧ 100 * p.average < 85 * Config.drawEstimate (p.samples.map Prod.snd) (s.clk - 1) then
    let since := p.lowSince.getD s.time
    if since + 10 * msUnits ≤ s.time then .next (changed s (s.clk - 1) p)
    else .next { s with power := { p with lowSince := some since } }
  else .next { s with power := { p with lowSince := none } }

end Sys2Proof.Machine
end

