-- ==== Sys2Proof/Machine/Dispatch.lean ====
section
/-! DEFINITION. One arm per instruction: the meaning that each constructor of Instr is given. -/

namespace Sys2Proof.Machine

/-- What an instruction does (spec/opcode_table.json; each meaning cites its rule). -/
def exec (i : Instr) (s : State) : Host.Outcome State Fault Refusal :=
  match i with
  | .blk l x s' f => Sys2Proof.Machine.execBlk l x s' f s
  | .add d a b => Sys2Proof.Machine.execAdd d a b s
  | .sub d a b => Sys2Proof.Machine.execSub d a b s
  | .and d a b => Sys2Proof.Machine.execAnd d a b s
  | .or d a b => Sys2Proof.Machine.execOr d a b s
  | .xor d a b => Sys2Proof.Machine.execXor d a b s
  | .andn d a b => Sys2Proof.Machine.execAndn d a b s
  | .shl d a b => Sys2Proof.Machine.execShl d a b s
  | .shr d a b => Sys2Proof.Machine.execShr d a b s
  | .sra d a b => Sys2Proof.Machine.execSra d a b s
  | .fshl d a b => Sys2Proof.Machine.execFshl d a b s
  | .fshr d a b => Sys2Proof.Machine.execFshr d a b s
  | .min d a b => Sys2Proof.Machine.execMin d a b s
  | .max d a b => Sys2Proof.Machine.execMax d a b s
  | .minn d a b => Sys2Proof.Machine.execMinn d a b s
  | .maxn d a b => Sys2Proof.Machine.execMaxn d a b s
  | .clz d a => Sys2Proof.Machine.execClz d a s
  | .ctz d a => Sys2Proof.Machine.execCtz d a s
  | .popc d a => Sys2Proof.Machine.execPopc d a s
  | .mul d a b => Sys2Proof.Machine.execMul d a b s
  | .mulh d a b => Sys2Proof.Machine.execMulh d a b s
  | .mulhn d a b => Sys2Proof.Machine.execMulhn d a b s
  | .div d a b => Sys2Proof.Machine.execDiv d a b s
  | .divn d a b => Sys2Proof.Machine.execDivn d a b s
  | .rem d a b => Sys2Proof.Machine.execRem d a b s
  | .remn d a b => Sys2Proof.Machine.execRemn d a b s
  | .sel d a b p => Sys2Proof.Machine.execSel d a b p s
  | .addx d a b k => Sys2Proof.Machine.execAddx d a b k s
  | .addi d a i' => Sys2Proof.Machine.execAddi d a i' s
  | .andi d a i' => Sys2Proof.Machine.execAndi d a i' s
  | .ori d a i' => Sys2Proof.Machine.execOri d a i' s
  | .xori d a i' => Sys2Proof.Machine.execXori d a i' s
  | .shli d a n => Sys2Proof.Machine.execShli d a n s
  | .shri d a n => Sys2Proof.Machine.execShri d a n s
  | .srai d a n => Sys2Proof.Machine.execSrai d a n s
  | .cmpeq p a b => Sys2Proof.Machine.execCmpeq p a b s
  | .cmpne p a b => Sys2Proof.Machine.execCmpne p a b s
  | .cmplt p a b => Sys2Proof.Machine.execCmplt p a b s
  | .cmpltn p a b => Sys2Proof.Machine.execCmpltn p a b s
  | .cmple p a b => Sys2Proof.Machine.execCmple p a b s
  | .cmplen p a b => Sys2Proof.Machine.execCmplen p a b s
  | .cmpeqImm p a i' => Sys2Proof.Machine.execCmpeqImm p a i' s
  | .cmpneImm p a i' => Sys2Proof.Machine.execCmpneImm p a i' s
  | .cmpltImm p a i' => Sys2Proof.Machine.execCmpltImm p a i' s
  | .cmpltnImm p a i' => Sys2Proof.Machine.execCmpltnImm p a i' s
  | .cmpleImm p a i' => Sys2Proof.Machine.execCmpleImm p a i' s
  | .cmplenImm p a i' => Sys2Proof.Machine.execCmplenImm p a i' s
  | .limm d i' => Sys2Proof.Machine.execLimm d i' s
  | .limh d i' => Sys2Proof.Machine.execLimh d i' s
  | .pand p a b => Sys2Proof.Machine.execPand p a b s
  | .por p a b => Sys2Proof.Machine.execPor p a b s
  | .pxor p a b => Sys2Proof.Machine.execPxor p a b s
  | .pnot p a => Sys2Proof.Machine.execPnot p a s
  | .pset p v => Sys2Proof.Machine.execPset p v s
  | .exit s' q x o => Sys2Proof.Machine.execExit s' q x o s
  | .exitr s' q x a => Sys2Proof.Machine.execExitr s' q x a s
  | .call s' q x o => Sys2Proof.Machine.execCall s' q x o s
  | .ret s' q x a => Sys2Proof.Machine.execRet s' q x a s
  | .ld d a z o => Sys2Proof.Machine.execLd d a z o s
  | .ldSigned d a z o => Sys2Proof.Machine.execLdSigned d a z o s
  | .st s' a z o => Sys2Proof.Machine.execSt s' a z o s
  | .ldver d a b g z => Sys2Proof.Machine.execLdver d a b g z s
  | .stver s' a z o => Sys2Proof.Machine.execStver s' a z o s
  | .reclaim a b => Sys2Proof.Machine.execReclaim a b s
  | .aadd d a b z c r => Sys2Proof.Machine.execAadd d a b z c r s
  | .aadds d a b z c r => Sys2Proof.Machine.execAadds d a b z c r s
  | .amin d a b z c r => Sys2Proof.Machine.execAmin d a b z c r s
  | .amax d a b z c r => Sys2Proof.Machine.execAmax d a b z c r s
  | .aand d a b z c r => Sys2Proof.Machine.execAand d a b z c r s
  | .aor d a b z c r => Sys2Proof.Machine.execAor d a b z c r s
  | .axor d a b z c r => Sys2Proof.Machine.execAxor d a b z c r s
  | .axch d a b z c r => Sys2Proof.Machine.execAxch d a b z c r s
  | .acas d a b z c r => Sys2Proof.Machine.execAcas d a b z c r s
  | .afadd d a b c r => Sys2Proof.Machine.execAfadd d a b c r s
  | .fence o s' => Sys2Proof.Machine.execFence o s' s
  | .scopy d a b => Sys2Proof.Machine.execScopy d a b s
  | .sload d a b => Sys2Proof.Machine.execSload d a b s
  | .sstore d a b => Sys2Proof.Machine.execSstore d a b s
  | .sgath d a b => Sys2Proof.Machine.execSgath d a b s
  | .sscat d a b => Sys2Proof.Machine.execSscat d a b s
  | .sprobe d a b => Sys2Proof.Machine.execSprobe d a b s
  | .speer d a b => Sys2Proof.Machine.execSpeer d a b s
  | .scoll d a b => Sys2Proof.Machine.execScoll d a b s
  | .squery d a => Sys2Proof.Machine.execSquery d a s
  | .fload a b => Sys2Proof.Machine.execFload a b s
  | .fswitch => Sys2Proof.Machine.execFswitch s
  | .fshrink a => Sys2Proof.Machine.execFshrink a s
  | .fgrow => Sys2Proof.Machine.execFgrow s
  | .frun => Sys2Proof.Machine.execFrun s
  | .fstop => Sys2Proof.Machine.execFstop s
  | .fdrain d b => Sys2Proof.Machine.execFdrain d b s
  | .fstat d a => Sys2Proof.Machine.execFstat d a s
  | .finj a b => Sys2Proof.Machine.execFinj a b s
  | .fext d a => Sys2Proof.Machine.execFext d a s
  | .vgo a => Sys2Proof.Machine.execVgo a s
  | .vmap a b => Sys2Proof.Machine.execVmap a b s
  | .vstat d a => Sys2Proof.Machine.execVstat d a s
  | .vquiesce a => Sys2Proof.Machine.execVquiesce a s
  | .rndend a => Sys2Proof.Machine.execRndend a s
  | .rndwait d a b => Sys2Proof.Machine.execRndwait d a b s
  | .bararr a b => Sys2Proof.Machine.execBararr a b s
  | .barwait d a b => Sys2Proof.Machine.execBarwait d a b s
  | .barstat d a => Sys2Proof.Machine.execBarstat d a s
  | .notify a b => Sys2Proof.Machine.execNotify a b s
  | .flagwait d a b => Sys2Proof.Machine.execFlagwait d a b s
  | .csrr d k => Sys2Proof.Machine.execCsrr d k s
  | .csrw s' k => Sys2Proof.Machine.execCsrw s' k s
  | .csrs s' k => Sys2Proof.Machine.execCsrs s' k s
  | .csrc s' k => Sys2Proof.Machine.execCsrc s' k s
  | .caprd d a b => Sys2Proof.Machine.execCaprd d a b s
  | .bmaprd d => Sys2Proof.Machine.execBmaprd d s
  | .svc n k => Sys2Proof.Machine.execSvc n k s
  | .trap n k => Sys2Proof.Machine.execTrap n k s
  | .tret => Sys2Proof.Machine.execTret s
  | .brk n k => Sys2Proof.Machine.execBrk n k s
  | .yield => Sys2Proof.Machine.execYield s
  | .hint n k => Sys2Proof.Machine.execHint n k s
  | .nop => Sys2Proof.Machine.execNop s
  | .blockCommit r => Sys2Proof.Machine.execBlockCommit r s
  | .blockCacheLineFill r addr => Sys2Proof.Machine.execBlockCacheLineFill r addr s
  | .fadd d a b m => Sys2Proof.Machine.execFadd d a b m s
  | .fsub d a b m => Sys2Proof.Machine.execFsub d a b m s
  | .fmul d a b m => Sys2Proof.Machine.execFmul d a b m s
  | .fma d a b m => Sys2Proof.Machine.execFma d a b m s
  | .fmax d a b m => Sys2Proof.Machine.execFmax d a b m s
  | .fmin d a b m => Sys2Proof.Machine.execFmin d a b m s
  | .fabs d a m => Sys2Proof.Machine.execFabs d a m s
  | .fneg d a m => Sys2Proof.Machine.execFneg d a m s
  | .frcp d a m => Sys2Proof.Machine.execFrcp d a m s
  | .frsq d a m => Sys2Proof.Machine.execFrsq d a m s
  | .fexp2 d a m => Sys2Proof.Machine.execFexp2 d a m s
  | .flog2 d a m => Sys2Proof.Machine.execFlog2 d a m s
  | .fcmp c t md a b m => Sys2Proof.Machine.execFcmp c t md a b m s
  | .iadd d a b m => Sys2Proof.Machine.execIadd d a b m s
  | .isub d a b m => Sys2Proof.Machine.execIsub d a b m s
  | .iadds n d a b m => Sys2Proof.Machine.execIadds n d a b m s
  | .isubs n d a b m => Sys2Proof.Machine.execIsubs n d a b m s
  | .imul d a b m => Sys2Proof.Machine.execImul d a b m s
  | .imulh n d a b m => Sys2Proof.Machine.execImulh n d a b m s
  | .imin n d a b m => Sys2Proof.Machine.execImin n d a b m s
  | .imax n d a b m => Sys2Proof.Machine.execImax n d a b m s
  | .iabs d a m => Sys2Proof.Machine.execIabs d a m s
  | .eAnd d a b m => Sys2Proof.Machine.execEAnd d a b m s
  | .eOr d a b m => Sys2Proof.Machine.execEOr d a b m s
  | .eXor d a b m => Sys2Proof.Machine.execEXor d a b m s
  | .eAndn d a b m => Sys2Proof.Machine.execEAndn d a b m s
  | .eShl d a b m => Sys2Proof.Machine.execEShl d a b m s
  | .eShr d a b m => Sys2Proof.Machine.execEShr d a b m s
  | .eSra d a b m => Sys2Proof.Machine.execESra d a b m s
  | .eFshr d a b n m => Sys2Proof.Machine.execEFshr d a b n m s
  | .eFshl d a b n m => Sys2Proof.Machine.execEFshl d a b n m s
  | .eClz d a m => Sys2Proof.Machine.execEClz d a m s
  | .ePopc d a m => Sys2Proof.Machine.execEPopc d a m s
  | .bext d a f m => Sys2Proof.Machine.execBext d a f m s
  | .bdep d a f m => Sys2Proof.Machine.execBdep d a f m s
  | .cvt sf df sat rm d a m => Sys2Proof.Machine.execCvt sf df sat rm d a m s
  | .qnt df sreg ws rm d a b m => Sys2Proof.Machine.execQnt df sreg ws rm d a b m s
  | .dqnt sf sreg part d a m => Sys2Proof.Machine.execDqnt sf sreg part d a m s
  | .outl d a m => Sys2Proof.Machine.execOutl d a m s
  | .gmax n t d a m => Sys2Proof.Machine.execGmax n t d a m s
  | .gmin n t d a m => Sys2Proof.Machine.execGmin n t d a m s
  | .gsum n t sat d a m => Sys2Proof.Machine.execGsum n t sat d a m s
  | .gscan n t sat d a m => Sys2Proof.Machine.execGscan n t sat d a m s
  | .shuf k d a b m => Sys2Proof.Machine.execShuf k d a b m s
  | .splat d src m => Sys2Proof.Machine.execSplat d src m s
  | .eSel ms d a b m => Sys2Proof.Machine.execESel ms d a b m s
  | .steer d f a b => Sys2Proof.Machine.execSteer d f a b s
  | .mergeT d a b => Sys2Proof.Machine.execMergeT d a b s
  | .mergeC d a b c => Sys2Proof.Machine.execMergeC d a b c s
  | .join pick d a b => Sys2Proof.Machine.execJoin pick d a b s
  | .fork d y a => Sys2Proof.Machine.execFork d y a s
  | .gate sense d a b => Sys2Proof.Machine.execGate sense d a b s
  | .mark d a b => Sys2Proof.Machine.execMark d a b s
  | .taggen d m => Sys2Proof.Machine.execTaggen d m s
  | .cnt mc d a b m => Sys2Proof.Machine.execCnt mc d a b m s
  | .ctltok d a => Sys2Proof.Machine.execCtltok d a s
  | .mov d a m => Sys2Proof.Machine.execMov d a m s
  | .agrw g win a => Sys2Proof.Machine.execAgrw g win a s
  | .agpad g a => Sys2Proof.Machine.execAgpad g a s
  | .agstep g n => Sys2Proof.Machine.execAgstep g n s
  | .agen d g => Sys2Proof.Machine.execAgen d g s
  | .agwin d g => Sys2Proof.Machine.execAgwin d g s
  | .mld s' a delta => Sys2Proof.Machine.execMld s' a delta s
  | .mst s' a b m => Sys2Proof.Machine.execMst s' a b m s
  | .mstm s' a b m => Sys2Proof.Machine.execMstm s' a b m s
  | .mgath s' z bad sgn a b m => Sys2Proof.Machine.execMgath s' z bad sgn a b m s
  | .mscat s' z bad sgn d a b m => Sys2Proof.Machine.execMscat s' z bad sgn d a b m s
  | .mord c emit wait => Sys2Proof.Machine.execMord c emit wait s
  | .mprobe z sgn d a b m => Sys2Proof.Machine.execMprobe z sgn d a b m s
  | .lld g off d a m => Sys2Proof.Machine.execLld g off d a m s
  | .lst off a b m => Sys2Proof.Machine.execLst off a b m s
  | .lstm off a b m => Sys2Proof.Machine.execLstm off a b m s
  | .rmw op dbl ret a b => Sys2Proof.Machine.execRmw op dbl ret a b s
  | .ownerUpdate r b => Sys2Proof.Machine.execOwnerUpdate r b s
  | .csacc k d a b => Sys2Proof.Machine.execCsacc k d a b s
  | .red op t d a b m => Sys2Proof.Machine.execRed op t d a b m s
  | .csnorm int rm d a m => Sys2Proof.Machine.execCsnorm int rm d a m s
  | .sphdr tags d a => Sys2Proof.Machine.execSphdr tags d a s
  | .sptree tags d a => Sys2Proof.Machine.execSptree tags d a s
  | .vote d a b c => Sys2Proof.Machine.execVote d a b c s
  | .rtag e fwd a => Sys2Proof.Machine.execRtag e fwd a s
  | .resultWriteback r b e => Sys2Proof.Machine.execResultWriteback r b e s
  | .vnop slot => Sys2Proof.Machine.execVnop slot s
  | .vend slot => Sys2Proof.Machine.execVend slot s
  | .vlda slot s' g adv chunk => Sys2Proof.Machine.execVlda slot s' g adv chunk s
  | .vldb slot s' g balt adv chunk => Sys2Proof.Machine.execVldb slot s' g balt adv chunk s
  | .vmac slot s' ga gb balt adv chunk => Sys2Proof.Machine.execVmac slot s' ga gb balt adv chunk s
  | .vzero slot s' => Sys2Proof.Machine.execVzero slot s' s
  | .vscale slot s' chunk opB => Sys2Proof.Machine.execVscale slot s' chunk opB s
  | .vspmeta slot s' g delta adv chunk => Sys2Proof.Machine.execVspmeta slot s' g delta adv chunk s
  | .vdrain slot s' bsel clr push pos => Sys2Proof.Machine.execVdrain slot s' bsel clr push pos s
  | .vchain slot s' ts dir => Sys2Proof.Machine.execVchain slot s' ts dir s
  | .vwait slot ch => Sys2Proof.Machine.execVwait slot ch s
  | .firingMerge r b s' => Sys2Proof.Machine.execFiringMerge r b s' s
  | .drainTokenLanding r b s' => Sys2Proof.Machine.execDrainTokenLanding r b s' s
  | .elasticTokenArrival g c => Sys2Proof.Machine.execElasticTokenArrival g c s
  | .creditReturn g c => Sys2Proof.Machine.execCreditReturn g c s
  | .queueMemoryTransfer g c => Sys2Proof.Machine.execQueueMemoryTransfer g c s
  | .controlTokenArrival r line => Sys2Proof.Machine.execControlTokenArrival r line s
  | .memoryReply r b s' => Sys2Proof.Machine.execMemoryReply r b s' s
  | .pageWalk r b s' => Sys2Proof.Machine.execPageWalk r b s' s
  | .parkedAccessAdmit die => Sys2Proof.Machine.execParkedAccessAdmit die s
  | .parkedRetry die idx => Sys2Proof.Machine.execParkedRetry die idx s
  | .freezeBudgetExpiry r => Sys2Proof.Machine.execFreezeBudgetExpiry r s
  | .replayStart g => Sys2Proof.Machine.execReplayStart g s
  | .roundCommit g => Sys2Proof.Machine.execRoundCommit g s
  | .regionRelease r => Sys2Proof.Machine.execRegionRelease r s
  | .barrierArrival job addr r status => Sys2Proof.Machine.execBarrierArrival job addr r status s
  | .switch r => Sys2Proof.Machine.execSwitch r s
  | .passSwitch r => Sys2Proof.Machine.execPassSwitch r s
  | .fillComplete r => Sys2Proof.Machine.execFillComplete r s
  | .trapEntry r => Sys2Proof.Machine.execTrapEntry r s
  | .trapAtS r => Sys2Proof.Machine.execTrapAtS r s
  | .trapResume r => Sys2Proof.Machine.execTrapResume r s
  | .trapForward r => Sys2Proof.Machine.execTrapForward r s
  | .trapEnd r => Sys2Proof.Machine.execTrapEnd r s
  | .trapRelaunch r => Sys2Proof.Machine.execTrapRelaunch r s
  | .waitTimeout r => Sys2Proof.Machine.execWaitTimeout r s
  | .ldverVersionWaitExpiry r => Sys2Proof.Machine.execLdverVersionWaitExpiry r s
  | .notifyArrival n => Sys2Proof.Machine.execNotifyArrival n s
  | .launchPacket q => Sys2Proof.Machine.execLaunchPacket q s
  | .cancelPacket q => Sys2Proof.Machine.execCancelPacket q s
  | .queryPacket q => Sys2Proof.Machine.execQueryPacket q s
  | .reportMessageReceived m => Sys2Proof.Machine.execReportMessageReceived m s
  | .residencyReport => Sys2Proof.Machine.execResidencyReport s
  | .placement job => Sys2Proof.Machine.execPlacement job s
  | .gangStart job => Sys2Proof.Machine.execGangStart job s
  | .gangLaunchTimeout job => Sys2Proof.Machine.execGangLaunchTimeout job s
  | .priorityAging job => Sys2Proof.Machine.execPriorityAging job s
  | .shareWindowExpiry job => Sys2Proof.Machine.execShareWindowExpiry job s
  | .preemption r => Sys2Proof.Machine.execPreemption r s
  | .preemptionRwaitExpiry r => Sys2Proof.Machine.execPreemptionRwaitExpiry r s
  | .contextSwap r => Sys2Proof.Machine.execContextSwap r s
  | .resume r => Sys2Proof.Machine.execResume r s
  | .relaunch r => Sys2Proof.Machine.execRelaunch r s
  | .capacityReduction die cls => Sys2Proof.Machine.execCapacityReduction die cls s
  | .shrink r => Sys2Proof.Machine.execShrink r s
  | .grow r => Sys2Proof.Machine.execGrow r s
  | .gangMemberFailure job => Sys2Proof.Machine.execGangMemberFailure job s
  | .gangRelaunchTimeout job => Sys2Proof.Machine.execGangRelaunchTimeout job s
  | .heartbeat => Sys2Proof.Machine.execHeartbeat s
  | .missedHeartbeat => Sys2Proof.Machine.execMissedHeartbeat s
  | .takeover => Sys2Proof.Machine.execTakeover s
  | .lockstepMismatch die pair => Sys2Proof.Machine.execLockstepMismatch die pair s
  | .standbyReturn die => Sys2Proof.Machine.execStandbyReturn die s
  | .keyInstallation q key lastSeq => Sys2Proof.Machine.execKeyInstallation q key lastSeq s
  | .translationInvalidation job => Sys2Proof.Machine.execTranslationInvalidation job s
  | .delegationChange job code level => Sys2Proof.Machine.execDelegationChange job code level s
  | .supervisorStateWrite w => Sys2Proof.Machine.execSupervisorStateWrite w s
  | .retirementCommand die u => Sys2Proof.Machine.execRetirementCommand die u s
  | .ceWindowStart die => Sys2Proof.Machine.execCeWindowStart die s
  | .correctableError die u => Sys2Proof.Machine.execCorrectableError die u s
  | .uncorrectableError site => Sys2Proof.Machine.execUncorrectableError site s
  | .evacuationLineCopy die u => Sys2Proof.Machine.execEvacuationLineCopy die u s
  | .evacuationComplete die u => Sys2Proof.Machine.execEvacuationComplete die u s
  | .oldBankRetirement die u => Sys2Proof.Machine.execOldBankRetirement die u s
  | .laneRemap die segment => Sys2Proof.Machine.execLaneRemap die segment s
  | .scrub => Sys2Proof.Machine.execScrub s
  | .linkFailure die link => Sys2Proof.Machine.execLinkFailure die link s
  | .migrationExamination die => Sys2Proof.Machine.execMigrationExamination die s
  | .migration job va frame => Sys2Proof.Machine.execMigration job va frame s
  | .peerTransferArrival x => Sys2Proof.Machine.execPeerTransferArrival x s
  | .flagAdd job addr => Sys2Proof.Machine.execFlagAdd job addr s
  | .engineCommandStart die idx => Sys2Proof.Machine.execEngineCommandStart die idx s
  | .engineCommandComplete die idx reply => Sys2Proof.Machine.execEngineCommandComplete die idx reply s
  | .coldStart => Sys2Proof.Machine.execColdStart s
  | .powerLoss => Sys2Proof.Machine.execPowerLoss s
  | .readResidency => Sys2Proof.Machine.execReadResidency s
  | .readCapacity => Sys2Proof.Machine.execReadCapacity s
  | .readPower => Sys2Proof.Machine.execReadPower s
  | .attest nonce => Sys2Proof.Machine.execAttest nonce s
  | .installKey q key lastSeq => Sys2Proof.Machine.execInstallKey q key lastSeq s
  | .coldReset => Sys2Proof.Machine.execColdReset s
  | .writeChipNumber n => Sys2Proof.Machine.execWriteChipNumber n s
  | .debugUnlock token => Sys2Proof.Machine.execDebugUnlock token s
  | .debugHalt r => Sys2Proof.Machine.execDebugHalt r s
  | .debugStep r => Sys2Proof.Machine.execDebugStep r s
  | .debugReadRegisters r => Sys2Proof.Machine.execDebugReadRegisters r s
  | .debugResume r => Sys2Proof.Machine.execDebugResume r s
  | .powerSample microwatts temps => Sys2Proof.Machine.execPowerSample microwatts temps s
  | .shrinkRwaitExpiry r => Sys2Proof.Machine.execShrinkRwaitExpiry r s
  | .memoryRequestPerformed r b s' => Sys2Proof.Machine.execMemoryRequestPerformed r b s' s
  | .collectiveMessageArrival m => Sys2Proof.Machine.execCollectiveMessageArrival m s
  | .gangMemberReportArrival job gindex m => Sys2Proof.Machine.execGangMemberReportArrival job gindex m s

end Sys2Proof.Machine
end

