-- ==== Sys2Proof/Machine/Events.lean ====
section
/-! DEFINITION. The device's steps as the state queues them: each calls the meaning of the instruction of its name. -/

namespace Sys2Proof.Machine

/-- What a queued step does: the meaning of the constructor of Instr with the same name. -/
def runEvent (e : Event) (s : State) : Answer :=
  match e with
  | .blockCommit r => execBlockCommit r s
  | .blockCacheLineFill r addr => execBlockCacheLineFill r addr s
  | .ownerUpdate r b => execOwnerUpdate r b s
  | .resultWriteback r b e' => execResultWriteback r b e' s
  | .firingMerge r b s' => execFiringMerge r b s' s
  | .drainTokenLanding r b s' => execDrainTokenLanding r b s' s
  | .elasticTokenArrival g c => execElasticTokenArrival g c s
  | .creditReturn g c => execCreditReturn g c s
  | .queueMemoryTransfer g c => execQueueMemoryTransfer g c s
  | .controlTokenArrival r line => execControlTokenArrival r line s
  | .memoryReply r b s' => execMemoryReply r b s' s
  | .pageWalk r b s' => execPageWalk r b s' s
  | .parkedAccessAdmit die => execParkedAccessAdmit die s
  | .parkedRetry die idx => execParkedRetry die idx s
  | .freezeBudgetExpiry r => execFreezeBudgetExpiry r s
  | .replayStart g => execReplayStart g s
  | .roundCommit g => execRoundCommit g s
  | .regionRelease r => execRegionRelease r s
  | .barrierArrival job addr r status => execBarrierArrival job addr r status s
  | .switch r => execSwitch r s
  | .passSwitch r => execPassSwitch r s
  | .fillComplete r => execFillComplete r s
  | .trapEntry r => execTrapEntry r s
  | .trapAtS r => execTrapAtS r s
  | .trapResume r => execTrapResume r s
  | .trapForward r => execTrapForward r s
  | .trapEnd r => execTrapEnd r s
  | .trapRelaunch r => execTrapRelaunch r s
  | .waitTimeout r => execWaitTimeout r s
  | .ldverVersionWaitExpiry r => execLdverVersionWaitExpiry r s
  | .notifyArrival n => execNotifyArrival n s
  | .launchPacket q => execLaunchPacket q s
  | .cancelPacket q => execCancelPacket q s
  | .queryPacket q => execQueryPacket q s
  | .reportMessageReceived m => execReportMessageReceived m s
  | .residencyReport => execResidencyReport s
  | .placement job => execPlacement job s
  | .gangStart job => execGangStart job s
  | .gangLaunchTimeout job => execGangLaunchTimeout job s
  | .priorityAging job => execPriorityAging job s
  | .shareWindowExpiry job => execShareWindowExpiry job s
  | .preemption r => execPreemption r s
  | .preemptionRwaitExpiry r => execPreemptionRwaitExpiry r s
  | .contextSwap r => execContextSwap r s
  | .resume r => execResume r s
  | .relaunch r => execRelaunch r s
  | .capacityReduction die cls => execCapacityReduction die cls s
  | .shrink r => execShrink r s
  | .grow r => execGrow r s
  | .gangMemberFailure job => execGangMemberFailure job s
  | .gangRelaunchTimeout job => execGangRelaunchTimeout job s
  | .heartbeat => execHeartbeat s
  | .missedHeartbeat => execMissedHeartbeat s
  | .takeover => execTakeover s
  | .lockstepMismatch die pair => execLockstepMismatch die pair s
  | .standbyReturn die => execStandbyReturn die s
  | .keyInstallation q key lastSeq => execKeyInstallation q key lastSeq s
  | .translationInvalidation job => execTranslationInvalidation job s
  | .delegationChange job code level => execDelegationChange job code level s
  | .supervisorStateWrite w => execSupervisorStateWrite w s
  | .retirementCommand die u => execRetirementCommand die u s
  | .ceWindowStart die => execCeWindowStart die s
  | .correctableError die u => execCorrectableError die u s
  | .uncorrectableError site => execUncorrectableError site s
  | .evacuationLineCopy die u => execEvacuationLineCopy die u s
  | .evacuationComplete die u => execEvacuationComplete die u s
  | .oldBankRetirement die u => execOldBankRetirement die u s
  | .laneRemap die segment => execLaneRemap die segment s
  | .scrub => execScrub s
  | .linkFailure die link => execLinkFailure die link s
  | .migrationExamination die => execMigrationExamination die s
  | .migration job va frame => execMigration job va frame s
  | .peerTransferArrival x => execPeerTransferArrival x s
  | .flagAdd job addr => execFlagAdd job addr s
  | .engineCommandStart die idx => execEngineCommandStart die idx s
  | .engineCommandComplete die idx reply => execEngineCommandComplete die idx reply s
  | .coldStart => execColdStart s
  | .powerLoss => execPowerLoss s
  | .readResidency => execReadResidency s
  | .readCapacity => execReadCapacity s
  | .readPower => execReadPower s
  | .attest nonce => execAttest nonce s
  | .installKey q key lastSeq => execInstallKey q key lastSeq s
  | .coldReset => execColdReset s
  | .writeChipNumber n => execWriteChipNumber n s
  | .debugUnlock token => execDebugUnlock token s
  | .debugHalt r => execDebugHalt r s
  | .debugStep r => execDebugStep r s
  | .debugReadRegisters r => execDebugReadRegisters r s
  | .debugResume r => execDebugResume r s
  | .powerSample microwatts temps => execPowerSample microwatts temps s
  | .shrinkRwaitExpiry r => execShrinkRwaitExpiry r s
  | .memoryRequestPerformed r b s' => execMemoryRequestPerformed r b s' s
  | .collectiveMessageArrival m => execCollectiveMessageArrival m s
  | .gangMemberReportArrival job gindex m => execGangMemberReportArrival job gindex m s

end Sys2Proof.Machine
end

