-- ==== Sys2Proof/Machine/Look.lean ====
section
/-! DEFINITION. What Derrick and the dies do by themselves as time passes: whom Derrick serves next, and the steps that are
due in a cycle (R31, R58, R66, R70, R71, R88, R91, R224, R231, R232, R315, R365; log entry 1). -/

namespace Sys2Proof.Machine

/-! ### Derrick's turn (R31, R63, R66, R83, R340) -/

/-- A graph that was to hold for a pre-emption which nobody wants any more goes on. -/
def State.dropBoundary (s : State) (g : Nat) : State :=
  let x := s.graph g
  let still (r : Nat) : Bool :=
    let y := s.reg r
    y.wantOff.isSome || y.life == .preempted || y.life == .waiting || y.life == .filling || y.life == .starting
  if x.boundary.isNone || x.regions.any still then s
  else
    let s := s.updGraph g (fun x => { x with boundary := none })
    x.regions.foldl (fun s r => s.updReg r (fun y => if y.shape.isSome then y else { y with preq := none })) s

/-- What Derrick does at its turn without a step of its own. -/
def State.housekeep (s : State) : State :=
  let s := s.graphs.keys.foldl (fun s g => if s.failHandled g then s.failGraph g 0x8E else s) s
  let s := s.regions.keys.foldl (fun s r => s.serveLaunch r) s
  let s := s.graphs.keys.foldl (fun s g => s.dropBoundary g) s
  s.recordEnds

/-- A launch that Derrick has to serve: it waits for benches, or it has nothing to place and is not yet resident. -/
def State.toServe (s : State) (j : Nat × Job) : Bool := s.jobWaits j.1 || j.2.state == 1 && j.2.since != 0

/-- Everyone who waits for benches: effective priority, beginning of the wait, and the step that serves it. -/
def State.waiters (s : State) : List (Nat × Nat × Event) :=
  (s.jobs.filter s.toServe).map (fun j =>
      (s.waitPrio (j.2.node j.2.rcb).eff.prio j.2.since, j.2.since, .placement j.1))
    ++ s.regions.filterMap (fun x =>
      let p := s.waitPrio (s.rnode x.1).eff.prio x.2.since
      if !s.leads x.1 then none
      else if x.2.life == .preempted && decide (x.2.swapUntil ≤ s.cycle) then some (p, x.2.since, .resume x.1)
      else if x.2.life == .waiting then some (p, x.2.since, .relaunch x.1)
      else none)

/-- Waiters of higher effective priority first, and of equal priority the one that has waited longest (R31). -/
def State.inTurn (s : State) : List Event :=
  (s.waiters.mergeSort (fun a b => decide (b.1 < a.1) || (a.1 == b.1 && decide (a.2.1 ≤ b.2.1)))).map (fun w => w.2.2)

/-- Launches with a dependence that can never hold (R66). -/
def State.hopeless (s : State) : List Event :=
  (s.jobs.filter (fun j => j.2.state == 1 && j.2.deps.any (fun d => s.depState j.2.queue d == some false))).map (fun j =>
    .placement j.1)

/-- Regions that may grow back (R88). -/
def State.growers (s : State) : List Event :=
  (s.regions.filter (fun x => x.2.life == .running && x.2.shape.isNone && (x.2.shrunk || x.2.shreq.any (fun q => q.1 == 8)))).map
    (fun x => .grow x.1)

/-- Derrick's turn, when its time has come: the state after its housekeeping, and the steps it takes. -/
def State.derrickTurn (s : State) : State × List Event :=
  if s.sup.activeDie.isSome && decide (s.sup.look ≤ s.cycle) then
    let s := s.housekeep
    let (s, t) := s.ticket
    let s := s.updSup (fun p => { p with look := s.cycle + 1 + Config.derrickLatency t })
    (s, s.hopeless ++ s.inTurn ++ s.growers)
  else (s, [])

/-! ### Steps that their condition brings (R87, R231, R232, R315, R358) -/

/-- Pre-emptions, shrinks and grows at their boundary or at the end of RWAIT. -/
def State.boundaryJobs (s : State) : List Event :=
  s.regions.flatMap (fun x =>
    (match x.2.wantOff with
      | some t =>
        if s.mayPreempt x.1 then [.preemption x.1]
        else if t + s.rwait x.1 ≤ s.cycle then [.preemptionRwaitExpiry x.1] else []
      | none => [])
    ++ (match x.2.shape, x.2.shreq with
      | some (k, t), _ =>
        if s.shapeReady x.1 then [if k = 8 then .grow x.1 else .shrink x.1]
        else if k ≠ 8 ∧ t + s.rwait x.1 ≤ s.cycle then [.shrinkRwaitExpiry x.1] else []
      | none, some (k, _) => if k = 8 then [] else [.shrink x.1]
      | none, none => []))

/-- Engine commands that start or act, and evacuations that copy. -/
def State.engineJobs (s : State) : List Event :=
  s.dies.flatMap (fun d =>
    (d.2.engines.filter (fun e => decide (e.2.due ≤ s.cycle) && s.mayStart d.1 e.1)).map (fun e => .engineCommandStart d.1 e.1)
    ++ (d.2.engines.filter (fun e => e.2.result.isSome || (e.2.started && decide (e.2.due ≤ s.cycle)))).map (fun e =>
      .engineCommandComplete d.1 e.1 none)
    ++ ((d.2.evacs.take (enginesPerDie - d.2.running)).filter (fun k =>
        (d.2.bank k).lockEnd == 0 || decide ((d.2.bank k).lockEnd ≤ s.cycle + 1))).map (fun k => .evacuationLineCopy d.1 (keyUnit k))
    ++ (d.2.banks.filter (fun e => s.boundariesPassed e.2)).map (fun e => .oldBankRetirement d.1 (keyUnit e.1)))

/-- A deadline that is set and has come. -/
def State.hasPassed (s : State) (t : Option Nat) : Bool := t.any (fun t => decide (t ≤ s.time))

/-- Gangs whose members are all placed, and their deadlines (R27, R363). -/
def State.gangJobs (s : State) : List Event :=
  (s.jobs.filter (fun j => !j.2.gangs.isEmpty && !j.2.final)).flatMap (fun j =>
    let starts : Bool := j.2.gangs.any (fun m => j.2.seatReady m.1 && (m.2.deadline.isSome || m.2.restart.isSome))
    let late : Bool := j.2.gangs.any (fun m => s.hasPassed m.2.deadline)
    let lost : Bool := j.2.gangs.any (fun m => s.hasPassed m.2.restart || s.hasPassed (m.2.lost.map Prod.snd))
    (if starts then [Event.gangStart j.1] else [])
    ++ (if late then [Event.gangLaunchTimeout j.1] else [])
    ++ (if lost then [Event.gangRelaunchTimeout j.1] else []))

/-! ### Steps of the package timer -/

/-- A whole number of periods ends in the cycle that began at package time `old`. -/
def crosses (period old new : Nat) : Bool := old / period != new / period

/-- Steps by the package timer: `old` is package time at the beginning of the cycle before. -/
def State.clockJobs (s : State) (old : Nat) : List Event :=
  let p := s.sup
  let ms := crosses msUnits old s.time
  (if ms && p.activeDie.isSome then [.heartbeat] else [])
  ++ (if p.takeoverAt.isNone && s.standby.isSome && decide (p.lastBeat + 5 * msUnits ≤ s.time) then [.missedHeartbeat] else [])
  ++ (if p.takeoverAt.any (fun t => decide (t ≤ s.time)) then [.takeover] else [])
  ++ (if s.residencyDue then [.residencyReport] else [])
  ++ (if ms then .scrub :: (upTo 4).map .ceWindowStart else [])
  ++ (if crosses (16 * msUnits) old s.time then (upTo 4).map .migrationExamination else [])
  ++ (s.jobs.filter (fun j => j.2.state == 1 && j.2.since != 0
      && crosses msUnits (old - j.2.since) (s.time - j.2.since))).map (fun j => .priorityAging j.1)
  ++ (s.regions.filter (fun x => x.2.life.off
      && crosses msUnits (old - x.2.since) (s.time - x.2.since))).map (fun x => .priorityAging x.2.job)
  ++ (s.regions.filter (fun x => x.2.life == .running && (s.rnode x.1).eff.prio == 15
      && crosses (max 1 (s.rnode x.1).eff.share * msUnits) (old - x.2.since) (s.time - x.2.since))).map (fun x =>
        .shareWindowExpiry x.2.job)

end Sys2Proof.Machine
end

