-- ==== Sys2Proof/Machine/Sched.lean ====
section
/-! DEFINITION. A fabric cycle of the package as a list of jobs, and what each job does (log entry 1). -/

namespace Sys2Proof.Machine

/-! ### The jobs of a cycle -/

/-- Parked accesses, page walks and credits: what acts before the fabrics. -/
def State.earlyJobs (s : State) : List Event :=
  s.dies.flatMap (fun d =>
    (d.2.parked.filter (fun p => decide (p.2.retryAt ≤ s.cycle))).map (fun p => .parkedRetry d.1 p.1)
    ++ (if d.2.parkWait.isEmpty || (d.2.freeParked).isNone then [] else [.parkedAccessAdmit d.1]))
  ++ s.regions.flatMap (fun r => r.2.benches.flatMap (fun b =>
      ((upTo 19).filter (fun t => b.2.port.reqs.any (fun q =>
        q.stream == t && b.2.port.walking s.cycle q))).map (fun t => .pageWalk r.1 b.1 t)))
  ++ s.graphs.flatMap (fun g => (g.2.chans.filter (fun c => c.2.back.any (fun d => decide (d ≤ s.cycle)))).map (fun c =>
      .creditReturn g.1 c.1))

/-- Tokens, requests and replies that arrive in a cycle. -/
def State.arrivalJobs (s : State) : List Event :=
  s.graphs.flatMap (fun g => g.2.chans.flatMap (fun c =>
    (if c.2.flight.any (fun t => decide (t.1 ≤ s.cycle)) then [.elasticTokenArrival g.1 c.1] else [])
    ++ (if c.2.qmem.isEmpty then [] else [.queueMemoryTransfer g.1 c.1])))
  ++ s.regions.flatMap (fun r =>
    ((upTo 8).filter (fun l => r.2.fab.lines.any (fun t => t.1 == l && decide (t.2.1 ≤ r.2.fab.ucycle + 1))
        || (r.2.seq.ctlq.getD l []).any (fun t => decide (t.1 ≤ s.cycle)))).map (fun l => .controlTokenArrival r.1 l)
    ++ r.2.benches.flatMap (fun b =>
      (((b.2.port.reqs.map Request.stream).eraseDups).flatMap (fun t =>
        [.memoryRequestPerformed r.1 b.1 t, .memoryReply r.1 b.1 t]))))

/-- A region is on its benches. -/
def Life.resident : Life → Bool
  | .running | .starting | .filling => true
  | _ => false

/-- An arrival or flag add that waits for its page may be made now (R228, R305). -/
def State.stalledReady (s : State) : Event → Bool
  | .barrierArrival job addr _ _ | .flagAdd job addr =>
    match s.seqCheck job 2 (some false) (addr % 2 ^ 64) 8 with
    | .ok parts => !parts.any (fun p => s.vatLocked p.leaf.pa)
    | .fail 4 _ => false
    | .fail _ _ => true
  | _ => true

/-- Planes, holds and arrivals that wait: what acts after the sequencers. -/
def State.lateJobs (s : State) : List Event :=
  s.regions.flatMap (fun r =>
    (if r.2.benches.any (fun b => b.2.shadow.state == 1 && decide (b.2.shadow.doneAt ≤ s.cycle))
          || (r.2.life == .filling && decide (r.2.swapUntil ≤ s.cycle)) then [.fillComplete r.1] else [])
    ++ (match r.2.switching with
      | some w => if w.done then [] else if w.pass then [.passSwitch r.1] else [.switch r.1]
      | none => []))
  ++ (s.graphs.filter (fun g => g.2.held)).map (fun g => .replayStart g.1)
  ++ s.stalled.filter s.stalledReady
  ++ s.boundaryJobs ++ s.engineJobs ++ s.gangJobs

/-- Units of package time in a cycle at the clock steps of 850, 700 and 550 MHz (R5, R16). -/
def cycleUnits (clk : Nat) : Nat :=
  match clk with
  | 0 => 154
  | 1 => 187
  | _ => 238

/-- The commit of a round: made ahead of all that may void or take off in its cycle (R17). -/
def Work.isCommit : Work → Bool
  | .ev (.roundCommit _) => true
  | _ => false

/-- The next fabric cycle begins: its jobs in order. -/
def State.tick (s : State) : State :=
  let old := s.time
  let s := { s with cycle := s.cycle + 1, time := s.time + cycleUnits s.clk }
  let (s, turn) := s.derrickTurn
  let due (l : List (Nat × Event)) : List Work := (l.filter (fun t => decide (t.1 ≤ s.cycle))).map (fun t => .ev t.2)
  let keep (l : List (Nat × Event)) : List (Nat × Event) := l.filter (fun t => decide (s.cycle < t.1))
  { s with
    timers := keep s.timers
    inputs := keep s.inputs
    work := s.earlyJobs.map .ev
      ++ (s.regions.filter (fun r => r.2.life == .running)).map (fun r => .fabric r.1)
      ++ s.arrivalJobs.map .ev
      ++ (s.regions.filter (fun r => r.2.life.resident)).map (fun r => .seq r.1)
      ++ (due s.timers).filter Work.isCommit
      ++ (s.lateJobs ++ turn ++ s.clockJobs old).map .ev ++ (due s.timers).filter (fun w => !w.isCommit) ++ due s.inputs
      ++ s.graphs.map (fun g => .graphEnd g.1) }

/-! ### What a job does -/

/-- A sequencer's turn taken. -/
def SeqTurn.run : SeqTurn → Answer
  | .done s => .next s
  | .word s i => exec i s
  | .ev s e => runEvent e s

/-- One job of the present cycle. -/
def State.runWork (s : State) (w : Work) : Answer :=
  match w with
  | .seq r => (s.seqTurn r).run
  | .word r k limit => (s.wordTurn r k limit).run
  | .fabric r => .next (s.fabricCycle r)
  | .slot f i => exec i { s with focus := f }
  | .apply r => .next (s.applyIssues r)
  | .sheets r => .next (s.sheetsCycle r)
  | .ev e => runEvent e s
  | .graphEnd g => .next (s.endCycle g)

/-- A package without power: a cold start that the outside has in store (R11). -/
def State.unpowered (s : State) : Answer :=
  match s.inputs.dropWhile (fun i => i.2 != .coldStart) with
  | _ :: rest => runEvent .coldStart { s with inputs := rest }
  | [] => .fault .noPower

/-- The next job, or the next cycle when the present one has none left. -/
def State.stepWork (s : State) : Answer :=
  if !s.powered then s.unpowered
  else
    match s.work with
    | [] => .next s.tick
    | w :: ws => ({ s with work := ws } : State).runWork w

/-! ### Placing one word (the host's question) -/

/-- A region of one bench at bench 0 of die 0, with one element's worth of state. -/
def Region.probe : Region :=
  { Region.init with
    benches := [(0, { Bench.init with elems := (upTo 16).map (fun e => (e, .init)) })] }

/-- A block that holds one S word behind a header, with that word next to fire. -/
def Block.probe (words : List Word) (idx : Nat) : Block :=
  { Block.entry .init with words := words, idx := idx }

/-- The state with one table word as the next to run: an S word next in a block of region 0, an element operation or a
schedule word next in the list of jobs. -/
def State.placeWord (s : State) (nbits w : Nat) : State :=
  let put (x : Region) (k : Work) : State := { s with regions := s.regions.put 0 x, work := k :: s.work }
  if nbits ≤ 32 then
    let word := BitVec.ofNat 32 w
    let hdr : Bool := w / 2 ^ 26 % 64 == 0
    let blk := if hdr then Block.probe [word] 0 else Block.probe [0x00080000#32, word] 1
    put { Region.probe with seq := { Seq.init with block := some blk } } (.word 0 blk.idx 1)
  else
    match decodeTableWord nbits w with
    | some i => put .probe (.slot ⟨0, 0, 0, 0, 0, 0⟩ i)
    | none => s

end Sys2Proof.Machine
end

