-- ==== Sys2Proof/Machine/Step.lean ====
section
/-! DEFINITION. The step of the machine. -/

namespace Sys2Proof.Machine

/-- One step: the next job of the present cycle, or the beginning of the next cycle (log entry 1). -/
def step (s : State) : Host.Outcome State Fault Refusal := s.stepWork

/-- The state with one table word where step takes its next instruction from. -/
def State.withFetchWord (s : State) (nbits w : Nat) : State := s.placeWord nbits w

end Sys2Proof.Machine
end

