-- ==== Sys2Proof/Safety.lean ====
section
/-! DEFINITION. What counts as a safe run: no step faults and none is refused. -/

namespace Sys2Proof.Machine

/-- A step that answers a next state. -/
def State.steps (s : State) : Bool :=
  match step s with
  | .next _ => true
  | _ => false

/-- `n` steps from a state all answer next states. -/
def State.safeFor (s : State) : Nat → Bool
  | 0 => true
  | n + 1 =>
    match step s with
    | .next t => t.safeFor n
    | _ => false

end Sys2Proof.Machine
end

