-- ==== Sys2Proof/Certificates/Slice0/Obligations.lean ====
section
/-! DEFINITION. The statements for the provers. What a statement needs beside the model's own operations (a table of
results, a guard) is written here from the rules of spec/, in other terms than the model's where that can be done. -/

namespace Sys2Proof.Claims

open Sys2Proof.Machine

/-! ### Words of the sequencer -/

/-- A word is in turn in the sequencer in focus, and it reads nothing poisoned: R120 has no reason against it. -/
def InTurn (s : State) (v : SeqView) (i : Instr) : Prop :=
  s.seqView = some v ∧ v.reason i = none ∧ v.poisoned i = false

/-- The result of the integer forms of major 0x01, by exact arithmetic on the operands (R139). -/
def aluResult (g : GReg → DWord) (p : PReg → Bool) : Instr → Option (GReg × DWord)
  | .add d a b => some (d, BitVec.ofNat 64 ((g a).toNat + (g b).toNat))
  | .sub d a b => some (d, BitVec.ofInt 64 ((g a).toNat - (g b).toNat))
  | .and d a b => some (d, BitVec.ofNat 64 ((g a).toNat &&& (g b).toNat))
  | .or d a b => some (d, BitVec.ofNat 64 ((g a).toNat ||| (g b).toNat))
  | .xor d a b => some (d, BitVec.ofNat 64 ((g a).toNat ^^^ (g b).toNat))
  | .andn d a b => some (d, BitVec.ofNat 64 ((g a).toNat &&& (2 ^ 64 - 1 - (g b).toNat)))
  | .shl d a b => some (d, BitVec.ofNat 64 ((g a).toNat * 2 ^ ((g b).toNat % 64)))
  | .shr d a b => some (d, BitVec.ofNat 64 ((g a).toNat / 2 ^ ((g b).toNat % 64)))
  | .sra d a b => some (d, BitVec.ofInt 64 ((g a).toInt / 2 ^ ((g b).toNat % 64)))
  | .fshl d a b => some (d, ((g d ++ g a) <<< ((g b).toNat % 64)).extractLsb' 64 64)
  | .fshr d a b => some (d, ((g a ++ g d) >>> ((g b).toNat % 64)).extractLsb' 0 64)
  | .min d a b => some (d, BitVec.ofInt 64 (min (g a).toInt (g b).toInt))
  | .max d a b => some (d, BitVec.ofInt 64 (max (g a).toInt (g b).toInt))
  | .minn d a b => some (d, BitVec.ofNat 64 (min (g a).toNat (g b).toNat))
  | .maxn d a b => some (d, BitVec.ofNat 64 (max (g a).toNat (g b).toNat))
  | .clz d a => some (d, BitVec.ofNat 64 (((List.range 64).find? (fun k => (g a).getMsbD k)).getD 64))
  | .ctz d a => some (d, BitVec.ofNat 64 (((List.range 64).find? (fun k => (g a).getLsbD k)).getD 64))
  | .popc d a => some (d, BitVec.ofNat 64 ((List.range 64).filter (fun k => (g a).getLsbD k)).length)
  | .mul d a b => some (d, BitVec.ofInt 64 ((g a).toInt * (g b).toInt))
  | .mulh d a b => some (d, ((g a).signExtend 128 * (g b).signExtend 128).extractLsb' 64 64)
  | .mulhn d a b => some (d, ((g a).setWidth 128 * (g b).setWidth 128).extractLsb' 64 64)
  | .sel d a b q => some (d, if p q then g a else g b)
  | .addx d a b k => some (d, BitVec.ofNat 64 ((g a).toNat + (g b).toNat * 2 ^ k.val))
  | _ => none

/-- The result of the immediate forms (R142 to R144). -/
def immResult (g : GReg → DWord) : Instr → Option (GReg × DWord)
  | .addi d a i => some (d, BitVec.ofInt 64 ((g a).toInt + i.toInt))
  | .andi d a i => some (d, g a &&& BitVec.ofInt 64 i.toInt)
  | .ori d a i => some (d, g a ||| BitVec.ofInt 64 i.toInt)
  | .xori d a i => some (d, g a ^^^ BitVec.ofInt 64 i.toInt)
  | .shli d a n => some (d, BitVec.ofNat 64 ((g a).toNat * 2 ^ n.val))
  | .shri d a n => some (d, BitVec.ofNat 64 ((g a).toNat / 2 ^ n.val))
  | .srai d a n => some (d, BitVec.ofInt 64 ((g a).toInt / 2 ^ n.val))
  | .limm d i => some (d, BitVec.ofInt 64 i.toInt)
  | .limh d i => some (d, BitVec.ofNat 64 ((g d).toNat * 2 ^ 20 + i.toNat))
  | _ => none

/-- The predicate that a compare or a predicate form writes (R145, R146). -/
def predResult (g : GReg → DWord) (p : PReg → Bool) : Instr → Option (PReg × Bool)
  | .cmpeq q a b => some (q, decide ((g a).toNat = (g b).toNat))
  | .cmpne q a b => some (q, decide ((g a).toNat ≠ (g b).toNat))
  | .cmplt q a b => some (q, decide ((g a).toInt < (g b).toInt))
  | .cmpltn q a b => some (q, decide ((g a).toNat < (g b).toNat))
  | .cmple q a b => some (q, decide ((g a).toInt ≤ (g b).toInt))
  | .cmplen q a b => some (q, decide ((g a).toNat ≤ (g b).toNat))
  | .cmpeqImm q a i => some (q, decide ((g a).toInt = i.toInt))
  | .cmpneImm q a i => some (q, decide ((g a).toInt ≠ i.toInt))
  | .cmpltImm q a i => some (q, decide ((g a).toInt < i.toInt))
  | .cmpltnImm q a i => some (q, decide ((g a).toNat < i.toNat))
  | .cmpleImm q a i => some (q, decide ((g a).toInt ≤ i.toInt))
  | .cmplenImm q a i => some (q, decide ((g a).toNat ≤ i.toNat))
  | .pand q a b => some (q, p a && p b)
  | .por q a b => some (q, p a || p b)
  | .pxor q a b => some (q, xor (p a) (p b))
  | .pnot q a => some (q, !p a)
  | .pset q x => some (q, x)
  | _ => none

/-- Dividend, divisor, and the result for a divisor that is not zero (R140). -/
def divResult (g : GReg → DWord) : Instr → Option (GReg × DWord × DWord × DWord)
  | .div d a b => some (d, g a, g b, BitVec.ofInt 64 ((g a).toInt.tdiv (g b).toInt))
  | .rem d a b => some (d, g a, g b, BitVec.ofInt 64 ((g a).toInt.tmod (g b).toInt))
  | .divn d a b => some (d, g a, g b, BitVec.ofNat 64 ((g a).toNat / (g b).toNat))
  | .remn d a b => some (d, g a, g b, BitVec.ofNat 64 ((g a).toNat % (g b).toNat))
  | _ => none

/-- An exit word: sense, predicate, exit index, target and whether it is a CALL (R147). -/
def exitForm (v : SeqView) : Instr → Option (Bool × PReg × Fin 4 × DWord × Bool)
  | .exit s q x o => some (s, q, x, BitVec.ofInt 64 (v.blk.addr + 4 * o.toInt), false)
  | .call s q x o => some (s, q, x, BitVec.ofInt 64 (v.blk.addr + 4 * o.toInt), true)
  | .exitr s q x a => some (s, q, x, v.g a, false)
  | .ret s q x a => some (s, q, x, v.g a, false)
  | _ => none


/-! ### Memory words -/

/-- The address of an SM word: base plus the offset in units of the access size, modulo 2^64 (R151). -/
def smAddress (base : DWord) (z : Size) (o : BitVec 11) : Nat :=
  (BitVec.ofInt 64 (base.toNat + o.toInt * (match z with | .b => 1 | .h => 2 | .w => 4 | .d => 8))).toNat

/-- Bytes of an access size (R115). -/
def sizeBytes : Size → Nat
  | .b => 1
  | .h => 2
  | .w => 4
  | .d => 8

/-- The number that bytes hold, the lowest address least significant (R3). -/
def littleEndian (bs : List Byte) : Nat := (bs.reverse).foldl (fun n b => 256 * n + b.toNat) 0

/-- The register value of loaded bytes: zero-extended, or sign-extended from the access size (R151). -/
def loaded (sgn : Bool) (bs : List Byte) : DWord :=
  let n := littleEndian bs
  if sgn = true ∧ 2 * n ≥ 256 ^ bs.length then BitVec.ofInt 64 ((n : Int) - 256 ^ bs.length) else BitVec.ofNat 64 n

/-- What a load word names: destination, address, size, sign extension, and for LDVER the round (R151, R310). -/
def loadForm (v : SeqView) : Instr → Option (GReg × Nat × Nat × Bool × Option (BitVec 24))
  | .ld d a z o => some (d, smAddress (v.g a) z o, sizeBytes z, false, none)
  | .ldSigned d a z o => some (d, smAddress (v.g a) z o, sizeBytes z, true, none)
  | .ldver d a b g z => some (d, (v.g a).toNat, sizeBytes z, g, some ((v.g b).setWidth 24))
  | _ => none

/-- The pages a load needs: any for LD; versioned ones, and one line, for LDVER (R310). -/
def loadChecked (s : State) (v : SeqView) (i : Instr) (ea n : Nat) (parts : List Part) : Prop :=
  match i with
  | .ldver .. => (s.tlb v.r).seqCheck v.reg.job 0 (some true) ea n = .ok parts ∧ ea / 32 = (ea + n - 1) / 32
  | _ => (s.tlb v.r).seqCheck v.reg.job 0 none ea n = .ok parts

/-- Bytes can be read now: none lies in a line under copy, and none that the block has not stored is uncorrectable. -/
def readable (s : State) (v : SeqView) (as : List (Option Nat)) : Prop :=
  ∀ pa, some pa ∈ as → s.vatLocked pa = false ∧ (s.badBytes pa 1 = false ∨ storedByte v.blk.acts pa ≠ none)

/-- The block after a read has put x into gd. Where an act of the block stands before the read, what the read saw of
memory is kept with the block, for the commit to hold it to (R287, R289). -/
def readInto (s : State) (v : SeqView) (as : List (Option Nat)) (d : GReg) (x : DWord) (b : Block) : Prop :=
  let b' := v.blk.put d x
  b.gw = b'.gw ∧ b.gpos = b'.gpos ∧ b.pw = b'.pw ∧ b.idx = b'.idx ∧ b.fired = b'.fired ∧ b.acts = b'.acts ∧ b.exc = b'.exc
    ∧ b.csrs = b'.csrs ∧ b.exits = b'.exits
    ∧ (v.blk.before.any actsAtCommit = false → b = b')
    ∧ (v.blk.before.any actsAtCommit = true → ∀ pa, some pa ∈ as → storedByte v.blk.acts pa = none → (pa, s.mem.read pa) ∈ b.seen)

/-- The block after a waiting word has not fired: its wait is reckoned from the first cycle in which it had its
operands (R308). -/
def waitingBlock (s : State) (b : Block) : Block :=
  { b with waits := if (b.waits.find? b.idx).isSome then b.waits else b.waits.put b.idx (s.time, s.cycle) }

/-- The code of an atomic word and its operands (R313): destination, address register, operand register, width. -/
def atomicForm : Instr → Option (Nat × GReg × GReg × GReg × Nat)
  | .aadd d a b z _ _ => some (0, d, a, b, if z then 8 else 4)
  | .aadds d a b z _ _ => some (1, d, a, b, if z then 8 else 4)
  | .amin d a b z _ _ => some (2, d, a, b, if z then 8 else 4)
  | .amax d a b z _ _ => some (3, d, a, b, if z then 8 else 4)
  | .aand d a b z _ _ => some (4, d, a, b, if z then 8 else 4)
  | .aor d a b z _ _ => some (5, d, a, b, if z then 8 else 4)
  | .axor d a b z _ _ => some (6, d, a, b, if z then 8 else 4)
  | .axch d a b z _ _ => some (7, d, a, b, if z then 8 else 4)
  | .acas d a b z _ _ => some (8, d, a, b, if z then 8 else 4)
  | .afadd d a b _ _ => some (9, d, a, b, 4)
  | _ => none

/-- The number that an atomic leaves in memory, `w` bits wide: m the old number, x operand b, c the register d (R313).
Floating-point addition is left to FADD. -/
def atomicResult (op w m x c : Nat) : Option Nat :=
  let sg (n : Nat) : Int := (BitVec.ofNat w n).toInt
  match op with
  | 0 => some ((m + x) % 2 ^ w)
  | 1 => some (BitVec.ofInt w (max (-2 ^ (w - 1)) (min (2 ^ (w - 1) - 1) (sg m + sg x)))).toNat
  | 2 => some (BitVec.ofInt w (min (sg m) (sg x))).toNat
  | 3 => some (BitVec.ofInt w (max (sg m) (sg x))).toNat
  | 4 => some (m &&& x)
  | 5 => some (m ||| x)
  | 6 => some (m ^^^ x)
  | 7 => some x
  | 8 => some (if m = c then x else m)
  | _ => none

/-- The commands of the stream engine (R315). -/
def engineForm : Instr → Option (Nat × GReg × GReg × GReg)
  | .scopy d a b => some (1, d, a, b)
  | .sload d a b => some (2, d, a, b)
  | .sstore d a b => some (3, d, a, b)
  | .sgath d a b => some (4, d, a, b)
  | .sscat d a b => some (5, d, a, b)
  | .sprobe d a b => some (6, d, a, b)
  | .speer d a b => some (7, d, a, b)
  | .scoll d a b => some (8, d, a, b)
  | _ => none

/-! ### Words that act at commit, waits and control registers -/

/-- Words that always fire, and what they leave for the commit (R321, R325, R340 to R343). -/
def plainAct (v : SeqView) : Instr → Option Act
  | .squery d a => some (.squery d ((v.g a).toNat % 65536))
  | .fstop => some .fstop
  | .frun => some .frun
  | .svc n k => some (.svc k.toNat n (v.g n))
  | .trap n k => some (.raise 0x05 k.toNat (v.g n))
  | .brk n k => some (.raise 0x06 k.toNat (v.g n))
  | .tret => some .tret
  | .yield => some .yield
  | _ => none

/-- Words that check the region first: the condition, what they leave for the commit, and the cause raised otherwise
with TRAPINFO0 (R322 to R332). -/
def checkedAct (s : State) (v : SeqView) : Instr → Option (Prop × Act × Nat × DWord)
  | .fload a b => some (s.floadOk v (v.g a).toNat ((v.g b).toNat % 16) = true, .fload (v.g a).toNat ((v.g b).toNat % 16), 0x98, v.g a)
  | .fswitch => some (v.reg.place.fold = 0 ∧ v.reg.seq.loaded ≠ none, .fswitch, 0x98, 0#64)
  | .fshrink a => some ((s.rnode v.r).eff.policy / 2 ^ 10 % 2 = 1 ∧ (v.g a).toNat % 8 < (s.rnode v.r).alts.length,
      .fshrink ((v.g a).toNat % 8), 0x98, v.g a)
  | .fgrow => some ((s.rnode v.r).eff.policy / 2 ^ 10 % 2 = 1, .fgrow, 0x98, 0#64)
  | .fstat d a => some (v.reg.fstatOk (v.g a).toNat = true, .fstat d (v.g a), 0x98, v.g a)
  | .finj a b => some ((v.g a).toNat < 8, .finj (v.g a).toNat (v.g b) v.blk.csrs.round, 0x98, v.g a)
  | .vgo a => some ((v.g a).toNat < 512 ∧ (256 ≤ (v.g a).toNat ∨ (v.g a).toNat ∈ v.reg.nodes), .vgo (v.g a).toNat, 0x64, v.g a)
  | .vquiesce a => some ((v.g a).toNat < 512 ∧ (256 ≤ (v.g a).toNat ∨ (v.g a).toNat ∈ v.reg.nodes), .vquiesce (v.g a).toNat,
      0x64, v.g a)
  | .vmap a b => some ((v.g a).toNat < 2 ^ 17 ∧ vmapOk ((v.g a).toNat % 256) (v.g b).toNat = true
      ∧ (2 ^ 16 ≤ (v.g a).toNat ∨ (v.g a).toNat / 256 % 256 ∈ v.reg.nodes), .vmap (v.g a).toNat (v.g b), 0x64, v.g a)
  | .vstat d a => some ((v.g a).toNat < 256 ∧ (v.g a).toNat ∈ v.reg.nodes, .vstat d (v.g a).toNat, 0x64, v.g a)
  | _ => none

/-- A word that observes memory: its address, how many bytes, and the result with the condition under which it is
given at once (R336, R337). -/
def observeForm (v : SeqView) (x : Nat) : Instr → Option (GReg × Nat × Nat × Bool × DWord)
  | .barstat d a => some (d, (v.g a).toNat / 16 * 16, 16, true,
      BitVec.ofNat 64 (x / 2 ^ 64 % 2 ^ 32 + x / 2 ^ 63 % 2 * 2 ^ 32 + x % 2 ^ 24 * 2 ^ 33))
  | .barwait d a _ => some (d, (v.g a).toNat / 16 * 16, 16, decide (x / 2 ^ 63 % 2 ≠ (v.g a).toNat % 2),
      BitVec.ofNat 64 (x / 2 ^ 64 % 2 ^ 32 + x / 2 ^ 63 % 2 * 2 ^ 32 + x % 2 ^ 24 * 2 ^ 33))
  | .flagwait d a _ => some (d, (v.g a).toNat, 8, decide ((BitVec.ofNat 64 x - v.g d).toNat < 2 ^ 63), BitVec.ofNat 64 x)
  | _ => none

/-- The value of a control register by its number, with the effects of earlier words of the block (R118, R137). -/
def controlRegister (v : SeqView) (k : Nat) : Option DWord :=
  match k with
  | 0x001 => some (v.blk.csrs.round.setWidth 64)
  | 0x002 => some (v.blk.csrs.fpass.setWidth 64)
  | 0x003 => some v.reg.fab.freeze.word
  | 0x004 => some (if v.blk.csrs.priv then 1#64 else 0#64)
  | 0x005 => some ((v.reg.seq.csrs.capvec &&& ~~~v.blk.capClear).setWidth 64)
  | 0x006 => some v.blk.csrs.bmapsel
  | 0x100 => some (v.blk.csrs.handler.setWidth 64)
  | 0x101 => some (v.blk.csrs.trapcause.setWidth 64)
  | 0x102 => some (v.blk.csrs.trapblk.setWidth 64)
  | 0x103 => some (v.blk.csrs.traptag.setWidth 64)
  | 0x104 => some (v.blk.csrs.trapinfo.getD 0 0#64)
  | 0x105 => some (v.blk.csrs.trapinfo.getD 1 0#64)
  | 0x106 => some (v.blk.csrs.trapinfo.getD 2 0#64)
  | 0x107 => some (v.blk.csrs.trapinfo.getD 3 0#64)
  | _ => none

/-- Width in bits of the control registers that CSRW and CSRS may write (R118, R338). -/
def writableWidth : Nat → Option Nat
  | 0x006 => some 64
  | 0x100 => some 57
  | 0x101 => some 8
  | 0x102 => some 57
  | 0x103 => some 24
  | 0x104 | 0x105 | 0x106 | 0x107 => some 64
  | _ => none


/-! ### Element operations that compute -/

/-- The tokens that an operation consumes: the heads of its input operands, each channel once, in operand order. -/
def heads (v : View) (srcs : List Opnd) : List (Nat × Token) := consumedToks (srcs.map v.read)

/-- Every input operand has a token, and all of them are data (R102, R182). -/
def dataReady (v : View) (srcs : List Opnd) : Prop :=
  (∀ o ∈ srcs, v.starved o = false) ∧ ∀ t ∈ heads v srcs, t.2.kind = .data ∨ t.2.kind = .control

/-- One result of an operation: latency, destination, lanes written, KIND and payload. -/
structure Result where
  lat : Nat
  dst : Dst
  lanes : BitVec 16
  kind : TokKind
  val : Payload

/-- What an operation that computes does with its bundle (R182): each token consumed once, ROUND and TAG of each taken
into its kernel's context, each result with the header of the first token and ERR of any operand or mask, its flags
unless ERR, and, where no result leaves by a channel, a report of the tokens with ERR that end here (R355). -/
def computeEffects (v : View) (srcs : List Opnd) (m : LMask) (more : Bool) (outs : List Result) (fl : Flags) : List Eff :=
  let ts := heads v srcs
  let err := (v.mask m).err || srcs.any (fun o => (v.read o).err)
  let rt := match ts with
    | t :: _ => (t.2.round, t.2.tag)
    | [] => (v.ctx.cround, v.ctx.ctag)
  ts.map (fun t => .consume t.1) ++ ts.map (fun t => .ctxRT v.f.ksel t.2.round t.2.tag)
    ++ outs.map (fun o => .result o.lat o.dst (v.outTok o.dst ⟨o.kind, err || more, rt.1, rt.2, 0#8, o.val⟩) o.lanes)
    ++ (if err = true ∨ fl = 0#8 then [] else [.flags rt.1 fl])
    ++ (if outs.any (fun o => o.dst.isChan) then []
        else (ts.filter (fun t => t.2.err)).map (fun t => .sink t.2.round t.2.tag))

/-- A payload lane by lane: zero in the lanes that the mask leaves out; and the flags of the others together. -/
def masked (mk : BitVec 16) (x : Nat → Word × Flags) : Payload × Flags :=
  (ofLanes (fun i => if mk.getLsbD i then (x i).1 else 0#32),
    (List.range 16).foldl (fun f i => if mk.getLsbD i then f ||| (x i).2 else f) 0#8)

/-- An operation with one result under its mask. -/
def oneResult (v : View) (srcs : List Opnd) (d : Opnd) (m : LMask) (lat : Nat)
    (x : (Nat → Payload) → Nat → Word × Flags) : List Eff :=
  let r := masked (v.mask m).val (x (fun k => ((srcs.map (fun o => (v.read o).val)).getD k 0#512)))
  computeEffects v srcs m false [⟨lat, opndDst d, (v.mask m).val, .data, r.1⟩] r.2

/-- The integer that a lane holds as a signed or, with N, an unsigned number. -/
def laneNum (n : Bool) (x : Word) : Int := if n then (x.toNat : Int) else x.toInt

/-- A number clamped to the signed or unsigned range of 32 bits, with SAT when that changes it (R188). -/
def saturated (n : Bool) (x : Int) : Word × Flags :=
  let y := if n then max 0 (min (2 ^ 32 - 1) x) else max (-2 ^ 31) (min (2 ^ 31 - 1) x)
  (BitVec.ofInt 32 y, if x = y then 0#8 else 0x20#8)

/-- Source b of an integer operation in a lane: the operand, or the nine-bit immediate (R123). -/
def bLane (b : IArg) (n : Bool) (q : Payload) (i : Nat) : Word :=
  match b with
  | .opnd _ => lane q i
  | .imm x => BitVec.ofInt 32 (if n then (x.toNat : Int) else x.toInt)

/-- The operands of an integer operation. -/
def intSrcs (a : Opnd) : IArg → List Opnd
  | .opnd o => [a, o]
  | .imm _ => [a]

/-- An integer operation: its sources, destination, mask, latency and lane function. -/
abbrev LaneOp := List Opnd × Opnd × LMask × Nat × ((Nat → Payload) → Nat → Word × Flags)

/-- A lane operation on a and b with no flag. -/
def plain2 (d a : Opnd) (b : IArg) (m : LMask) (n : Bool) (lat : Nat) (f : Word → Word → Word) : Option LaneOp :=
  some (intSrcs a b, d, m, lat, fun p i => (f (lane (p 0) i) (bLane b n (p 1) i), 0#8))

/-- The integer and bit operations by their exact results (R188, R189, R205). -/
def integerOp : Instr → Option LaneOp
  | .iadd d a b m => plain2 d a b m false 1 (fun x y => BitVec.ofInt 32 (x.toInt + y.toInt))
  | .isub d a b m => plain2 d a b m false 1 (fun x y => BitVec.ofInt 32 (x.toInt - y.toInt))
  | .imul d a b m => plain2 d a b m false 3 (fun x y => BitVec.ofInt 32 (x.toInt * y.toInt))
  | .imulh n d a b m => plain2 d a b m n 3 (fun x y =>
      if n then (x.setWidth 64 * y.setWidth 64).extractLsb' 32 32 else (x.signExtend 64 * y.signExtend 64).extractLsb' 32 32)
  | .imin n d a b m => plain2 d a b m n 1 (fun x y => BitVec.ofInt 32 (min (laneNum n x) (laneNum n y)))
  | .imax n d a b m => plain2 d a b m n 1 (fun x y => BitVec.ofInt 32 (max (laneNum n x) (laneNum n y)))
  | .eAnd d a b m => plain2 d a b m false 1 (fun x y => x &&& y)
  | .eOr d a b m => plain2 d a b m false 1 (fun x y => x ||| y)
  | .eXor d a b m => plain2 d a b m false 1 (fun x y => x ^^^ y)
  | .eAndn d a b m => plain2 d a b m false 1 (fun x y => BitVec.ofNat 32 (x.toNat &&& (2 ^ 32 - 1 - y.toNat)))
  | .eShl d a b m => plain2 d a b m false 1 (fun x y => BitVec.ofNat 32 (x.toNat * 2 ^ (y.toNat % 32)))
  | .eShr d a b m => plain2 d a b m false 1 (fun x y => BitVec.ofNat 32 (x.toNat / 2 ^ (y.toNat % 32)))
  | .eSra d a b m => plain2 d a b m false 1 (fun x y => BitVec.ofInt 32 (x.toInt / 2 ^ (y.toNat % 32)))
  | .iadds n d a b m => some (intSrcs a b, d, m, 1, fun p i =>
      saturated n (laneNum n (lane (p 0) i) + laneNum n (bLane b n (p 1) i)))
  | .isubs n d a b m => some (intSrcs a b, d, m, 1, fun p i =>
      saturated n (laneNum n (lane (p 0) i) - laneNum n (bLane b n (p 1) i)))
  | .iabs d a m => some ([a], d, m, 1, fun p i => saturated false (max (lane (p 0) i).toInt (-(lane (p 0) i).toInt)))
  | .eFshr d a b (some n) m => some ([a, b], d, m, 1, fun p i =>
      (((lane (p 0) i ++ lane (p 1) i) >>> n.val).extractLsb' 0 32, 0#8))
  | .eFshl d a b (some n) m => some ([a, b], d, m, 1, fun p i =>
      (((lane (p 0) i ++ lane (p 1) i) <<< n.val).extractLsb' 32 32, 0#8))
  | .eFshr d a b none m => some ([a, b, d], d, m, 1, fun p i =>
      (((lane (p 0) i ++ lane (p 1) i) >>> ((lane (p 2) i).toNat % 32)).extractLsb' 0 32, 0#8))
  | .eFshl d a b none m => some ([a, b, d], d, m, 1, fun p i =>
      (((lane (p 0) i ++ lane (p 1) i) <<< ((lane (p 2) i).toNat % 32)).extractLsb' 32 32, 0#8))
  | .eClz d a m => some ([a], d, m, 1, fun p i =>
      (BitVec.ofNat 32 (((List.range 32).find? (fun k => (lane (p 0) i).getMsbD k)).getD 32), 0#8))
  | .ePopc d a m => some ([a], d, m, 1, fun p i =>
      (BitVec.ofNat 32 ((List.range 32).filter (fun k => (lane (p 0) i).getLsbD k)).length, 0#8))
  | .bext d a (.imm len1 pos) m => some ([a], d, m, 1, fun p i =>
      (BitVec.ofNat 32 ((lane (p 0) i).toNat / 2 ^ pos.val % 2 ^ (len1.val + 1)), 0#8))
  | .bext d a (.opnd b) m => some ([a, b], d, m, 1, fun p i =>
      let c := (lane (p 1) i).toNat
      (BitVec.ofNat 32 ((lane (p 0) i).toNat / 2 ^ (c % 32) % 2 ^ (c / 256 % 32 + 1)), 0#8))
  | .bdep d a (.imm len1 pos) m => some ([a, d], d, m, 1, fun p i =>
      (deposit (lane (p 1) i) (lane (p 0) i) pos.val (len1.val + 1), 0#8))
  | .bdep d a (.opnd b) m => some ([a, d, b], d, m, 1, fun p i =>
      let c := (lane (p 2) i).toNat
      (deposit (lane (p 1) i) (lane (p 0) i) (c % 32) (c / 256 % 32 + 1), 0#8))
  | _ => none
where
  /-- The low bits of `a` put into bits `pos` to `pos + len - 1` of `d`; bits past 31 are dropped. -/
  deposit (d a : Word) (pos len : Nat) : Word :=
    BitVec.ofNat 32 ((List.range 32).foldl (fun n k =>
      n + (if (if pos ≤ k ∧ k < pos + len then a.getLsbD (k - pos) else d.getLsbD k) then 2 ^ k else 0)) 0)

/-- The floating-point operations (R185, R186, R205): latency and lane function. -/
def floatOp : Instr → Option LaneOp
  | .fadd d a b m => some ([a, b], d, m, 4, fun p i => faddW (lane (p 0) i) (lane (p 1) i))
  | .fsub d a b m => some ([a, b], d, m, 4, fun p i => fsubW (lane (p 0) i) (lane (p 1) i))
  | .fmul d a b m => some ([a, b], d, m, 4, fun p i => fmulW (lane (p 0) i) (lane (p 1) i))
  | .fma d a b m => some ([a, b, d], d, m, 4, fun p i => fmaW (lane (p 0) i) (lane (p 1) i) (lane (p 2) i))
  | .fmax d a b m => some ([a, b], d, m, 1, fun p i => (fmaxW (lane (p 0) i) (lane (p 1) i), 0#8))
  | .fmin d a b m => some ([a, b], d, m, 1, fun p i => (fminW (lane (p 0) i) (lane (p 1) i), 0#8))
  | .fabs d a m => some ([a], d, m, 1, fun p i =>
      (if 0x7F800000 < (lane (p 0) i).toNat % 2 ^ 31 then 0x7FC00000#32 else (lane (p 0) i) &&& 0x7FFFFFFF#32, 0#8))
  | .fneg d a m => some ([a], d, m, 1, fun p i =>
      (if 0x7F800000 < (lane (p 0) i).toNat % 2 ^ 31 then 0x7FC00000#32 else (lane (p 0) i) ^^^ 0x80000000#32, 0#8))
  | .frcp d a m => some ([a], d, m, 6, fun p i => frcpW (lane (p 0) i))
  | .frsq d a m => some ([a], d, m, 6, fun p i => frsqW (lane (p 0) i))
  | .fexp2 d a m => some ([a], d, m, 8, fun p i => fexp2W (lane (p 0) i))
  | .flog2 d a m => some ([a], d, m, 8, fun p i => flog2W (lane (p 0) i))
  | .outl d a m => some ([a], d, m, 2, fun p i => outlLane (lane (p 0) i))
  | _ => none

/-- The lanes of lane i's group of 2^(n + 1) lanes that the mask selects (R194). -/
def members (n : Fin 4) (mk : BitVec 16) (i : Nat) : List Nat :=
  (List.range 16).filter (fun j => j / 2 ^ (n.val + 1) == i / 2 ^ (n.val + 1) && mk.getLsbD j)

/-- A sum of lanes as exact integers, wrapped or clamped, or as R194 sums FP32. -/
def laneSum (t : LType) (sat : Bool) (ws : List Word) : Word × Flags :=
  match t with
  | .f => fsumW ws
  | t =>
    let x := (ws.map (laneNum (t == .n))).sum
    if sat then saturated (t == .n) x else (BitVec.ofInt 32 x, 0#8)

/-- The extreme of integer lanes. -/
def laneExtreme (t : LType) (greatest : Bool) (ws : List Word) : Word :=
  let ns := ws.map (laneNum (t == .n))
  BitVec.ofInt 32 (ns.foldl (fun x y => if greatest then max x y else min x y) (ns.headD 0))

/-- Lane groups and lane movement (R194 to R196, R198). -/
def moveOp (v : View) : Instr → Option LaneOp
  | .gmax n t d a m => if t = .f then none else some ([a], d, m, 2, fun p i =>
      (laneExtreme t true ((members n (v.mask m).val i).map (lane (p 0))), 0#8))
  | .gmin n t d a m => if t = .f then none else some ([a], d, m, 2, fun p i =>
      (laneExtreme t false ((members n (v.mask m).val i).map (lane (p 0))), 0#8))
  | .gsum n t sat d a m => some ([a], d, m, 4, fun p i => laneSum t sat ((members n (v.mask m).val i).map (lane (p 0))))
  | .gscan n t sat d a m => some ([a], d, m, 4, fun p i =>
      laneSum t sat (((members n (v.mask m).val i).filter (· ≤ i)).map (lane (p 0))))
  | .shuf k d a b m => some ([a, b], d, m, 1, fun p i =>
      let c (j : Nat) : Word := if j < 16 then lane (p 0) j else lane (p 1) (j - 16)
      (match k with
        | .rot r => c ((i + r.val) % 32)
        | .perm => lane (p 0) ((lane (p 1) i).toNat % 16)
        | .zlo => c (i / 2 + 16 * (i % 2))
        | .zhi => c (8 + i / 2 + 16 * (i % 2))
        | .uze => c (2 * i)
        | .uzo => c (2 * i + 1), 0#8))
  | .splat d (.lane a l) m => some ([a], d, m, 1, fun p _ => (lane (p 0) l.val, 0#8))
  | .splat d (.imm x) m => some ([], d, m, 1, fun _ _ => (BitVec.ofInt 32 x.toInt, 0#8))
  | .mov d a m => some ([a], d, m, 1, fun p i => (lane (p 0) i, 0#8))
  | _ => none

/-- The magnitude of a finite FP32 lane, in units of 2^-149. -/
def units (w : Word) : Nat :=
  let e := w.toNat / 2 ^ 23 % 2 ^ 8
  if e = 0 then w.toNat % 2 ^ 23 else (2 ^ 23 + w.toNat % 2 ^ 23) * 2 ^ (e - 1)

/-- The greatest magnitude of the finite elements that take part in a QNT (R191), in those units; 0 when there is none. -/
def greatest (a b : Payload) (m : BitVec 16) : Nat :=
  (List.range 32).foldl (fun g k =>
    let w := if k < 16 then lane a k else lane b (k - 16)
    if m.getLsbD (k % 16) ∧ w.toNat / 2 ^ 23 % 2 ^ 8 ≠ 255 then max g (units w) else g) 0

/-- The scale of a magnitude (R191): 127 of zero, else the least e from 0 to 254 whose 2^(e - 127) times the greatest value
of the format is no less, else 254. -/
def leastScale (df : Fmt) (g : Nat) : Nat :=
  if g = 0 then 127 else ((List.range 255).find? (fun e => decide (g ≤ qmax df * 2 ^ (e + 22)))).getD 254

/-- A raise and nothing else. -/
def raisesOnly (s : State) (i : Instr) (cause : BitVec 8) : Prop :=
  ∃ r, exec i s = .next (s.enter [.raise r]) ∧ r.cause = cause ∧ r.kind = .round

/-! ### Token operations, generators, memory and special nodes -/

/-- An input operand with the token at its head. -/
def holds (v : View) (o : Opnd) (n : Nat) (t : Token) : Prop := (v.read o).tok = some (n, t)

/-- An operand as a token: the head of its input, or a data token of the kernel's iteration from a register. -/
def tokenOf (v : View) (o : Opnd) : Token :=
  match (v.read o).tok with
  | some t => t.2
  | none => ⟨.data, (v.read o).err, v.ctx.cround, v.ctx.ctag, 0#8, (v.read o).val⟩

/-- A token of the current round of its input: the round after the last marker on it (R294). -/
def ofTheRound (v : View) (t : Nat × Token) : Prop := t.2.round = v.el.inRound.getD t.1 v.el.round0

/-- A token that every operation reads as data (R183). -/
def isData (t : Token) : Prop := t.kind = .data ∨ t.kind = .control

/-- A data token consumed from channel n: popped, and its ROUND and TAG become the kernel's context (R182). -/
def takes (v : View) (ts : List (Nat × Token)) : List Eff :=
  ts.map (fun t => .consume t.1) ++ ts.map (fun t => .ctxRT v.f.ksel t.2.round t.2.tag)

/-- A data token sent by a destination operand, after one cycle (R205). -/
def sends (v : View) (d : Opnd) (t : Token) : List Eff := [.result 1 (opndDst d) (v.outTok (opndDst d) t) 0xFFFF#16]

/-- Any token sent on: punctuation goes to a channel only (R183). -/
def passes (v : View) (d : Opnd) (t : Token) : List Eff :=
  match d with
  | .ch _ => sends v d t
  | .v _ => if t.kind = .data ∨ t.kind = .control then sends v d t else []

/-- Tokens consumed, with what they do to the kernel's context: ROUND and TAG of data, the next round of a marker. -/
def pops (v : View) (ts : List (Nat × Token)) : List Eff := ts.map (fun t => .consume t.1) ++ v.ctxEffs (ts.map Prod.snd)

/-- Tokens with ERR that end at an operation (R355). -/
def endsErr (ts : List Token) : List Eff := (ts.filter Token.err).map (fun t => .sink t.round t.tag)

/-- The control value of a token is true: bits 31-0 of its payload are not all zero (R199). -/
def isTrue (t : Token) : Prop := t.data.toNat % 2 ^ 32 ≠ 0

/-- A window or affine descriptor that R237 allows, as numbers. -/
def descriptorOk (win : Bool) (p : Payload) : Prop :=
  let w (i : Nat) : Nat := (lane p i).toNat
  w 1 < 2 ^ 25 ∧ 1 ≤ w 2 ∧ w 2 ≤ 64 ∧ (∀ i, 9 ≤ i → i < 16 → w i = 0)
    ∧ (win = true → w 3 % 2 ^ 16 ≠ 0 ∧ w 3 / 2 ^ 16 ≠ 0 ∧ (∀ j < 4, w 4 / 2 ^ (8 * j) % 2 ^ 8 ≠ 0)
        ∧ w 5 % 2 ^ 8 ≠ 0 ∧ w 5 / 2 ^ 8 % 2 ^ 8 ≠ 0 ∧ w 6 < 2 ^ 16)

/-- The address of request number pos of an affine descriptor (R238): three nested counts with three strides. -/
def affineAddress (p : Payload) (pos : Nat) : Nat :=
  let w (i : Nat) : Nat := (lane p i).toNat
  let st (i : Nat) : Int := (lane p i).toInt
  (BitVec.ofInt 64 ((w 0 + w 1 % 2 ^ 25 * 2 ^ 32 : Nat) + (pos % w 3 : Nat) * st 6 + (pos / w 3 % w 4 : Nat) * st 7
    + (pos / (w 3 * w 4) : Nat) * st 8)).toNat

/-- A request payload that R242 allows, with an access: LEN from 1 to 64, PAD clear. -/
def requestOk (p : Payload) (bm : Bool) : Prop :=
  let w (i : Nat) : Nat := (lane p i).toNat
  1 ≤ w 2 ∧ w 2 ≤ 64 ∧ (bm = false → w 4 = 0 ∧ w 5 = 0) ∧ ∀ i, 6 ≤ i → i < 16 → w i = 0

/-- ADDR and LEN of a request. -/
def requestAddr (p : Payload) : Nat := (lane p 0).toNat + (lane p 1).toNat * 2 ^ 32
def requestLen (p : Payload) : Nat := (lane p 2).toNat

/-- A range of the live range table that holds n bytes at a, the first such (R36, R212). -/
def inRange (v : View) (a n : Nat) (r : Range) : Prop :=
  v.bench.plane.men = true ∧ v.bench.plane.ranges.find? (fun r => decide (r.base ≤ a ∧ a + n ≤ r.base + r.len)) = some r

/-- What a port takes: a request of a stream with header, position, accesses and data. -/
def isRequest (v : View) (q : Request) (stream : Nat) (kind : ReqKind) (rt : BitVec 24 × BitVec 24) (err : Bool)
    (accs : List Access) : Prop :=
  q.stream = stream ∧ q.kind = kind ∧ q.round = rt.1 ∧ q.tag = rt.2 ∧ q.err = err ∧ q.accs = accs ∧ q.pos = v.pos
    ∧ q.state = if accs.isEmpty then .translated else .waiting

/-- The record of an access that steps 1 or 2 of R212 turn away (R234): its cause, and its address. -/
def turnsAway (s : State) (v : View) (i : Instr) (ts : List (Nat × Token)) (cause : BitVec 8) (a : Nat) : Prop :=
  ∃ e, exec i s = .next (s.enter (pops v ts ++ [.raise e])) ∧ e.cause = cause ∧ e.info0 = BitVec.ofNat 64 a ∧ e.kind = .round

/-- A request payload that R242 allows: LEN at most 64, every reserved bit zero. -/
def requestLegal (p : Payload) (bm : Bool) : Prop :=
  let w (i : Nat) : Nat := (lane p i).toNat
  w 2 % 2 ^ 7 ≤ 64 ∧ w 2 < 2 ^ 8 ∧ (bm = false → w 4 = 0 ∧ w 5 = 0) ∧ ∀ i, 6 ≤ i → i < 16 → w i = 0

/-- No live range holds n bytes at a. -/
def outside (v : View) (a n : Nat) : Prop :=
  v.bench.plane.men = false ∨ ∀ r ∈ v.bench.plane.ranges, ¬(r.base ≤ a ∧ a + n ≤ r.base + r.len)

/-- The byte address of byte j of a local word at an element's local address (R248): it wraps at the declared size. -/
def localByte (v : View) (a : Word) (off : BitVec 10) (j : Nat) : Nat :=
  (((a.toNat : Int) + 4 * off.toInt + j) % (8192 * (v.rec_.nlb + 1) : Nat)).toNat

/-- The index that a lane of a gather, scatter or probe names, as a byte address (R246). -/
def gatherAddr (base : Nat) (z : ESize) (sgn : Bool) (idx : Word) : Nat :=
  (BitVec.ofInt 64 (base + (if sgn then idx.toInt else (idx.toNat : Int)) * (match z with | .b => 1 | .h => 2 | .w => 4))).toNat

/-- The accesses of the selected lanes of an index token, in ascending lane order. -/
def laneAccesses (p : BenchPlane) (base : Nat) (z : ESize) (sgn : Bool) (idx : Payload) (mk : BitVec 16) : List Access :=
  ((List.range 16).filter (fun k => mk.getLsbD k)).map (fun k =>
    accessAt p (gatherAddr base z sgn (lane idx k)) (match z with | .b => 1 | .h => 2 | .w => 4) k)

/-- A lane of RED (R253) by its exact result: wrapped, clamped with SAT, or FP32. -/
def reduced (op : RedOp) (ty : RedType) (x y : Word) : Word × Flags :=
  match ty, op with
  | .f, .sum => faddW x y
  | .f, .max => (fmaxW x y, 0#8)
  | .f, .min => (fminW x y, 0#8)
  | .i, .sum => (BitVec.ofInt 32 (x.toInt + y.toInt), 0#8)
  | .is, .sum => saturated false (x.toInt + y.toInt)
  | .ns, .sum => saturated true (x.toNat + y.toNat)
  | .cs, .sum => (0#32, 0#8)
  | ty, .max => (BitVec.ofInt 32 (max (laneNum (ty == .ns) x) (laneNum (ty == .ns) y)), 0#8)
  | ty, .min => (BitVec.ofInt 32 (min (laneNum (ty == .ns) x) (laneNum (ty == .ns) y)), 0#8)

/-- The lanes of the carry-save tokens that a mask selects through lane 4j. -/
def ofLaneGroups (mk : BitVec 16) : BitVec 16 :=
  BitVec.ofNat 16 (((List.range 4).map (fun j => if mk.getLsbD (4 * j) then 15 * 2 ^ (4 * j) else 0)).sum)

/-! ### Steps of the device that are no words -/

/-- An element of a region's bench, as the state holds it. -/
def hasElem (s : State) (r b e : Nat) (x : Region) (y : Bench) (el : Element) : Prop :=
  s.regions.find? r = some x ∧ x.benches.find? b = some y ∧ y.elems.find? e = some el

/-- Tokens of an input buffer. -/
def buffer (s : State) (r b e n : Nat) : List Token := (((s.reg r).bench b).elem e).bufs.getD n []

/-- The state with another region's sequencer in focus. -/
def focused (s : State) (r : Nat) : State := { s with focus := { s.focus with region := r } }

/-- The four doublewords of a record. -/
def infos (t : TrapRec) (k : Nat) : DWord :=
  match k with
  | 0 => t.info0
  | 1 => t.info1
  | 2 => t.info2
  | _ => t.info3


/-- A bench of a region, as the state holds it. -/
def hasBench (s : State) (r b : Nat) (x : Region) (y : Bench) : Prop :=
  s.regions.find? r = some x ∧ x.benches.find? b = some y

/-- The requests of a port, one of them changed. -/
def withRequest (reqs : List Request) (n : Nat) (f : Request → Request) : List Request :=
  reqs.map (fun o => if o.seq = n then f o else o)

/-- The requests that a port holds. -/
def portReqs (s : State) (r b : Nat) : List Request := ((s.reg r).bench b).port.reqs


/-! ### Rounds, planes, launches and the package -/

/-- A record that a graph holds, by number. -/
def hasGraph (s : State) (g : Nat) (G : Graph) : Prop := s.graphs.find? g = some G

/-- Derrick and S are being run by a complex (R58). -/
def active (s : State) : Prop := s.sup.activeDie ≠ none

/-- A launch that has not ended, under a number that is no queue's space (log entry 6). -/
def liveJob (s : State) (j : Nat) (x : Job) : Prop := s.jobs.find? j = some x ∧ x.state < 4 ∧ j ≠ queueSpace

/-- The launch has ended in STATE 5 with a cause (R67). -/
def endedWith (s : State) (j : Nat) (c : BitVec 8) : Prop := (s.job j).state = 5 ∧ (s.job j).cause = c

/-- Fields of doubleword 0 and 1 of a barrier object (R302), as a number of 128 bits. -/
def objPhase (n : Nat) : Nat := n / 2 ^ 63 % 2
def objExpected (n : Nat) : Nat := n / 2 ^ 24 % 2 ^ 24
def objArrived (n : Nat) : Nat := n % 2 ^ 24
def objStatus (n : Nat) : Nat := n / 2 ^ 64 % 2 ^ 32
def objPend (n : Nat) : Nat := n / 2 ^ 96 % 2 ^ 32

/-- A round that R383 lets commit: every condition holds, and no tag of it is reported with ERR. -/
def commits (s : State) (g : Nat) (n : BitVec 24) : Prop := s.roundDone g n = true ∧ s.errTags g n = []

/-- The sixteen bytes of an object stand in one resident page at `pa`. -/
def objectAt (s : State) (job addr : Nat) (p : Part) : Prop :=
  s.seqCheck job 2 (some false) addr 16 = .ok [p] ∧ addr % 16 = 0 ∧ s.vatLocked p.leaf.pa = false

/-- The time of a first cycle of waiting or running counts in milliseconds of package time (R5, R31). -/
def milliseconds (units : Nat) : Nat := units / 130900000

/-- The grants that an image asks for find free entries on a die (R49, check 16). -/
def grantsFit (s : State) (die : Nat) (m : Image) : Prop := (m.entries 0x40 32).length ≤ (s.die die).freeGrants.length

/-- A region stands at a spot under an image. -/
def standsAt (x : Region) (p : Spot) (img : Nat) : Prop :=
  x.place.die = p.die ∧ x.place.row = p.row ∧ x.place.col = p.col ∧ x.place.img = img

/-- The registers of every element of a region are those of another. -/
def sameRegisters (x y : Region) : Prop :=
  ∀ b z e el, x.benches.find? b = some z → z.elems.find? e = some el → ((y.bench b).elem e).regs = el.regs

/-- A shrink or grow to shape k can be done at its boundary (R87, R88). -/
def shapeDue (s : State) (r k t img : Nat) (p : Spot) : Prop :=
  (s.reg r).shape = some (k, t) ∧ s.unit r = [r] ∧ s.shapeReady r = true ∧ s.shapeOf r k = some img
    ∧ (∀ h ∈ s.keptShadows r (fun h => h.state == 2 && h.img == img && h.ctx == 0), h = true)
    ∧ s.sameOrigin r img (s.occupied [r]) = some p
    ∧ (k = 8 ∨ s.inside r img = true)

/-- Milliseconds of package time in its units (R5). -/
def ms (n : Nat) : Nat := n * 130900000

/-- The state with one change of what Derrick and S hold. -/
def withSup (s : State) (p : Sup) : State := { s with sup := p }

/-- A started engine command whose time has come, that nothing has decided or voided. -/
def engineDue (s : State) (die idx : Nat) (e : EngCmd) : Prop :=
  (s.die die).engines.find? idx = some e ∧ e.result = none ∧ e.started = true ∧ (e.voided = false ∨ e.versioned = false)
    ∧ e.due ≤ s.cycle ∧ e.barrier = 0

/-- n bytes at an address lie in one 64-byte unit of a resident ordinary page with the permission of the access. -/
def oneUnit (s : State) (r job kind : Nat) (store : Option (BitVec 24)) (va n : Nat) (p : Part) : Prop :=
  0 < n ∧ va % 64 + n ≤ 64 ∧ s.engPage r job kind store va n = .ok p ∧ peVerp p.leaf.entry = false

/-- No line of storage is under copy (R232). -/
def noLocks (s : State) : Prop := ∀ die key line, s.lineLocked die key line = false

/-- Nothing else uses a bank of a Vat store in this cycle (R268). -/
def banksFree (s : State) : Prop := ∀ pa, s.vatTaken pa = false

/-- Bytes of physical memory from an address on. -/
def bytesFrom (s : State) (pa n : Nat) : List Byte := (List.range n).map (fun i => s.mem.read (pa + i))

/-- A register number and its value among the words that the debug port reads. -/
def debugWord (q : Seq) (ws : List DWord) : Prop :=
  (∀ n, 1 ≤ n → n < 64 → ws.getD n 0#64 = q.g.getD n 0#64) ∧ ws.getD 0 1#64 = 0#64 ∧ ws.getD 72 0#64 = q.pc
    ∧ ws.getD 73 0#64 = q.csrs.round.setWidth 64

/-- The instruction that a queued step of the device is: the constructor of the same name, with the same arguments. -/
def isStep (i : Instr) : Event → Prop
  | .blockCommit r => i = .blockCommit r
  | .blockCacheLineFill r addr => i = .blockCacheLineFill r addr
  | .ownerUpdate r b => i = .ownerUpdate r b
  | .resultWriteback r b e' => i = .resultWriteback r b e'
  | .firingMerge r b s' => i = .firingMerge r b s'
  | .drainTokenLanding r b s' => i = .drainTokenLanding r b s'
  | .elasticTokenArrival g c => i = .elasticTokenArrival g c
  | .creditReturn g c => i = .creditReturn g c
  | .queueMemoryTransfer g c => i = .queueMemoryTransfer g c
  | .controlTokenArrival r line => i = .controlTokenArrival r line
  | .memoryReply r b s' => i = .memoryReply r b s'
  | .pageWalk r b s' => i = .pageWalk r b s'
  | .parkedAccessAdmit die => i = .parkedAccessAdmit die
  | .parkedRetry die idx => i = .parkedRetry die idx
  | .freezeBudgetExpiry r => i = .freezeBudgetExpiry r
  | .replayStart g => i = .replayStart g
  | .roundCommit g => i = .roundCommit g
  | .regionRelease r => i = .regionRelease r
  | .barrierArrival job addr r status => i = .barrierArrival job addr r status
  | .switch r => i = .switch r
  | .passSwitch r => i = .passSwitch r
  | .fillComplete r => i = .fillComplete r
  | .trapEntry r => i = .trapEntry r
  | .trapAtS r => i = .trapAtS r
  | .trapResume r => i = .trapResume r
  | .trapForward r => i = .trapForward r
  | .trapEnd r => i = .trapEnd r
  | .trapRelaunch r => i = .trapRelaunch r
  | .waitTimeout r => i = .waitTimeout r
  | .ldverVersionWaitExpiry r => i = .ldverVersionWaitExpiry r
  | .notifyArrival n => i = .notifyArrival n
  | .launchPacket q => i = .launchPacket q
  | .cancelPacket q => i = .cancelPacket q
  | .queryPacket q => i = .queryPacket q
  | .reportMessageReceived m => i = .reportMessageReceived m
  | .residencyReport => i = .residencyReport
  | .placement job => i = .placement job
  | .gangStart job => i = .gangStart job
  | .gangLaunchTimeout job => i = .gangLaunchTimeout job
  | .priorityAging job => i = .priorityAging job
  | .shareWindowExpiry job => i = .shareWindowExpiry job
  | .preemption r => i = .preemption r
  | .preemptionRwaitExpiry r => i = .preemptionRwaitExpiry r
  | .contextSwap r => i = .contextSwap r
  | .resume r => i = .resume r
  | .relaunch r => i = .relaunch r
  | .capacityReduction die cls => i = .capacityReduction die cls
  | .shrink r => i = .shrink r
  | .grow r => i = .grow r
  | .gangMemberFailure job => i = .gangMemberFailure job
  | .gangRelaunchTimeout job => i = .gangRelaunchTimeout job
  | .heartbeat => i = .heartbeat
  | .missedHeartbeat => i = .missedHeartbeat
  | .takeover => i = .takeover
  | .lockstepMismatch die pair => i = .lockstepMismatch die pair
  | .standbyReturn die => i = .standbyReturn die
  | .keyInstallation q key lastSeq => i = .keyInstallation q key lastSeq
  | .translationInvalidation job => i = .translationInvalidation job
  | .delegationChange job code level => i = .delegationChange job code level
  | .supervisorStateWrite w => i = .supervisorStateWrite w
  | .retirementCommand die u => i = .retirementCommand die u
  | .ceWindowStart die => i = .ceWindowStart die
  | .correctableError die u => i = .correctableError die u
  | .uncorrectableError site => i = .uncorrectableError site
  | .evacuationLineCopy die u => i = .evacuationLineCopy die u
  | .evacuationComplete die u => i = .evacuationComplete die u
  | .oldBankRetirement die u => i = .oldBankRetirement die u
  | .laneRemap die segment => i = .laneRemap die segment
  | .scrub => i = .scrub
  | .linkFailure die link => i = .linkFailure die link
  | .migrationExamination die => i = .migrationExamination die
  | .migration job va frame => i = .migration job va frame
  | .peerTransferArrival x => i = .peerTransferArrival x
  | .flagAdd job addr => i = .flagAdd job addr
  | .engineCommandStart die idx => i = .engineCommandStart die idx
  | .engineCommandComplete die idx reply => i = .engineCommandComplete die idx reply
  | .coldStart => i = .coldStart
  | .powerLoss => i = .powerLoss
  | .readResidency => i = .readResidency
  | .readCapacity => i = .readCapacity
  | .readPower => i = .readPower
  | .attest nonce => i = .attest nonce
  | .installKey q key lastSeq => i = .installKey q key lastSeq
  | .coldReset => i = .coldReset
  | .writeChipNumber n => i = .writeChipNumber n
  | .debugUnlock token => i = .debugUnlock token
  | .debugHalt r => i = .debugHalt r
  | .debugStep r => i = .debugStep r
  | .debugReadRegisters r => i = .debugReadRegisters r
  | .debugResume r => i = .debugResume r
  | .powerSample microwatts temps => i = .powerSample microwatts temps
  | .shrinkRwaitExpiry r => i = .shrinkRwaitExpiry r
  | .memoryRequestPerformed r b s' => i = .memoryRequestPerformed r b s'
  | .collectiveMessageArrival m => i = .collectiveMessageArrival m
  | .gangMemberReportArrival job gindex m => i = .gangMemberReportArrival job gindex m

end Sys2Proof.Claims

section

open Sys2Proof Sys2Proof.Machine Sys2Proof.Claims

/-- R139: each integer form of major 0x01 fires and writes gd, by the rule of R137, with the result of the table. It
changes nothing else: the next state is the old one but for the block's own record of gd and of the word in turn. -/
def Obligations.IntegerFormsWriteTheirResult : Prop :=
  ∀ (s : State) (v : SeqView) (i : Instr) (d : GReg)
    (x : DWord),
    InTurn s v i → aluResult v.g v.p i = some (d, x) →
      exec i s = .next (s.setBlock (v.blk.put d x).advance)

/-- R140: a division by a divisor that is not zero writes gd with quotient or remainder; by zero it raises 0x20 with
a in TRAPINFO0 and the word's index in TRAPINFO1, poisons gd, and the block goes on to its next word. -/
def Obligations.DivisionWritesOrRaises : Prop :=
  ∀ (s : State) (v : SeqView) (i : Instr) (d : GReg)
    (a b x : DWord),
    InTurn s v i → divResult v.g i = some (d, a, b, x) →
      (b ≠ 0#64 → exec i s = .next (s.setBlock (v.blk.put d x).advance))
      ∧ (b = 0#64 → exec i s = .next (s.setBlock
          ((v.blk.raise 0x20 a (BitVec.ofNat 64 (v.blk.idx % 256)) 0#64 0#64).setG d ⟨0#64, true⟩).advance))

/-- R142, R143, R144: the immediate forms. -/
def Sys2Proof.Claims.ImmediateFormsWriteTheirResult : Prop :=
  ∀ (s : State) (v : SeqView) (i : Instr) (d : GReg)
    (x : DWord),
    InTurn s v i → immResult v.g i = some (d, x) →
      exec i s = .next (s.setBlock (v.blk.put d x).advance)

/-- R145, R146: compares and predicate forms write one predicate. -/
def Sys2Proof.Claims.PredicateFormsWriteTheirResult : Prop :=
  ∀ (s : State) (v : SeqView) (i : Instr) (q : PReg) (x : Bool),
    InTurn s v i → predResult v.g v.p i = some (q, x) →
      exec i s = .next (s.setBlock (v.blk.setP q (x, false)).advance)

/-- R142 to R146: the immediate forms, the compares and the predicate forms. -/
def Obligations.ImmediateAndPredicateForms : Prop :=
  ImmediateFormsWriteTheirResult ∧ PredicateFormsWriteTheirResult

/-- R147: an exit whose predicate equals not sense joins the exits of the block that hold, with its target; another
one marks its index as failed (R150). -/
def Sys2Proof.Claims.ExitsRecordTheirCondition : Prop :=
  ∀ (s : State) (v : SeqView) (i : Instr) (sense call : Bool)
    (q : PReg) (x : Fin 4) (target : DWord),
    InTurn s v i → exitForm v i = some (sense, q, x, target, call) →
      (v.p q = !sense → exec i s = .next (s.setBlock
        ({ v.blk with exits := v.blk.exits ++ [⟨x.val, target, call, v.blk.idx⟩] } : Block).advance))
      ∧ (v.p q = sense → exec i s = .next (s.setBlock ({ v.blk with failed := v.blk.failed ||| 2 ^ x.val } : Block).advance))

/-- R136, R121: g0 reads zero and p0 reads true in every block, and writing them changes nothing. -/
def Sys2Proof.Claims.ZeroRegisterAndTruePredicate : Prop :=
  ∀ (v : SeqView) (b : Block) (x : SVal) (y : Bool × Bool),
    v.g 0 = 0#64 ∧ v.p 0 = true ∧ b.setG 0 x = b ∧ b.setP 0 y = b

/-- R137, R121: a register reads what the nearest earlier word of the block wrote, else its value at block entry; a
write of one register leaves every other as it reads. -/
def Sys2Proof.Claims.RegistersReadTheNearestWrite : Prop :=
  ∀ (v : SeqView) (d n : GReg) (x : DWord), d ≠ 0 →
    (({ v with blk := v.blk.put d x } : SeqView).g d = x)
    ∧ (n ≠ d → ({ v with blk := v.blk.put d x } : SeqView).g n = v.g n)
    ∧ (v.blk.gw.find? n.val = none → n ≠ 0 → v.g n = v.reg.seq.g.getD n.val 0#64)

/-- R119, R138: the header is in turn at index 0. When the exits of the body are those its count names, each index
once, and its stores are as many as the header says (a flag standing for 32), it fires and does nothing else; a wrong
set of exits raises 0x01 with reason 7, a wrong count of stores with reason 8. -/
def Sys2Proof.Claims.HeaderChecksExitsAndStores : Prop :=
  ∀ (s : State) (v : SeqView) (l : Fin 128) (x : Fin 4) (n : Fin 32) (f : Bool),
    let exits := (v.blk.words.drop 1).filterMap exitIndex
    let stores := ((v.blk.words.drop 1).filter countsAsStore).length
    let exitsOk := exits.length = x.val + 1 ∧ ∀ k ≤ x.val, k ∈ exits
    let storesOk := stores = if f then 32 else n.val
    let illegal (k : Nat) : Block :=
      (v.blk.raise 0x01 ((v.blk.words.getD 0 0#32).setWidth 64) (BitVec.ofNat 64 (k * 256)) 0#64 0#64).advance
    InTurn s v (.blk l x n f) → v.blk.idx = 0 →
      (exitsOk ∧ storesOk → exec (.blk l x n f) s = .next (s.setBlock v.blk.advance))
      ∧ (¬exitsOk → exec (.blk l x n f) s = .next (s.setBlock (illegal 7)))
      ∧ (exitsOk ∧ ¬storesOk → exec (.blk l x n f) s = .next (s.setBlock (illegal 8)))

/-- R119, R121, R136 to R138, R147: what a word of a block reads, the registers that are wired, headers and exits. -/
def Obligations.HeadersExitsAndRegisters : Prop :=
  ZeroRegisterAndTruePredicate ∧ RegistersReadTheNearestWrite ∧ HeaderChecksExitsAndStores ∧ ExitsRecordTheirCondition

/-- R151 to R154, R310: a load whose pages pass their checks, whose bytes carry no error mark that the block has not
stored over and lie in no locked line writes gd with those bytes, the lowest address least significant: each byte as an
earlier store of the block left it, else as memory holds it. -/
def Sys2Proof.Claims.LoadsReadMemory : Prop :=
  ∀ (s : State) (v : SeqView) (i : Instr) (d : GReg) (ea n : Nat) (sgn : Bool) (named : Option (BitVec 24))
    (parts : List Part) (as : List (Option Nat)),
    InTurn s v i → loadForm v i = some (d, ea, n, sgn, named) → loadChecked s v i ea n parts →
      s.addrs v.reg.writer named parts = .ok as false → readable s v as →
      ∃ b, exec i s = .next (s.setBlock b.advance) ∧ readInto s v as d (loaded sgn (as.map (v.loadByte s.mem))) b

/-- R94: a load reads the byte that the latest earlier store of its block puts at the address. -/
def Sys2Proof.Claims.LoadsSeeEarlierStoresOfTheBlock : Prop :=
  ∀ (acts : List (Nat × Act)) (k pa : Nat) (bs : List (Nat × Byte)) (b : Byte),
    (storedByte [] pa = none)
    ∧ (storedByte (acts ++ [(k, .store (bs ++ [(pa, b)]))]) pa = some b)
    ∧ ((∀ x ∈ bs, x.1 ≠ pa) → storedByte (acts ++ [(k, .store bs)]) pa = storedByte acts pa)

/-- R94, R151 to R154, R310: loads. -/
def Obligations.LoadsReturnTheBytes : Prop :=
  LoadsReadMemory ∧ LoadsSeeEarlierStoresOfTheBlock

/-- R152, R344: a load, store or version word whose access fails a check raises memory-load 0x41, memory-store 0x42, or
for check 4 page-not-resident 0x43, with the address in TRAPINFO0, and word index and check in TRAPINFO1. -/
def Obligations.FailedAccessRaises : Prop :=
  ∀ (s : State) (v : SeqView) (d a b : GReg) (z : Size) (o : BitVec 11) (g : Bool) (c va : Nat),
    let info (store : Bool) : DWord :=
      BitVec.ofNat 64 (v.blk.idx % 256 + 256 * (c + (if store = true ∧ c = 4 then 256 else 0)))
    let load : Answer := .next (s.setBlock
      ((v.blk.raise (if c = 4 then 0x43 else 0x41) (BitVec.ofNat 64 va) (info false) 0#64 0#64).setG d ⟨0#64, true⟩).advance)
    let store : Answer := .next (s.setBlock
      (v.blk.raise (if c = 4 then 0x43 else 0x42) (BitVec.ofNat 64 va) (info true) 0#64 0#64).advance)
    let ea := smAddress (v.g a) z o
    (InTurn s v (.ld d a z o) → (s.tlb v.r).seqCheck v.reg.job 0 none ea (sizeBytes z) = .fail c va →
        exec (.ld d a z o) s = load)
    ∧ (InTurn s v (.ldSigned d a z o) → (s.tlb v.r).seqCheck v.reg.job 0 none ea (sizeBytes z) = .fail c va →
        exec (.ldSigned d a z o) s = load)
    ∧ (InTurn s v (.ldver d a b g z) → (s.tlb v.r).seqCheck v.reg.job 0 (some true) (v.g a).toNat (sizeBytes z) = .fail c va →
        exec (.ldver d a b g z) s = load)
    ∧ (InTurn s v (.st d a z o) → (s.tlb v.r).seqCheck v.reg.job 1 (some false) ea (sizeBytes z) = .fail c va →
        exec (.st d a z o) s = store)
    ∧ (InTurn s v (.stver d a z o) → (s.tlb v.r).seqCheck v.reg.job 1 (some true) ea (sizeBytes z) = .fail c va →
        exec (.stver d a z o) s = store)
    ∧ (InTurn s v (.reclaim a b) → (s.tlb v.r).seqCheck v.reg.job 1 (some true) (v.g a).toNat 1 = .fail c va →
        exec (.reclaim a b) s = store)

/-- R154: a store whose pages pass their checks leaves for the commit one byte at each physical address it checked, the
lowest byte of the register at the lowest; memory itself does not change yet. -/
def Sys2Proof.Claims.StoresWaitForTheCommit : Prop :=
  ∀ (s : State) (v : SeqView) (r a : GReg) (z : Size) (o : BitVec 11) (parts : List Part),
    InTurn s v (.st r a z o) → (s.tlb v.r).seqCheck v.reg.job 1 (some false) (smAddress (v.g a) z o) (sizeBytes z) = .ok parts →
      let pas := parts.flatMap (fun p => (List.range p.len).map (fun k => p.leaf.pa + k))
      let bytes := (List.range (sizeBytes z)).map (fun k => (v.g r).extractLsb' (8 * k) 8)
      exec (.st r a z o) s = .next (s.setBlock (v.blk.act (.store (pas.zip bytes))).advance)

/-- R311, R312: STVER to a line with a slot of its round writes that slot at commit; with a free one it takes it first;
RECLAIM leaves a reclaim of the line's round for the commit. -/
def Sys2Proof.Claims.VersionWordsNameTheirSlot : Prop :=
  ∀ (s : State) (v : SeqView) (r a b : GReg) (z : Size) (o : BitVec 11) (p : Part) (ps : List Part) (k : Nat)
    (fresh : Bool),
    let round := v.blk.csrs.round
    let line := p.leaf.vline
    let ea := smAddress (v.g a) z o
    let base := line.data k + (p.leaf.pa - p.leaf.frame) % 32
    let bytes := (List.range (sizeBytes z)).map (fun j => (base + j, (v.g r).extractLsb' (8 * j) 8))
    let blk := { v.blk.act (.stver bytes line.dir round) with
      slots := if fresh = true then v.blk.slots ++ [(line.dir, k)] else v.blk.slots }
    s.badBytes line.dir 32 = false →
      (InTurn s v (.stver r a z o) → (s.tlb v.r).seqCheck v.reg.job 1 (some true) ea (sizeBytes z) = .ok (p :: ps) →
        ea / 32 = (ea + sizeBytes z - 1) / 32 → versStoreSlot s.mem line.dir v.reg.writer round = (.slot k, fresh) →
        exec (.stver r a z o) s = .next
          (({ s with mem := if fresh = true then versTake s.mem line k v.reg.writer round else s.mem } : State).setBlock blk.advance))
      ∧ (InTurn s v (.reclaim a b) → (s.tlb v.r).seqCheck v.reg.job 1 (some true) (v.g a).toNat 1 = .ok (p :: ps) →
        exec (.reclaim a b) s = .next (s.setBlock (v.blk.act (.reclaim line.dir ((v.g b).setWidth 24))).advance))

/-- R154, R311, R312: stores and version words. -/
def Obligations.StoresAndVersions : Prop :=
  StoresWaitForTheCommit ∧ VersionWordsNameTheirSlot

/-- R313: an atomic aligned to its width, on an ordinary page with the permissions of an atomic, leaves its update for
the commit; a misaligned one raises memory-store with check 5. -/
def Sys2Proof.Claims.AtomicsWaitForTheCommit : Prop :=
  ∀ (s : State) (v : SeqView) (i : Instr) (op n : Nat) (d a b : GReg) (p : Part) (ps : List Part),
    InTurn s v i → atomicForm i = some (op, d, a, b, n) →
      (s.tlb v.r).seqCheck v.reg.job 2 (some false) (v.g a).toNat n = .ok (p :: ps) →
      ((v.g a).toNat % n = 0 → exec i s = .next (s.setBlock
        (v.blk.act (.atomic op d p.leaf.pa (n == 8) (v.g b) (v.g d))).advance))
      ∧ ((v.g a).toNat % n ≠ 0 → exec i s = .next (s.setBlock (v.blk.raise 0x42 (v.g a)
          (BitVec.ofNat 64 (v.blk.idx % 256 + 5 * 256)) 0#64 0#64).advance))

/-- R313: the update of an atomic at its commit: memory holds the new number in the operand's bytes and every other
byte as before, and the result is the old number, zero-extended. -/
def Sys2Proof.Claims.AtomicsUpdateMemoryAtCommit : Prop :=
  ∀ (s : State) (die op pa new : Nat) (dbl : Bool) (x c : DWord),
    let n := if dbl = true then 8 else 4
    let old := s.mem.readNat pa n
    atomicResult op (8 * n) old (x.toNat % 2 ^ (8 * n)) (c.toNat % 2 ^ (8 * n)) = some new →
      (s.doAtomic die op pa dbl x c).2 = BitVec.ofNat 64 old
      ∧ (s.doAtomic die op pa dbl x c).1.mem.readNat pa n = new
      ∧ (∀ q, q < pa ∨ pa + n ≤ q → (s.doAtomic die op pa dbl x c).1.mem.read q = s.mem.read q)

/-- R313: atomics at issue and at commit. -/
def Obligations.AtomicsReadAndWrite : Prop :=
  AtomicsWaitForTheCommit ∧ AtomicsUpdateMemoryAtCommit

/-- R315: an engine command whose descriptor and barrier object pass their checks leaves the command for the commit,
with the descriptor's address, the barrier object and the round of the block. -/
def Obligations.EngineCommandsAreIssued : Prop :=
  ∀ (s : State) (v : SeqView) (i : Instr) (cmd : Nat) (d a b : GReg) (parts : List Part) (as : List (Option Nat)),
    InTurn s v i → engineForm i = some (cmd, d, a, b) →
      (s.tlb v.r).seqCheck v.reg.job 0 none (v.g a).toNat 64 = .ok parts → (v.g a).toNat % 64 = 0 →
      s.addrs v.reg.writer none parts = .ok as false →
      (∀ pa, some pa ∈ as → s.badBytes pa 1 = false ∨ storedByte v.blk.acts pa ≠ none) →
      (v.g b = 0#64 ∨ (s.tlb v.r).arrivalCheck v.reg.job (v.g b).toNat = none) →
      exec i s = .next (s.setBlock
        (v.blk.act (.engine cmd d (v.g a).toNat (v.g b).toNat v.blk.csrs.round)).advance)

/-- R321, R325, R340 to R343: these words fire at once and leave their act for the commit of their block. -/
def Sys2Proof.Claims.WordsThatActAtCommit : Prop :=
  ∀ (s : State) (v : SeqView) (i : Instr) (a : Act),
    InTurn s v i → plainAct v i = some a → exec i s = .next (s.setBlock (v.blk.act a).advance)

/-- R322 to R332: control words of fabric and Vat leave their act for the commit where the region allows them; else
they raise fabric-state 0x98 or vat-map-invalid 0x64 with the operand in TRAPINFO0 and the index in TRAPINFO1. -/
def Sys2Proof.Claims.FabricAndVatControlWords : Prop :=
  ∀ (s : State) (v : SeqView) (i : Instr) (ok : Prop) (a : Act) (cause : Nat) (x : DWord),
    InTurn s v i → checkedAct s v i = some (ok, a, cause, x) →
      (ok → exec i s = .next (s.setBlock (v.blk.act a).advance))
      ∧ (¬ok → ∃ b, exec i s = .next (s.setBlock b) ∧ b.acts = v.blk.acts ∧ b.idx = v.blk.idx + 1
          ∧ (v.blk.exc = none → b.exc = some (v.blk.idx, ⟨BitVec.ofNat 8 cause, .block, BitVec.ofNat 57 v.blk.addr, 0#24, x,
              BitVec.ofNat 64 (v.blk.idx % 256), 0#64, 0#64, 0⟩)))

/-- R329: FEXT reads state of the stopped fabric into gd: the stop has to hold at the entry of its block and still; a
selection that names nothing, or a running fabric, raises 0x98. -/
def Sys2Proof.Claims.FextReadsTheStoppedFabric : Prop :=
  ∀ (s : State) (v : SeqView) (d a : GReg),
    InTurn s v (.fext d a) →
      (∀ x, v.blk.stopAtEntry = true → v.reg.fab.stop = true → v.reg.fext (v.g a).toNat = some x →
        exec (.fext d a) s = .next (s.setBlock (v.blk.put d x).advance))
      ∧ (v.blk.stopAtEntry = false ∨ v.reg.fab.stop = false ∨ v.reg.fext (v.g a).toNat = none →
        exec (.fext d a) s = .next (s.setBlock ((v.blk.raise 0x98 (v.g a)
          (BitVec.ofNat 64 (v.blk.idx % 256)) 0#64 0#64).setG d ⟨0#64, true⟩).advance))

/-- R333, R295: RNDEND fires only when every earlier round has committed: it leaves the round's end for the commit and
advances FPASS within a folded round, ROUND at its end; else it waits. -/
def Sys2Proof.Claims.RndendEndsRoundOrPass : Prop :=
  ∀ (s : State) (v : SeqView) (a : GReg),
    let c := v.blk.csrs
    let c' : Csrs := if c.fpass.toNat < v.reg.place.fold then { c with fpass := c.fpass + 1 }
      else { c with round := c.round + 1, fpass := 0#4 }
    InTurn s v (.rndend a) →
      (c.round = v.reg.lastRnd + 1 → exec (.rndend a) s = .next (s.setBlock
        ({ v.blk.act (.rndend ((v.g a).toNat % 256)) with csrs := c' } : Block).advance))
      ∧ (c.round ≠ v.reg.lastRnd + 1 → exec (.rndend a) s = .next (s.setBlock (waitingBlock s v.blk)))

/-- R334, R298: RNDWAIT returns the last committed round once the round named has committed, waits while it has not,
and raises 0x94 when the two are ordered neither way. -/
def Sys2Proof.Claims.RndwaitWaitsForTheRound : Prop :=
  ∀ (s : State) (v : SeqView) (d a b : GReg),
    let n := (v.g a).setWidth 24
    let l := v.reg.lastRnd
    let ahead := (n - l).toNat
    InTurn s v (.rndwait d a b) →
      (ahead = 0 ∨ 2 ^ 23 < ahead → exec (.rndwait d a b) s = .next (s.setBlock (v.blk.put d (l.setWidth 64)).advance))
      ∧ (0 < ahead ∧ ahead < 2 ^ 23 → exec (.rndwait d a b) s = .next (s.setBlock (waitingBlock s v.blk)))
      ∧ (ahead = 2 ^ 23 → exec (.rndwait d a b) s = .next (s.setBlock ((v.blk.raise 0x94 0#64
          (BitVec.ofNat 64 (v.blk.idx % 256)) 0#64 (BitVec.ofNat 64 (n.toNat * 2 ^ 24 + l.toNat))).setG d ⟨0#64, true⟩).advance))

/-- R326: FDRAIN returns the last committed round once every earlier round has committed and no token of one is left
in a buffer; else it waits. -/
def Sys2Proof.Claims.FdrainWaitsForTheFabric : Prop :=
  ∀ (s : State) (v : SeqView) (d b : GReg),
    let drained := v.blk.csrs.round = v.reg.lastRnd + 1 ∧ ∀ t ∈ s.buffered v.r false, precedes t.round v.blk.csrs.round = false
    InTurn s v (.fdrain d b) →
      (drained → exec (.fdrain d b) s = .next (s.setBlock (v.blk.put d (v.reg.lastRnd.setWidth 64)).advance))
      ∧ (¬drained → exec (.fdrain d b) s = .next (s.setBlock (waitingBlock s v.blk)))

/-- R336, R337: BARSTAT returns an object's phase, count and status; BARWAIT does once the phase differs from the
expected one, FLAGWAIT the flag once it has reached the value, and both wait till then. -/
def Sys2Proof.Claims.WaitsObserveMemory : Prop :=
  ∀ (s : State) (v : SeqView) (i : Instr) (d : GReg) (ea n x : Nat) (now : Bool) (y : DWord) (parts : List Part)
    (as : List (Option Nat)),
    InTurn s v i → observeForm v x i = some (d, ea, n, now, y) → (s.tlb v.r).seqCheck v.reg.job 0 none ea n = .ok parts →
      s.addrs v.reg.writer none parts = .ok as false → readable s v as →
      littleEndian (as.map (v.loadByte s.mem)) = x →
      (now = true → ∃ b, exec i s = .next (s.setBlock b.advance) ∧ readInto s v as d y b)
      ∧ (now = false → exec i s = .next (s.setBlock (waitingBlock s v.blk)))

/-- R335, R337: an arrival whose object passes its checks, and a notification of an aligned doubleword, wait for the
commit of their block. -/
def Sys2Proof.Claims.ArrivalsAndNotifications : Prop :=
  ∀ (s : State) (v : SeqView) (a b : GReg) (p : Part) (ps : List Part),
    (InTurn s v (.bararr a b) → (s.tlb v.r).arrivalCheck v.reg.job (v.g a).toNat = none →
      exec (.bararr a b) s = .next (s.setBlock (v.blk.act (.bararr (v.g a).toNat ((v.g b).setWidth 32))).advance))
    ∧ (InTurn s v (.notify a b) → (s.tlb v.r).seqCheck v.reg.job 2 (some false) (v.g a).toNat 8 = .ok (p :: ps) → (v.g a).toNat % 8 = 0 →
      exec (.notify a b) s = .next (s.setBlock (v.blk.act (.notify p.leaf.pa (v.g b))).advance))

/-- R118, R338: CSRR reads a control register into gd, with the block's earlier writes. -/
def Sys2Proof.Claims.CsrrReadsControlRegisters : Prop :=
  ∀ (s : State) (v : SeqView) (d : GReg) (k : BitVec 12) (x : DWord),
    InTurn s v (.csrr d k) → controlRegister v k.toNat = some x →
      exec (.csrr d k) s = .next (s.setBlock (v.blk.put d x).advance)

/-- R118, R230, R338: CSRW, CSRS and CSRC write, set and clear bits of a control register: what a later word of the
block reads is the new value within the register's width, reserved bits of BMAPSEL as zero, and every other control
register as before. CAPVEC only takes CSRC. -/
def Sys2Proof.Claims.ControlRegisterWrites : Prop :=
  ∀ (s : State) (v : SeqView) (i : Instr) (r : GReg) (k : BitVec 12) (w : Nat) (old new : DWord),
    InTurn s v i → controlRegister v k.toNat = some old →
      (i = .csrw r k ∧ new = v.g r ∨ i = .csrs r k ∧ new = old ||| v.g r ∨ i = .csrc r k ∧ new = old &&& ~~~v.g r) →
      (writableWidth k.toNat = some w ∨ i = .csrc r k ∧ k = 0x005#12 ∧ w = 8) →
      ∃ b, exec i s = .next (s.setBlock b) ∧ b.idx = v.blk.idx + 1 ∧ b.gw = v.blk.gw ∧ b.acts = v.blk.acts
        ∧ controlRegister { v with blk := b } k.toNat = some (BitVec.ofNat 64
            (new.toNat % 2 ^ w / (if k = 0x006#12 then 2 ^ 37 else 1) * (if k = 0x006#12 then 2 ^ 37 else 1)))
        ∧ ∀ j, j ≠ k.toNat → controlRegister { v with blk := b } j = controlRegister v j

/-- R80, R339: CAPRD gives the reading of a class: for the classes of a die, of an element and of a sequencer the full
value less what has been retired there; a unit outside the fields of its class reads all ones. -/
def Sys2Proof.Claims.CaprdCountsLiveUnits : Prop :=
  ∀ (s : State) (v : SeqView) (d a b : GReg),
    let cls := (v.g a).toNat % 8
    let unit := (v.g b).toNat
    let die := s.die (unit % 4)
    let bench := unit / 4 % 256
    let elem := unit / 1024 % 16
    let exists_ := if cls ≤ 4 then unit < 4 else if cls = 7 then unit < 1024 else unit < 2 ^ 14
    InTurn s v (.caprd d a b) →
      ∃ x, exec (.caprd d a b) s = .next (s.setBlock (v.blk.put d x).advance)
        ∧ (¬exists_ → x = BitVec.allOnes 64)
        ∧ (exists_ → cls = 0 → x = BitVec.ofNat 64 (256 - die.retiredBenches.length))
        ∧ (exists_ → cls = 1 → x = BitVec.ofNat 64 (64 - die.retiredSegs.length))
        ∧ (exists_ → cls = 2 → x = BitVec.ofNat 64
            ((upTo 64).filter (fun g => !die.retiredSegs.contains g && die.lanesLost.getD g 0 == 0)).length)
        ∧ (exists_ → cls = 3 → x = BitVec.ofNat 64
            ((upTo 64).filter (fun g => (upTo 16).all (fun k => (die.bank (bankKey 3 0 0 (16 * g + k))).state != 3))).length)
        ∧ (exists_ → cls = 4 → x = BitVec.ofNat 64 (192 - die.channelsLost.length))
        ∧ (exists_ → cls = 5 → bench ∉ die.retiredBenches → x = BitVec.ofNat 64 (8 - die.localBanksLost.getD (16 * bench + elem) 0))
        ∧ (exists_ → cls = 6 → bench ∉ die.retiredBenches → x = BitVec.ofNat 64 (4 - die.regBanksLost.getD (16 * bench + elem) 0))
        ∧ (exists_ → cls = 7 → bench ∉ die.retiredBenches → x = BitVec.ofNat 64 (4 - (die.cacheBanksLost.getD bench []).length))

/-- R230, R339: BMAPRD reads the bank map entry that BMAPSEL selects: STATE, PHYS, CECNT and, while its bank is being
evacuated, NEWPHYS and CURSOR; a reserved class, a unit beyond the class or a nonzero field that the class does not use
reads STATE 7 alone. The units of class 1 are the logical register banks, which the live banks serve in order (R38). -/
def Sys2Proof.Claims.BmaprdReadsTheSelectedEntry : Prop :=
  ∀ (s : State) (v : SeqView) (d : GReg),
    let sel := v.blk.csrs.bmapsel.toNat
    let cls := sel / 2 ^ 61
    let die := s.die (sel / 2 ^ 59 % 4)
    let bench := sel / 2 ^ 51 % 256
    let elem := sel / 2 ^ 47 % 16
    let unit := sel / 2 ^ 37 % 1024
    let selects := (cls = 0 ∧ unit < 8) ∨ (cls = 1 ∧ unit < 4) ∨ (cls = 2 ∧ unit < 4 ∧ elem = 0)
      ∨ (cls = 3 ∧ bench = 0 ∧ elem = 0) ∨ (cls = 4 ∧ unit < 192 ∧ bench = 0 ∧ elem = 0)
    let e := die.bank (bankKey cls (if cls < 3 then bench else 0) (if cls < 2 then elem else 0) unit)
    let live := (upTo 4).filter (fun k => (die.bank (bankKey 1 bench elem k)).state != 3)
    let entry (st phys new cur ce : Nat) : DWord :=
      BitVec.ofNat 64 (st * 2 ^ 61 + phys % 2 ^ 11 * 2 ^ 50 + new % 2 ^ 11 * 2 ^ 39 + cur % 2 ^ 12 * 2 ^ 27 + ce % 2 ^ 16 * 2 ^ 11)
    InTurn s v (.bmaprd d) →
      ∃ x, exec (.bmaprd d) s = .next (s.setBlock (v.blk.put d x).advance)
        ∧ (¬selects → x = entry 7 0 0 0 0)
        ∧ (selects → cls = 0 ∨ cls = 3 → x = if e.state = 2 then entry 2 e.phys e.newPhys e.cursor e.cecnt
            else entry e.state e.phys 0 0 e.cecnt)
        ∧ (selects → cls = 1 → ∀ k, live[unit]? = some k →
            x = entry (if k = unit then 0 else 1) k 0 0 (die.bank (bankKey 1 bench elem k)).cecnt)
        ∧ (selects → cls = 1 → live[unit]? = none → x = entry 3 unit 0 0 e.cecnt)
        ∧ (selects → cls = 2 → x = entry (if unit ∈ die.cacheBanksLost.getD bench [] then 3 else 0) e.phys 0 0 e.cecnt)
        ∧ (selects → cls = 4 → x = entry (if unit ∈ die.channelsLost then 3 else 0) e.phys 0 0 e.cecnt)

/-- R118, R230, R338, R339: control registers and capacity words. -/
def Obligations.ControlRegisterWords : Prop :=
  CsrrReadsControlRegisters ∧ ControlRegisterWrites ∧ CaprdCountsLiveUnits ∧ BmaprdReadsTheSelectedEntry

/-- R314, R343: FENCE and NOP fire and do nothing else, and so does every HINT but #1; HINT #1 begins at most the fill
of one line of the block cache. -/
def Sys2Proof.Claims.FencesAndHints : Prop :=
  ∀ (s : State) (v : SeqView) (o : FenceOrder) (c : Scope) (n : GReg) (k : BitVec 12),
    (InTurn s v (.fence o c) → exec (.fence o c) s = .next (s.setBlock v.blk.advance))
    ∧ (InTurn s v .nop → exec .nop s = .next (s.setBlock v.blk.advance))
    ∧ (InTurn s v (.hint n k) → k ≠ 1#12 → exec (.hint n k) s = .next (s.setBlock v.blk.advance))
    ∧ (InTurn s v (.hint n 1#12) →
        exec (.hint n 1#12) s = .next (s.setBlock v.blk.advance)
        ∨ exec (.hint n 1#12) s = .next ((s.startLineFill v.r ((v.g n).toNat / 64 * 64)).setBlock v.blk.advance))

/-- R314, R321 to R332, R340 to R343: control words of the sequencer. -/
def Obligations.ControlWordsAct : Prop :=
  WordsThatActAtCommit ∧ FabricAndVatControlWords ∧ FextReadsTheStoppedFabric ∧ FencesAndHints

/-- R120, R307, R96: an integer form with a reason against it raises illegal-instruction 0x01 (for reason 11 privileged 0x02)
with the word in TRAPINFO0 and its index and the reason in TRAPINFO1, and does nothing else than poison its result; one that
reads a poisoned value does nothing else than that. At J, TRET and the trap registers have reason 11. -/
def Sys2Proof.Claims.RefusedAndPoisonedWords : Prop :=
  ∀ (s : State) (v : SeqView) (i : Instr) (d : GReg) (x : Nat) (y : DWord),
    let poisoned (q : Block) : Block := (q.setG d ⟨0#64, true⟩).advance
    s.seqView = some v →
      (aluResult v.g v.p i = some (d, y) → v.reason i = some x →
        exec i s = .next (s.setBlock (poisoned (v.blk.raise (if x = 11 then 0x02 else 0x01)
          ((v.blk.words.getD v.blk.idx 0#32).setWidth 64) (BitVec.ofNat 64 (v.blk.idx % 256 + x * 256)) 0#64 0#64))))
      ∧ (aluResult v.g v.p i = some (d, y) → v.reason i = none → v.poisoned i = true →
        exec i s = .next (s.setBlock (poisoned v.blk)))
      ∧ (∀ k, v.blk.csrs.priv = false → (v.reason .tret = some 11)
          ∧ (0x101#12 ≤ k → k ≤ 0x107#12 → v.reason (.csrr d k) = some 11))

/-- R96: of the causes that words of a block raise, the one lowest in block order stands. -/
def Sys2Proof.Claims.LowestCauseStands : Prop :=
  ∀ (b : Block) (c : Nat) (i0 i1 i2 i3 : DWord),
    let e' := (b.idx, (⟨BitVec.ofNat 8 c, .block, BitVec.ofNat 57 b.addr, 0#24, i0, i1, i2, i3, 0⟩ : TrapRec))
    (b.exc = none → (b.raise c i0 i1 i2 i3).exc = some e')
    ∧ (∀ e, b.exc = some e → e.1 ≤ b.idx → (b.raise c i0 i1 i2 i3).exc = some e)
    ∧ (∀ e, b.exc = some e → b.idx < e.1 → (b.raise c i0 i1 i2 i3).exc = some e')

/-- R96, R120: illegal, privileged and poisoned words. -/
def Obligations.WordsThatCannotRun : Prop :=
  RefusedAndPoisonedWords ∧ LowestCauseStands

/-- The frame of a word in turn that neither takes a version slot nor prefetches: when it gives a next state, all that
can differ from the old one is the block in flight of its own sequencer. No register, predicate, control register, byte
of memory or other region changes before the block commits (R95). -/
def Obligations.WordsChangeOnlyTheirBlock : Prop :=
  ∀ (s t : State) (v : SeqView) (i : Instr) (x : GReg × DWord) (y : PReg × Bool),
    s.seqView = some v →
      (aluResult v.g v.p i = some x ∨ immResult v.g i = some x ∨ predResult v.g v.p i = some y ∨ (divResult v.g i).isSome = true
        ∨ (exitForm v i).isSome = true ∨ (loadForm v i).isSome = true ∨ (atomicForm i).isSome = true
        ∨ (engineForm i).isSome = true ∨ (plainAct v i).isSome = true
        ∨ (∃ r a z o, i = .st r a z o) ∨ (∃ a b, i = .reclaim a b) ∨ (∃ a, i = .rndend a)) →
      exec i s = .next t →
        (∃ b, t = s.setBlock b) ∧ (∀ a, t.mem.read a = s.mem.read a) ∧ t.dies = s.dies ∧ t.graphs = s.graphs
        ∧ (∀ r, (t.reg r).seq.g = (s.reg r).seq.g ∧ (t.reg r).seq.p = (s.reg r).seq.p ∧ (t.reg r).seq.pc = (s.reg r).seq.pc
            ∧ (t.reg r).seq.csrs = (s.reg r).seq.csrs)

/-- R188, R189, R180 to R182, R205: an integer or bit operation whose inputs hold data gives its bundle exactly the
effects of R182, with the exact result in every selected lane. -/
def Obligations.IntegerLanes : Prop :=
  ∀ (s : State) (v : View) (i : Instr) (srcs : List Opnd) (d : Opnd) (m : LMask) (lat : Nat)
    (f : (Nat → Payload) → Nat → Word × Flags),
    s.view i = some v → integerOp i = some (srcs, d, m, lat, f) → dataReady v srcs →
      exec i s = .next (s.enter (oneResult v srcs d m lat f))

/-- R185 to R187, R193, R205: floating point lane by lane, and FCMP, which writes a mask: a bit of a selected lane is the
condition, of another lane 0. -/
def Sys2Proof.Claims.FloatingLanes : Prop :=
  (∀ (s : State) (v : View) (i : Instr) (srcs : List Opnd) (d : Opnd) (m : LMask) (lat : Nat)
    (f : (Nat → Payload) → Nat → Word × Flags),
    s.view i = some v → floatOp i = some (srcs, d, m, lat, f) → dataReady v srcs →
      exec i s = .next (s.enter (oneResult v srcs d m lat f)))
  ∧ (∀ (s : State) (v : View) (c : FCond) (t : LType) (md m : LMask) (a b : Opnd),
    s.view (.fcmp c t md a b m) = some v → dataReady v [a, b] →
      ∃ p, exec (.fcmp c t md a b m) s
          = .next (s.enter (computeEffects v [a, b] m false [⟨1, .mask md.val, 0xFFFF#16, .data, p⟩] 0#8))
        ∧ ∀ i < 16, p.getLsbD i = ((v.mask m).val.getLsbD i && cmpLane c t (lane (v.read a).val i) (lane (v.read b).val i)))

/-- R194 to R196, R198: lane groups, shuffles, SPLAT, SEL, MOV and CTLTOK. -/
def Obligations.GroupsAndMovement : Prop :=
  (∀ (s : State) (v : View) (i : Instr) (srcs : List Opnd) (d : Opnd) (m : LMask) (lat : Nat)
    (f : (Nat → Payload) → Nat → Word × Flags),
    s.view i = some v → moveOp v i = some (srcs, d, m, lat, f) → dataReady v srcs →
      exec i s = .next (s.enter (oneResult v srcs d m lat f)))
  ∧ (∀ (s : State) (v : View) (ms m : LMask) (d a b : Opnd),
    s.view (.eSel ms d a b m) = some v → dataReady v [a, b] →
      exec (.eSel ms d a b m) s = .next (s.enter (computeEffects v [a, b] m (v.mask ms).err
        [⟨1, opndDst d, (v.mask m).val, .data, (masked (v.mask m).val (fun i =>
          (if (v.mask ms).val.getLsbD i then lane (v.read a).val i else lane (v.read b).val i, 0#8))).1⟩] 0#8)))
  ∧ (∀ (s : State) (v : View) (d a : Opnd),
    s.view (.ctltok d a) = some v → dataReady v [a] →
      exec (.ctltok d a) s = .next (s.enter (computeEffects v [a] 0 false
        [⟨1, opndDst d, 0xFFFF#16, .control, ofLanes (fun i => lane (v.read a).val i)⟩] 0#8)))

/-- R190 to R192: CVT, QNT and DQNT complete with the values and flags that the format rules give for each selected
element; the others are zero; and QNT.W to a format other than I4X writes the scale of R191. -/
def Obligations.ConversionsOfPayloads : Prop :=
  (∀ (s : State) (v : View) (sf df : Fmt) (sat : Bool) (rm : RMode) (d a : Opnd) (m : LMask),
    s.view (.cvt sf df sat rm d a m) = some v → dataReady v [a] →
      let n := 512 / max sf.bits df.bits
      let picked (j : Nat) : Bool := (v.mask m).val.getLsbD (df.bits * j / 32)
      let c (j : Nat) : Nat × Flags := convert sf df sat rm (value (v.read a).val sf.bits j)
      ∃ p, exec (.cvt sf df sat rm d a m) s = .next (s.enter (computeEffects v [a] m false
          [⟨2, opndDst d, (v.mask m).val, .data, p⟩]
          ((List.range n).foldl (fun fl j => if picked j then fl ||| (c j).2 else fl) 0#8)))
        ∧ ∀ j, value p df.bits j = if j < n ∧ picked j = true then (c j).1 % 2 ^ df.bits else 0)
  ∧ (∀ (s : State) (v : View) (df : Fmt) (sreg : Fin 16) (ws : Bool) (rm : RMode) (d a b : Opnd) (m : LMask),
    s.view (.qnt df sreg ws rm d a b m) = some v → dataReady v [a, b] →
      let r := qntGroup df ws rm (v.el.scales.getD sreg.val 0#8).toNat (v.read a).val (v.read b).val (v.mask m).val
      exec (.qnt df sreg ws rm d a b m) s = .next (s.enter (computeEffects v [a, b] m false
        (⟨4, opndDst d, 0xFFFF#16, .data, r.1⟩
          :: (if ws then [⟨4, .scale sreg.val, 0xFFFF#16, .data, BitVec.ofNat 512 r.2.1⟩] else [])) r.2.2))
        ∧ (ws = true → df ≠ .i4x → r.2.1 = leastScale df (greatest (v.read a).val (v.read b).val (v.mask m).val))
        ∧ (∀ k < 32, df ≠ .i4x → (v.mask m).val.getLsbD (k % 16) = false → value r.1 df.bits k = 0)
        ∧ (∀ k, 32 ≤ k → value r.1 df.bits k = 0))
  ∧ (∀ (s : State) (v : View) (sf : Fmt) (sreg : Fin 16) (part : Fin 8) (d a : Opnd) (m : LMask),
    s.view (.dqnt sf sreg part d a m) = some v → dataReady v [a] →
      let base := match a with | .v _ => sreg.val | .ch n => ((v.rec_.chans.find? n.val).map Chan.scale).getD 0
      let sc := (v.el.scales.getD ((base + part.val / 2) % 16) 0#8).toNat
      let r := masked (v.mask m).val (fun i => dqntLane sf sc (v.read a).val (16 * part.val + i))
      exec (.dqnt sf sreg part d a m) s
        = .next (s.enter (computeEffects v [a] m false [⟨2, opndDst d, (v.mask m).val, .data, r.1⟩]
          (r.2 ||| (if sc = 0xFF ∧ (v.mask m).val = 0#16 then 0x80#8 else 0#8)))))

/-- R166, R168, R171: special values of addition and multiplication: a NaN operand, opposite infinities and infinity
times zero give the canonical NaN, the last two with NV; zeros of opposite sign add to +0; adding is commutative. -/
def Sys2Proof.Claims.FloatingSpecialValues : Prop :=
  (∀ a b : Word, 0x7F800000 < a.toNat % 2 ^ 31 → (faddW a b).1 = 0x7FC00000#32 ∧ (fmulW a b).1 = 0x7FC00000#32)
  ∧ faddW 0x7F800000#32 0xFF800000#32 = (0x7FC00000#32, 0x01#8)
  ∧ fmulW 0xFF800000#32 0x00000000#32 = (0x7FC00000#32, 0x01#8)
  ∧ faddW 0x80000000#32 0x00000000#32 = (0x00000000#32, 0#8)
  ∧ faddW 0x80000000#32 0x80000000#32 = (0x80000000#32, 0#8)
  ∧ (∀ a b : Word, faddW a b = faddW b a ∧ fmulW a b = fmulW b a)

/-- R166 to R171, R185 to R187, R193: floating-point operations and their special values. -/
def Obligations.FloatingPoint : Prop :=
  FloatingLanes ∧ FloatingSpecialValues

/-- R102, R182, R183: an operation that computes and whose inputs all hold the same punctuation consumes it, moves its
kernel's context on, and passes it by its channel destination, with the ERR of any of them; of different punctuation, or
punctuation beside data, it raises order-violation 0x90 and does nothing else; and of an input whose buffer is empty it
raises link-schedule 0x99. -/
def Obligations.PunctuationPassesComputation : Prop :=
  ∀ (s : State) (v : View) (i : Instr) (srcs : List Opnd) (d : Opnd) (m : LMask) (lat : Nat)
    (f : (Nat → Payload) → Nat → Word × Flags) (t : Nat × Token) (ts : List (Nat × Token)),
    s.view i = some v → (integerOp i = some (srcs, d, m, lat, f) ∨ floatOp i = some (srcs, d, m, lat, f)) →
      ((∃ o ∈ srcs, v.starved o = true) → raisesOnly s i 0x99#8)
      ∧ ((∀ o ∈ srcs, v.starved o = false) → heads v srcs = t :: ts →
      (t.2.kind ≠ .data ∧ t.2.kind ≠ .control ∧ (∀ u ∈ ts, u.2.kind = t.2.kind ∧ u.2.round = t.2.round ∧ u.2.tag = t.2.tag) →
        exec i s = .next (s.enter ((t :: ts).map (fun u => Eff.consume u.1) ++ v.ctxEffs ((t :: ts).map Prod.snd)
          ++ (match d with
            | .ch n => [.result lat (.chan n.val)
                (v.outTok (.chan n.val) { t.2 with err := (t :: ts).any (fun u => u.2.err) }) 0xFFFF#16]
            | .v _ => []))))
      ∧ (t.2.kind ≠ .data ∧ t.2.kind ≠ .control ∧ (∃ u ∈ ts, u.2.kind ≠ t.2.kind ∨ u.2.round ≠ t.2.round) →
        raisesOnly s i 0x90#8)
      ∧ ((t.2.kind = .data ∨ t.2.kind = .control) → (∃ u ∈ ts, u.2.kind ≠ .data ∧ u.2.kind ≠ .control) →
        raisesOnly s i 0x90#8))

/-- The frame of the element operations: one in focus of an element that exists answers a next state that differs from
the old one in the effects queued for its bundle only: no register, mask, channel, local or physical memory byte changes
until the bundle's effects are applied (R99). -/
def Obligations.ElementOperationsOnlyQueueEffects : Prop :=
  ∀ (s : State) (i : Instr) (w : BitVec 40) (v : View), encode i = .e w → s.view i = some v →
    ∃ effs, exec i s = .next (s.enter effs)
      ∧ (∀ a, (s.enter effs).mem.read a = s.mem.read a)
      ∧ (∀ r, ((s.enter effs).reg r).benches = (s.reg r).benches ∧ ((s.enter effs).reg r).seq = (s.reg r).seq)

/-- R199, R201, R182, R183: STEER, GATE, JOIN and FORK. Data of one round and tag is steered by the control value, gated,
joined; equal punctuation goes to every output, with the ERR of both; other pairs raise what the rule says. -/
def Sys2Proof.Claims.SteerGateJoinFork : Prop :=
  ∀ (s : State) (v : View) (d a b : Opnd) (f : Fin 32) (sense pick : Bool),
    v.starved a = false → v.starved b = false →
      let ta := tokenOf v a
      let tb := tokenOf v b
      let both := heads v [a, b]
      let err := ta.err || tb.err
      let alike : Prop := ta.round = tb.round ∧ ta.tag = tb.tag
      let isReg : Prop := (v.read b).tok = none
      let steer : Instr := .steer d f a b
      let gate : Instr := .gate sense d a b
      let join : Instr := .join pick d a b
      (s.view steer = some v →
        (isData ta → isData tb → isReg ∨ alike →
          exec steer s = .next (s.enter (pops v both ++ (sends v (if tb.data.toNat % 2 ^ 32 ≠ 0 then d else .ch f) { ta with err := err }
            ++ endsErr ((both.drop (heads v [a]).length).map Prod.snd)))))
        ∧ (¬isData ta → isReg ∨ (tb.kind = ta.kind ∧ alike) →
          let t := { ta with err := (both.map Prod.snd).any Token.err }
          exec steer s = .next (s.enter (pops v both ++ (passes v d t ++ passes v (.ch f) t))))
        ∧ (isData ta → isData tb → ¬isReg → ¬alike → raisesOnly s steer 0x91#8)
        ∧ (¬isReg → (isData ta ↔ ¬isData tb) ∨ (¬isData ta ∧ (tb.kind ≠ ta.kind ∨ ¬alike)) → raisesOnly s steer 0x90#8))
      ∧ (s.view gate = some v →
        (isData ta → isData tb → isReg ∨ alike →
          exec gate s = .next (s.enter (pops v both ++ (if (tb.data.toNat % 2 ^ 32 ≠ 0) ↔ sense = false
            then sends v d { ta with err := err } else endsErr (both.map Prod.snd)))))
        ∧ (¬isData ta → isReg ∨ (tb.kind = ta.kind ∧ alike) →
          exec gate s = .next (s.enter (pops v both ++ passes v d { ta with err := (both.map Prod.snd).any Token.err })))
        ∧ (isData ta → isData tb → ¬isReg → ¬alike → raisesOnly s gate 0x91#8)
        ∧ (¬isReg → (isData ta ↔ ¬isData tb) ∨ (¬isData ta ∧ (tb.kind ≠ ta.kind ∨ ¬alike)) → raisesOnly s gate 0x90#8))
      ∧ (s.view join = some v →
        (isData ta → isData tb → (∀ t ∈ both, ofTheRound v t) →
          (alike → exec join s = .next (s.enter (pops v both ++ sends v d ⟨.data, err, ta.round, ta.tag, 0#8, if pick then tb.data else ta.data⟩
            ++ (match d with | .ch _ => [] | .v _ => endsErr (both.map Prod.snd)))))
          ∧ (¬alike → raisesOnly s join 0x91#8))
        ∧ (isData ta → isData tb → (∃ t ∈ both, ¬ofTheRound v t) → raisesOnly s join 0x90#8)
        ∧ (¬isData ta → ¬isData tb → ta.round = tb.round →
          let joined (t : Token) : Host.Outcome State Fault Refusal :=
            .next (s.enter (both.map (fun x => .consume x.1) ++ v.ctxEffs [t] ++ passes v d { t with err := err }))
          (ta.kind = tb.kind ∨ (ta.kind = .switch ∧ tb.kind = .marker) → exec join s = joined ta)
          ∧ (ta.kind = .marker → tb.kind = .switch → exec join s = joined tb))
        ∧ (¬isData ta → ¬isData tb → ta.round ≠ tb.round ∨ (ta.kind ≠ tb.kind ∧ (ta.kind, tb.kind) ≠ (.switch, .marker)
            ∧ (ta.kind, tb.kind) ≠ (.marker, .switch)) → raisesOnly s join 0x90#8)
        ∧ ((isData ta ↔ ¬isData tb) →
          let p := if ta.kind = .data ∨ ta.kind = .control then tb else ta
          raisesOnly s join (if ta.round = tb.round ∧ p.kind = .switch then 0x97#8 else 0x90#8)))
      ∧ (s.view (.fork d f a) = some v →
          exec (.fork d f a) s = .next (s.enter (pops v (heads v [a]) ++ passes v d ta ++ passes v (.ch f) ta)))

/-- R200, R294: MERGE.T takes the token of the earlier tag, data before the punctuation of its round, and one of two equal
punctuations, and raises tag-violation 0x91 on equal or unordered tags; MERGE.C takes the input that the control token
selects when it has the same round and tag, else it raises 0x91, and passes punctuation that stands on all three inputs;
other pairs, and data that is not of the current round of its input, raise 0x90. -/
def Sys2Proof.Claims.MergesChooseOneInput : Prop :=
  ∀ (s : State) (v : View) (d a b : Opnd) (c : Fin 32),
    let ta := tokenOf v a
    let tb := tokenOf v b
    let tc := tokenOf v (.ch c)
    let mt : Instr := .mergeT d a b
    let mc : Instr := .mergeC d a b c
    let o : Opnd := if tc.data.toNat % 2 ^ 32 = 0 then b else a
    let t := tokenOf v o
    (s.view mt = some v → v.starved a = false → v.starved b = false →
      ((∃ x ∈ heads v [a, b], isData x.2 ∧ ¬ofTheRound v x) → raisesOnly s mt 0x90#8)
      ∧ ((∀ x ∈ heads v [a, b], isData x.2 → ofTheRound v x) →
        let ahead := (tb.tag - ta.tag).toNat
        (isData ta → isData tb → ta.round = tb.round → 0 < ahead → ahead < 2 ^ 23 →
          exec mt s = .next (s.enter (pops v (heads v [a]) ++ sends v d ta)))
        ∧ (isData ta → isData tb → ta.round = tb.round → 2 ^ 23 < ahead →
          exec mt s = .next (s.enter (pops v (heads v [b]) ++ sends v d tb)))
        ∧ (isData ta → isData tb → ta.round ≠ tb.round ∨ ahead = 0 ∨ ahead = 2 ^ 23 → raisesOnly s mt 0x91#8)
        ∧ (isData ta → ¬isData tb → ta.round = tb.round → exec mt s = .next (s.enter (pops v (heads v [a]) ++ sends v d ta)))
        ∧ (¬isData ta → isData tb → ta.round = tb.round → exec mt s = .next (s.enter (pops v (heads v [b]) ++ sends v d tb)))
        ∧ (¬isData ta → ta.kind = tb.kind → ta.round = tb.round → exec mt s = .next (s.enter
            ((heads v [a, b]).map (fun x => .consume x.1) ++ v.ctxEffs [ta] ++ passes v d { ta with err := ta.err || tb.err })))
        ∧ ((¬isData ta ∨ ¬isData tb) → ta.round ≠ tb.round ∨ (¬isData ta ∧ ¬isData tb ∧ ta.kind ≠ tb.kind) →
          raisesOnly s mt 0x90#8)))
    ∧ (s.view mc = some v → v.starved (.ch c) = false →
      (isData tc → v.starved o = false →
        ((∃ x ∈ heads v [.ch c, o], isData x.2 ∧ ¬ofTheRound v x) → raisesOnly s mc 0x90#8)
        ∧ ((∀ x ∈ heads v [.ch c, o], isData x.2 → ofTheRound v x) →
          (isData t → t.round = tc.round → t.tag = tc.tag → exec mc s = .next (s.enter (pops v (heads v [.ch c, o])
            ++ sends v d { t with err := t.err || tc.err }
            ++ endsErr (((heads v [o, .ch c]).drop (heads v [o]).length).map Prod.snd))))
          ∧ (isData t → t.round ≠ tc.round ∨ t.tag ≠ tc.tag → raisesOnly s mc 0x91#8)
          ∧ (¬isData t → raisesOnly s mc 0x90#8)))
      ∧ (¬isData tc → v.starved a = false → v.starved b = false →
        (ta.kind = tc.kind → tb.kind = tc.kind → ta.round = tc.round → tb.round = tc.round →
          exec mc s = .next (s.enter ((heads v [.ch c] ++ heads v [a, b]).map (fun x => .consume x.1) ++ v.ctxEffs [tc]
            ++ passes v d { tc with err := tc.err || ta.err || tb.err })))
        ∧ (ta.kind ≠ tc.kind ∨ tb.kind ≠ tc.kind ∨ ta.round ≠ tc.round ∨ tb.round ≠ tc.round → raisesOnly s mc 0x90#8)))

/-- R198, R203, R204, R19: MARK, which passes punctuation at b before the data at a, TAGGEN, which begins an iteration with the next tag unless
the round is full, and CNT, which counts each selected lane modulo its limit. -/
def Obligations.MarksTagsAndCounters : Prop :=
  (∀ (s : State) (v : View) (d a b : Opnd), s.view (.mark d a b) = some v → (v.read b).tok = none → dataReady v [a] →
    exec (.mark d a b) s = .next (s.enter (computeEffects v [a] 0 false
      [⟨1, opndDst d, 0xFFFF#16, .data, ofLanes (fun i => lane (v.read a).val i)⟩] 0#8)))
  ∧ (∀ (s : State) (v : View) (d a b : Opnd) (n : Nat) (t : Token), s.view (.mark d a b) = some v → holds v b n t → ¬isData t →
    exec (.mark d a b) s = .next (s.enter ([.consume n] ++ v.ctxEffs [t]
      ++ (match d with
        | .ch k => [.result 1 (.chan k.val) (v.outTok (.chan k.val) t) 0xFFFF#16]
        | .v _ => []))))
  ∧ (∀ (s : State) (v : View) (d a b : Opnd) (n : Nat) (t : Token), s.view (.mark d a b) = some v → holds v b n t → isData t →
    raisesOnly s (.mark d a b) 0x90#8)
  ∧ (∀ (s : State) (v : View) (d : Opnd) (m : LMask), s.view (.taggen d m) = some v →
    (v.full = false → exec (.taggen d m) s = .next (s.enter [.ctxTag v.f.ksel (v.ctx.ntag + 1),
      .result 1 (opndDst d) (v.outTok (opndDst d) ⟨.data, (v.mask m).err, v.ctx.cround, v.ctx.ntag + 1, 0#8,
        (masked (v.mask m).val (fun _ => ((v.ctx.ntag + 1).setWidth 32, 0#8))).1⟩) (v.mask m).val]))
    ∧ (v.full = true → raisesOnly s (.taggen d m) 0x9D#8))
  ∧ (∀ (s : State) (v : View) (mc m : LMask) (d a b : Opnd), s.view (.cnt mc d a b m) = some v → dataReady v [a, b, d] →
    let sum (i : Nat) : Nat := (lane (v.read d).val i).toNat + (lane (v.read a).val i).toNat
    let lim (i : Nat) : Nat := (lane (v.read b).val i).toNat
    let wraps (i : Nat) : Bool := decide (lim i ≠ 0 ∧ lim i ≤ sum i)
    let next := (masked (v.mask m).val (fun i =>
      (BitVec.ofNat 32 (if wraps i = true then sum i - lim i else sum i), 0#8))).1
    ∃ p, exec (.cnt mc d a b m) s = .next (s.enter (computeEffects v [a, b, d] m false
        (⟨1, opndDst d, (v.mask m).val, .data, next⟩ :: (if mc = 0 then [] else [⟨1, .mask mc.val, 0xFFFF#16, .data, p⟩])) 0#8))
      ∧ ∀ i < 16, p.getLsbD i = ((v.mask m).val.getLsbD i && wraps i))

/-- R237 to R241: AGRW loads a descriptor that is allowed at position 0, and raises descriptor-invalid 0x92 else; AGPAD
sets mode and pad word; AGSTEP moves the position; each from a register or a channel, whose punctuation it only consumes.
AGEN and AGWIN send the request of the position and move to the next, and a done token once the stream is exhausted, a
zero into a register; the other kind of descriptor raises 0x92. -/
def Sys2Proof.Claims.GeneratorsStepTheirStreams : Prop :=
  ∀ (s : State) (v : View) (g : Fin 4) (win : Bool) (d a : Opnd),
    let x := v.el.gens.getD g.val .init
    let p := (v.read a).val
    let hs := heads v [a]
    let set (x : Gen) : Host.Outcome State Fault Refusal :=
      .next (s.enter (pops v hs ++ [.gen g.val x] ++ endsErr (hs.map Prod.snd)))
    (v.starved a = false →
      (isData (tokenOf v a) →
        (s.view (.agrw g win a) = some v →
          (descriptorOk win p → exec (.agrw g win a) s = set { x with
            descr := p, win := win, pos := 0, exh := genCount win p == 0, owner := v.f.ksel })
          ∧ (¬descriptorOk win p → raisesOnly s (.agrw g win a) 0x92#8))
        ∧ (s.view (.agpad g a) = some v → exec (.agpad g a) s = set { x with
            mode := p.toNat % 4, padval := lane p 1, owner := v.f.ksel })
        ∧ (s.view (.agstep g (.opnd a)) = some v → exec (.agstep g (.opnd a)) s = set { x with
            pos := (x.pos + (lane p 0).toNat) % 2 ^ 64,
            exh := x.exh || decide (genCount x.win x.descr ≤ x.pos + (lane p 0).toNat), owner := v.f.ksel }))
      ∧ (¬isData (tokenOf v a) → ∀ i ∈ [Instr.agrw g win a, .agpad g a, .agstep g (.opnd a)], s.view i = some v →
          exec i s = .next (s.enter (pops v hs))))
    ∧ (∀ k : Fin 256, s.view (.agstep g (.imm k)) = some v → exec (.agstep g (.imm k)) s = .next (s.enter [.gen g.val { x with
        pos := (x.pos + k.val) % 2 ^ 64, exh := x.exh || decide (genCount x.win x.descr ≤ x.pos + k.val), owner := v.f.ksel }]))
    ∧ (∀ w : Bool, let i : Instr := if w then .agwin d g else .agen d g
        s.view i = some v →
        (x.exh = true → exec i s = .next (s.enter (sends v d
          ⟨match d with | .ch _ => .done | .v _ => .data, false, v.ctx.cround, v.ctx.ctag, 0#8, 0#512⟩)))
        ∧ (x.exh = false → x.win ≠ w → raisesOnly s i 0x92#8)
        ∧ (x.exh = false → x.win = w → exec i s = .next (s.enter (sends v d
            ⟨.data, false, v.ctx.cround, v.ctx.ctag, 0#8, reqPayload (genLen x.descr) (genAddr x)⟩
            ++ [.gen g.val { x with pos := x.pos + 1, exh := x.pos + 1 == genCount w x.descr, owner := v.f.ksel }]))))

/-- R238, R242: the requests of an affine stream: the number of them, and address and length of each. -/
def Sys2Proof.Claims.AffineStreamsNameTheirAddresses : Prop :=
  ∀ (g : Gen), descriptorOk false g.descr → g.win = false →
    genCount false g.descr = (lane g.descr 3).toNat * (lane g.descr 4).toNat * (lane g.descr 5).toNat
    ∧ (let q := reqPayload (genLen g.descr) (genAddr g)
       requestAddr q = affineAddress g.descr g.pos ∧ requestLen q = (lane g.descr 2).toNat ∧ requestOk q false)

/-- R237 to R242: stream generators. -/
def Obligations.StreamGenerators : Prop :=
  GeneratorsStepTheirStreams ∧ AffineStreamsNameTheirAddresses

/-- R36, R212, R234, R242, R243: MLD, MST and MSTM of a request with an access in a live range that permits it enter the
queue of their stream; with LEN 0 or PAD 1 they enter it with no access; outside every range they raise range-violation
0x44, without the permission, or by name through a range without versions, 0x45; a malformed request raises 0x93;
punctuation is only consumed. -/
def Sys2Proof.Claims.PlainRequestsEnterTheirStream : Prop :=
  ∀ (s : State) (v : View) (st : Fin 16) (oa ob : Opnd) (m : LMask) (delta : Option (Fin 8)) (r : Range),
    let t := tokenOf v oa
    let p := (v.read oa).val
    let a := requestAddr p
    let len := requestLen p % 2 ^ 7
    let here := accessAt v.bench.plane a len 0
    let none_ : Prop := len = 0 ∨ 2 ^ 7 ≤ requestLen p
    let pad := if 2 ^ 7 ≤ requestLen p then some (lane p 3) else none
    v.starved oa = false →
      (let i : Instr := .mld st oa delta;
        let hs := heads v [oa]
        s.view i = some v →
        (¬isData t → exec i s = .next (s.enter (pops v hs)))
        ∧ (isData t → ¬requestLegal p false → ∃ e, exec i s = .next (s.enter (pops v hs ++ [.raise e])) ∧ e.cause = 0x93#8)
        ∧ (isData t → requestLegal p false →
          let entered (accs : List Access) : Prop := ∃ q, exec i s = .next (s.enter (pops v hs ++ [.request q]))
            ∧ isRequest v q st.val (.load (delta.map (fun j => t.round - BitVec.ofNat 24 j.val))) (t.round, t.tag) t.err accs
            ∧ q.len = len ∧ q.pad = pad
          (none_ → entered [])
          ∧ (¬none_ → inRange v a len r → r.perm % 2 = 1 → (delta ≠ none → r.ver = true) → entered [here])
          ∧ (¬none_ → inRange v a len r → r.perm % 2 = 0 ∨ (delta ≠ none ∧ r.ver = false) → turnsAway s v i hs 0x45#8 a)
          ∧ (¬none_ → outside v a len → turnsAway s v i hs 0x44#8 a)))
      ∧ (∀ bm : Bool, let i : Instr := if bm then .mstm st oa ob m else .mst st oa ob m
        let hs := heads v [oa, ob]
        let err := (v.mask m).err || (v.read oa).err || (v.read ob).err
        let first := (hs.map Prod.snd).headD t
        s.view i = some v → v.starved ob = false → isData t → isData (tokenOf v ob) →
        (requestLegal p bm →
          let entered (accs : List Access) : Prop :=
            ∃ q, exec i s = .next (s.enter (pops v hs ++ ([.request q] ++ endsErr (hs.map Prod.snd))))
            ∧ isRequest v q st.val .store (first.round, first.tag) err accs ∧ q.len = len ∧ q.pad = pad
            ∧ q.data = (v.read ob).val ∧ q.lanes = (v.mask m).val
            ∧ q.bmask = if bm then BitVec.ofNat 64 ((lane p 4).toNat + (lane p 5).toNat * 2 ^ 32) else BitVec.allOnes 64
          (none_ → entered [])
          ∧ (¬none_ → inRange v a len r → r.perm / 2 % 2 = 1 → entered [here])
          ∧ (¬none_ → inRange v a len r → r.perm / 2 % 2 = 0 → hs.all (fun x => !x.2.err) = true → turnsAway s v i hs 0x45#8 a)
          ∧ (¬none_ → outside v a len → hs.all (fun x => !x.2.err) = true → turnsAway s v i hs 0x44#8 a)))

/-- R245 to R247: MGATH, MSCAT and MPROBE of an index token whose selected lanes all lie in a live range that permits them
enter the port with one access per selected lane; of the other lanes, .SKIP and MPROBE make no access and record them, and
BAD 0 raises 0x44 or 0x45 at the first. MORD enters the port in order, with WAIT once its token is there. -/
def Sys2Proof.Claims.IndexedRequestsEnterThePort : Prop :=
  ∀ (s : State) (v : View) (st : Fin 16) (z : ESize) (bad : BadMode) (sgn : Bool) (oa od : Opnd) (rb rd : Fin 32) (m : LMask)
    (c : Scope),
    let t := tokenOf v oa
    let base := requestAddr (v.regv rb.val).val
    let accs := laneAccesses v.bench.plane base z sgn (v.read oa).val (v.mask m).val
    let good (bit : Nat) (x : Access) : Bool := v.bench.plane.men
      && (v.bench.plane.ranges.find? (fun r => decide (r.base ≤ x.addr ∧ x.addr + x.len ≤ r.base + r.len))).any
        (fun r => decide (r.perm / 2 ^ bit % 2 = 1))
    let missed (bit : Nat) : List (Nat × Word) := (accs.filter (fun x => !good bit x)).map (fun x => (x.lane, lane (v.read oa).val x.lane))
    let kept (bit : Nat) : List Access := accs.filter (good bit)
    let err := (v.mask m).err || (v.read oa).err || (v.regv rb.val).err
    let hs := heads v [oa]
    v.starved oa = false → isData t →
      (let i : Instr := .mgath st z bad sgn oa (.v rb) m;
        s.view i = some v →
        (missed 0 = [] ∨ bad = .skip → ∃ q, exec i s = .next (s.enter (pops v hs ++ [.request q]))
          ∧ isRequest v q st.val .gather (t.round, t.tag) err (kept 0) ∧ q.lanes = (v.mask m).val ∧ q.badIdx = missed 0)
        ∧ (bad = .trap → ∀ x ∈ accs.find? (fun x => !good 0 x),
          turnsAway s v i hs (if rangeOf v.bench.plane x.addr x.len = none then 0x44#8 else 0x45#8) x.addr))
      ∧ (let i : Instr := .mscat st z bad sgn (.v rb) oa (.v rd) m;
        s.view i = some v → missed 1 = [] ∨ bad = .skip →
        ∃ q, exec i s = .next (s.enter (pops v hs ++ ([.request q] ++ endsErr (hs.map Prod.snd))))
          ∧ isRequest v q st.val .scatter (t.round, t.tag) (err || (v.regv rd.val).err) (kept 1)
          ∧ q.data = (v.regv rd.val).val ∧ q.lanes = (v.mask m).val ∧ q.badIdx = missed 1)
      ∧ (let i : Instr := .mprobe z sgn od oa (.v rb) m;
        s.view i = some v →
        ∃ q, exec i s = .next (s.enter (pops v hs ++ [.request q]))
          ∧ isRequest v q probeStream (.probe (opndDst od)) (t.round, t.tag) err (kept 0)
          ∧ q.lanes = (v.mask m).val ∧ q.badIdx = missed 0)
      ∧ (∀ emit : Option Opnd, s.view (.mord c emit none) = some v →
        ∃ q, exec (.mord c emit none) s = .next (s.enter [.request q])
          ∧ isRequest v q mordStream (.mord c (emit.map opndDst)) (v.ctx.cround, v.ctx.ctag) false [])
      ∧ (∀ emit : Option Opnd, s.view (.mord c emit (some oa)) = some v →
        ∃ q, exec (.mord c emit (some oa)) s = .next (s.enter (pops v hs ++ [.request q]))
          ∧ isRequest v q mordStream (.mord c (emit.map opndDst)) (t.round, t.tag) (v.read oa).err [])

/-- R242 to R247: requests to the memory port. -/
def Obligations.MemoryRequestsAreIssued : Prop :=
  PlainRequestsEnterTheirStream ∧ IndexedRequestsEnterThePort

/-- R248: LLD reads a word per selected lane from local memory, the addresses in lane order from one base or with G one
base per lane; LST and LSTM write the selected lanes' words there, and nothing when an operand or the mask carries ERR. -/
def Obligations.LocalMemoryWords : Prop :=
  ∀ (s : State) (v : View) (g : Bool) (off : BitVec 10) (d : Opnd) (ra rb : Fin 32) (m : LMask),
    let p := (v.regv ra.val).val
    let q := (v.regv rb.val).val
    let base (per : Bool) (i : Nat) : Word := if per then lane p i else lane p 0
    let step (per : Bool) (i : Nat) : Nat := if per then 0 else 4 * i
    let stored (per : Bool) : List (Nat × Byte) :=
      ((List.range 16).filter (fun i => (v.mask m).val.getLsbD i)).flatMap (fun i =>
        (List.range 4).map (fun k => (localByte v (base per i) off (step per i + k), (lane q i).extractLsb' (8 * k) 8)))
    (s.view (.lld g off d (.v ra) m) = some v → v.el.localErr = [] → v.lostLocal = [] →
      exec (.lld g off d (.v ra) m) s = .next (s.enter [.result (if g then 3 else 2) (opndDst d)
        (v.outTok (opndDst d) ⟨.data, (v.mask m).err || (v.regv ra.val).err, v.ctx.cround, v.ctx.ctag, 0#8,
          (masked (v.mask m).val (fun i => (BitVec.ofNat 32 (littleEndian ((List.range 4).map (fun k =>
            v.el.local_.getD (localByte v (base g i) off (step g i + k)) 0#8))), 0#8))).1⟩) (v.mask m).val]))
    ∧ (((v.mask m).err || (v.regv ra.val).err || (v.regv rb.val).err) = true →
      ∀ i ∈ [Instr.lst off (.v ra) (.v rb) m, .lstm off (.v ra) (.v rb) m], s.view i = some v → exec i s = .next (s.enter []))
    ∧ ((v.mask m).err = false → (v.regv ra.val).err = false → (v.regv rb.val).err = false →
      (s.view (.lst off (.v ra) (.v rb) m) = some v →
        exec (.lst off (.v ra) (.v rb) m) s = .next (s.enter [.localWrite (stored false)]))
      ∧ (s.view (.lstm off (.v ra) (.v rb) m) = some v →
        exec (.lstm off (.v ra) (.v rb) m) s = .next (s.enter [.localWrite (stored true)])))

/-- R249, R252 to R254, R257, R294: the special nodes: RMW declares its owner; RTAG reports to the couch unit, a pass marker
as the marker of its round; RED reduces two tokens of one header lane by lane, or carry-save token by token; CSACC merges a
data token into its accumulator, sends the resolved number at the end of a round and then lets the marker pass; CSNORM
writes numbers in lanes 0 to 3 and zero in the others. Data that is not of its input's round raises 0x90. -/
def Sys2Proof.Claims.SpecialNodes : Prop :=
  ∀ (s : State) (v : View) (n k : Nat) (t u : Token) (ch cb : Fin 32) (d : Opnd) (m : LMask),
    (∀ (op : RmwOp) (dbl : Bool) (ret : Option Opnd) (a b : Opnd), s.view (.rmw op dbl ret a b) = some v →
      exec (.rmw op dbl ret a b) s = .next (s.enter [.owner (.rmw op dbl ret a b) v.f.ksel]))
    ∧ (holds v (.ch ch) n t →
      (∀ (e : Fin 16) (fwd : Option Opnd), s.view (.rtag e fwd (.ch ch)) = some v →
        (isData t → ¬ofTheRound v (n, t) → raisesOnly s (.rtag e fwd (.ch ch)) 0x90#8)
        ∧ ((isData t → ofTheRound v (n, t)) → exec (.rtag e fwd (.ch ch)) s = .next (s.enter (pops v [(n, t)]
            ++ [.report e.val (if t.kind = .pass then { t with kind := .marker, tag := 0#24 } else t)]
            ++ (match fwd with | some d => passes v d t | none => [])))))
      ∧ (∀ (op : RedOp) (ty : RedType), holds v (.ch cb) k u → isData t → isData u → s.view (.red op ty d (.ch ch) (.ch cb) m) = some v →
        let i : Instr := .red op ty d (.ch ch) (.ch cb) m
        let hs := heads v [.ch ch, .ch cb]
        let mk := (v.mask m).val
        let err := (v.mask m).err || t.err || u.err
        let done (lat : Nat) (lanes : BitVec 16) (y : Payload × Flags) : Prop := exec i s = .next (s.enter (pops v hs
          ++ [.result lat (opndDst d) (v.outTok (opndDst d) ⟨.data, err, t.round, t.tag, 0#8, y.1⟩) lanes]
          ++ (if err = true ∨ y.2 = 0#8 then [] else [.flags t.round y.2])
          ++ (match d with | .ch _ => [] | .v _ => endsErr (hs.map Prod.snd))))
        ((∃ x ∈ hs, ¬ofTheRound v x) → raisesOnly s i 0x90#8)
        ∧ ((∀ x ∈ hs, ofTheRound v x) → t.round ≠ u.round ∨ t.tag ≠ u.tag → raisesOnly s i 0x91#8)
        ∧ ((∀ x ∈ hs, ofTheRound v x) → t.round = u.round → t.tag = u.tag →
          (ty ≠ .cs → done (if ty = .f then 4 else 2) mk (masked mk (fun i => reduced op ty (lane t.data i) (lane u.data i))))
          ∧ (ty = .cs → (∀ j < 4, (csDecode (csTok t.data j)).parOk = true ∧ (csDecode (csTok u.data j)).parOk = true) →
            done 2 (ofLaneGroups mk) (csPayload (fun j => if mk.getLsbD (4 * j) then csMerge (csTok t.data j) (csTok u.data j) else 0#128), 0#8))))
      ∧ (∀ (a : Fin 4), s.view (.csacc a d (.ch ch) (.v 0)) = some v →
        let i : Instr := .csacc a d (.ch ch) (.v 0)
        let acc := v.el.accs.getD a.val .init
        (isData t → ¬ofTheRound v (n, t) → raisesOnly s i 0x90#8)
        ∧ (isData t → ofTheRound v (n, t) → acc.emit = false →
          ((∀ l ∈ acc.last, 0 < (t.tag - l).toNat ∧ (t.tag - l).toNat < 2 ^ 23) → (∀ j < 4, (csDecode (csTok t.data j)).parOk = true) →
            exec i s = .next (s.enter (pops v [(n, t)]
              ++ [.acc a.val ⟨csPayload (fun j => csMerge (csTok acc.toks j) (csTok t.data j)), false, some t.tag⟩] ++ endsErr [t])))
          ∧ ((∃ l ∈ acc.last, (t.tag - l).toNat = 0 ∨ 2 ^ 23 ≤ (t.tag - l).toNat) → raisesOnly s i 0x91#8))
        ∧ (t.kind = .marker ∨ t.kind = .switch →
          (acc.emit = false → exec i s = .next (s.enter [.result 2 (opndDst d) (v.outTok (opndDst d)
              ⟨.data, false, t.round, acc.last.getD v.ctx.ctag, 0#8, csPayload (fun j => csResolve (csTok acc.toks j))⟩) 0xFFFF#16,
            .acc a.val { acc with emit := true }]))
          ∧ (acc.emit = true → exec i s = .next (s.enter ([.consume n]
            ++ (match d with | .ch o => [.result 2 (.chan o.val) (v.outTok (.chan o.val) t) 0xFFFF#16] | .v _ => [])
            ++ [.marker v.f.ksel t.round, .acc a.val ⟨csPayload (fun _ => csZero), false, none⟩]))))
        ∧ (t.kind = .pass ∨ t.kind = .done → exec i s = .next (s.enter (pops v [(n, t)]
            ++ (match d with | .ch o => [.result 2 (.chan o.val) (v.outTok (.chan o.val) t) 0xFFFF#16] | .v _ => [])))))
      ∧ (∀ (int : Bool) (rm : RMode), isData t → s.view (.csnorm int rm d (.ch ch) m) = some v →
        (∀ j < 4, (csDecode (csTok t.data j)).parOk = true) →
        let err := (v.mask m).err || t.err
        let x (i : Nat) : Word × Flags := if 4 ≤ i then (0#32, 0#8)
          else if int then csToI32 rm (csDecode (csTok t.data i)) else csToF32 rm (csDecode (csTok t.data i))
        let y := masked (v.mask m).val x
        exec (.csnorm int rm d (.ch ch) m) s = .next (s.enter (pops v [(n, t)]
          ++ ([.result 3 (opndDst d) (v.outTok (opndDst d) ⟨.data, err, t.round, t.tag, 0#8, y.1⟩) ((v.mask m).val ||| 0xFFF0#16)]
          ++ (if err = true ∨ y.2 = 0#8 then [] else [.flags t.round y.2])
          ++ (match d with | .ch _ => [] | .v _ => endsErr [t]))))))

/-- R255: SPHDR and SPTREE send up to 15 indices an issue, with their count and, on the last issue, LAST in lane 15, and
consume the header with the last of them; with .T each issue begins an iteration, unless the round is full (0x9D);
punctuation passes. -/
def Sys2Proof.Claims.SparseHeadersListIndices : Prop :=
  ∀ (s : State) (v : View) (tree tags : Bool) (d a : Opnd),
    let t := tokenOf v a
    let i : Instr := if tree then .sptree tags d a else .sphdr tags d a
    let key := match a with | .ch n => n.val | .v n => 32 + n.val
    let idx : List Nat := if tree then (List.range 512).filter (fun k => t.data.getLsbD k)
      else (List.range ((lane t.data 1).toNat - (lane t.data 0).toNat)).map (fun j => (lane t.data 0).toNat + j)
    let pos := v.el.sparse.getD key 0
    let here := (idx.drop pos).take 15
    let last := decide (idx.length ≤ pos + 15)
    let rt := if tags then (v.ctx.cround, v.ctx.ntag + 1) else (t.round, t.tag)
    v.starved a = false → s.view i = some v →
      (isData t → tags = false ∨ v.full = false →
        ∃ p, exec i s = .next (s.enter ((if last then pops v (heads v [a]) else [])
          ++ [.result 1 (opndDst d) (v.outTok (opndDst d) ⟨.data, t.err, rt.1, rt.2, 0#8, p⟩) 0xFFFF#16,
            .sparse key (if last then 0 else pos + 15)]
          ++ (if tags then [.ctxTag v.f.ksel (v.ctx.ntag + 1)] else [])
          ++ (match d with | .ch _ => [] | .v _ => if last then endsErr ((heads v [a]).map Prod.snd) else [])))
        ∧ (∀ j < here.length, lane p j = BitVec.ofNat 32 (here.getD j 0))
        ∧ (∀ j, here.length ≤ j → j < 15 → lane p j = 0xFFFFFFFF#32)
        ∧ lane p 15 = BitVec.ofNat 32 (here.length + if last then 2 ^ 31 else 0))
      ∧ (isData t → tags = true → v.full = true → raisesOnly s i 0x9D#8)
      ∧ (¬isData t → exec i s = .next (s.enter (pops v (heads v [a]) ++ passes v d t)))

/-- R249, R252 to R257: special nodes. -/
def Obligations.SpecialAndSparseNodes : Prop :=
  SpecialNodes ∧ SparseHeadersListIndices

/-- R256, R294: when the copies stand at one position, VOTE forwards the token that two of them hold and consumes those two;
when no two of three agree, it forwards the first with ERR, consumes all three and counts it; two that disagree wait for
the third. A copy that lags behind is compared with the token forwarded at its position and consumed, and counted when it
differs. Data of another round than its input's raises 0x90. -/
def Sys2Proof.Claims.VoteForwardsTheMajority : Prop :=
  ∀ (s : State) (v : View) (d a b : Opnd) (c : Fin 32) (ka kb kc : Nat) (ta tb tc : Token),
    s.view (.vote d a b c) = some v →
      let i : Instr := .vote d a b c
      let x := v.el.voter
      let same (t u : Token) : Prop := t.kind = u.kind ∧ t.err = u.err ∧ t.round = u.round ∧ t.tag = u.tag ∧ t.data = u.data
      let inc (n : Nat) : Nat := if n < 65535 then n + 1 else n
      let level : Prop := x.consumed = [x.forwarded, x.forwarded, x.forwarded]
      let forwards (ts : List (Nat × Token)) (out : Token) (consumed : List Nat) (noMaj : Bool) : Prop :=
        ((∃ t ∈ ts, isData t.2 ∧ ¬ofTheRound v t) → raisesOnly s i 0x90#8)
        ∧ ((∀ t ∈ ts, isData t.2 → ofTheRound v t) → ∃ y, exec i s = .next (s.enter (pops v ts ++ [.result 1 (opndDst d)
              (v.outTok (opndDst d) out) 0xFFFF#16, .voter y [] noMaj]
            ++ (if out.err = true then [] else endsErr (ts.map Prod.snd))))
          ∧ y.forwarded = x.forwarded + 1 ∧ y.window = (x.window ++ [out]).drop (x.window.length - 15)
          ∧ y.consumed = consumed ∧ y.noMajority = if noMaj then inc x.noMajority else x.noMajority)
      let f := x.forwarded
      (holds v a ka ta → holds v b kb tb → level → same ta tb → forwards [(ka, ta), (kb, tb)] ta [f + 1, f + 1, f] false)
      ∧ (holds v a ka ta → holds v b kb tb → holds v (.ch c) kc tc → level → ¬same ta tb →
        (same ta tc → forwards [(ka, ta), (kc, tc)] ta [f + 1, f, f + 1] false)
        ∧ (¬same ta tc → same tb tc → forwards [(kb, tb), (kc, tc)] tb [f, f + 1, f + 1] false)
        ∧ (¬same ta tc → ¬same tb tc →
          forwards [(ka, ta), (kb, tb), (kc, tc)] { ta with err := true } [f + 1, f + 1, f + 1] true))
      ∧ (holds v a ka ta → holds v b kb tb → (v.read (.ch c)).tok = none → level → ¬same ta tb → raisesOnly s i 0x99#8)
      ∧ (∀ (e : Nat) (w : Token), (v.read a).tok = none → (v.read b).tok = none → holds v (.ch c) kc tc →
          x.consumed = [f, f, e] → e < f → x.window[x.window.length - (f - e)]? = some w → (isData tc → ofTheRound v (kc, tc)) →
          ∃ y, exec i s = .next (s.enter (pops v [(kc, tc)] ++ [.voter y (if {tc with chan := 0#8} = {w with chan := 0#8} then [] else [3]) false] ++ endsErr [tc]))
            ∧ y.forwarded = f ∧ y.consumed = [f, f, e + 1]
            ∧ (same tc w → y.counts = x.counts) ∧ (¬same tc w → y.counts.getD 2 0 = if x.counts.length ≤ 2 then 0 else inc (x.counts.getD 2 0)))

/-- R182, R199 to R201, R256: steering, merging and voting. -/
def Obligations.TokensAreSteered : Prop :=
  SteerGateJoinFork ∧ MergesChooseOneInput ∧ VoteForwardsTheMajority

/-- R270: VNOP does nothing; VEND sets STOP of its own node, and nothing else of the package changes. -/
def Sys2Proof.Claims.NopAndEndOfTheSchedule : Prop :=
  ∀ (s : State) (slot : Fin 64) (x : Region) (y : Bench),
    let r := s.focus.region
    let b := s.focus.bench
    s.regions.find? r = some x → x.benches.find? b = some y →
      exec (.vnop slot) s = .next s
      ∧ ∃ t, exec (.vend slot) s = .next t
        ∧ ((t.reg r).bench b).node = { y.node with stop := true, quiesced := false }
        ∧ (∀ q, q ≠ b → (t.reg r).bench q = x.bench q) ∧ (∀ q, q ≠ r → t.reg q = s.reg q)
        ∧ t.mem = s.mem ∧ t.graphs = s.graphs ∧ t.dies = s.dies

/-- R269: VLDA and VLDB read the 1,024 bytes of the row that RP names and deliver them as a chunk to the sheets of the
group's receivers, and RP moves on: to RBASE after RLIM. No byte of memory changes. -/
def Sys2Proof.Claims.GroupReadsMoveTheRow : Prop :=
  ∀ (s : State) (slot : Fin 64) (t : Fin 128) (g : Fin 64) (balt : Bool) (chunk : Fin 128) (x : Region) (y : Bench) (opB : Bool)
    (key : Nat) (m : SheetMap),
    let r := s.focus.region
    let b := s.focus.bench
    let p := y.node.rows.getD g.val ⟨0, 3071, 0⟩
    let pa := groupAddr x.place.die (x.place.groups.getD g.val 0) (1024 * p.rp)
    let i : Instr := if opB then .vldb slot t g balt .advance chunk else .vlda slot t g .advance chunk
    s.regions.find? r = some x → x.benches.find? b = some y →
      ∃ s', exec i s = .next s' ∧ s'.mem = s.mem
        ∧ ((s'.reg r).bench b).node.rows.getD g.val ⟨0, 3071, 0⟩
            = { p with rp := if p.rp = p.lim then p.base else (p.rp + 1) % 3072 }
        ∧ (∀ k, k ≠ g.val → ((s'.reg r).bench b).node.rows.getD k ⟨0, 3071, 0⟩ = y.node.rows.getD k ⟨0, 3071, 0⟩)
        ∧ (x.receivers g.val = [(key, m)] → (s'.reg r).sheet key
            = (x.sheet key).load opB (m.bytes (x.sheetBalt key) opB) chunk.val (s.mem.readBytes pa 1024) (s.badBytes pa 1024))

/-- R269: the bytes of a chunk stand in the vector from 1,024 × chunk on, as far as the vector reaches, and every other
byte of it stays. -/
def Sys2Proof.Claims.ChunksFillTheirVector : Prop :=
  ∀ (sh : Sheet) (len chunk j : Nat) (bs : List Byte) (err : Bool), bs.length = 1024 →
    let inside := 1024 * chunk ≤ j ∧ j < 1024 * chunk + 1024 ∧ j < len
    (inside → (sh.load false len chunk bs err).a.getD j 0#8 = bs.getD (j - 1024 * chunk) 0#8)
    ∧ (¬inside → (sh.load false len chunk bs err).a.getD j 0#8 = sh.a.getD j 0#8)
    ∧ (sh.load false len chunk bs err).b = sh.b

/-- R269: group reads. -/
def Obligations.GroupReadsFillVectors : Prop :=
  GroupReadsMoveTheRow ∧ ChunksFillTheirVector

/-- R272, R266, R267: VMAC, after its two group reads, leaves a firing for the end of the cycle that merges 11 + 2 × CHAIN
cycles later, 28 more across dies, and not before the work already queued; VZERO, VDRAIN and VCHAIN queue theirs. VDRAIN
with PUSH moves the node's token count on. -/
def Sys2Proof.Claims.SheetWordsQueueTheirWork : Prop :=
  ∀ (s : State) (slot : Fin 64) (t ts : Fin 128) (ga gb : Fin 64) (balt clr push : Bool) (bsel pos : Fin 4) (x : Region)
    (y : Bench) (m : SheetMap),
    let r := s.focus.region
    let b := s.focus.bench
    let key := x.sheetKey b m
    let q := (x.sheet key).queue
    let last := (q.getLast?.map SheetOp.due).getD 0
    let delay := 11 + 2 * m.chain + if m.xdie then 28 else 0
    s.regions.find? r = some x → x.benches.find? b = some y → y.plane.sheets.find? t.val = some m →
      (∃ s' d, exec (.vmac slot t ga gb balt .keep 0) s = .next s' ∧ s'.mem = s.mem
        ∧ (x.receivers ga.val = [] → x.receivers gb.val = [] →
            ((s'.reg r).sheet key).queue = q ++ [.sample m balt d] ∧ d = max last (x.fab.ucycle + delay)))
      ∧ (∃ s', exec (.vzero slot t) s = .next s' ∧ ((s'.reg r).sheet key).queue = q ++ [.zero (max last x.fab.ucycle)]
        ∧ s'.mem = s.mem ∧ s'.graphs = s.graphs)
      ∧ (∃ s' d, exec (.vdrain slot t bsel clr push pos) s = .next s'
        ∧ ((s'.reg r).sheet key).queue = q ++ [.drain b t.val pos.val clr push
            (if bsel = 0 then 0 else y.node.dbar.getD bsel.val 0) (64 * x.fab.ucycle + s.focus.slot) y.node.mround y.node.dtag d]
        ∧ d = max last (max (x.fab.ucycle + 2) ((x.sheet key).lastMerge + 1))
        ∧ ((s'.reg r).bench b).node.dtag = y.node.dtag + if push then 1 else 0)
      ∧ (∀ m', y.plane.sheets.find? ts.val = some m' → ∃ s' d, exec (.vchain slot t ts .here) s = .next s'
        ∧ ((s'.reg r).sheet key).queue = q ++ [.send s.nextId (x.sheetKey b m') d]
        ∧ (s'.reg r).fab.recvs = x.fab.recvs ++ [(s.nextId, x.sheetKey b m')])

/-- R274, R276: VSCALE takes the token at the head of its scale buffer into the scales of a vector, and its ERR goes to SFLAG behind the work already queued; VSPMETA puts the
masks it reads into the metadata vector and moves MROW on, to 0 after MLIM. -/
def Sys2Proof.Claims.ScalesAndMetadata : Prop :=
  ∀ (s : State) (slot : Fin 64) (t : Fin 128) (g : Fin 64) (delta : Fin 4) (chunk : Fin 128) (x : Region) (y : Bench)
    (m : SheetMap) (tok : Token) (rest : List Token) (bs : List Byte),
    let r := s.focus.region
    let b := s.focus.bench
    let key := x.sheetKey b m
    let first := 512 * chunk.val
    let n := min 512 (m.dense (x.sheetBalt key) / 16 - first)
    let masks : List Nat := (List.range n).map (fun k => (bs.getD (2 * k) 0#8).toNat + 256 * (bs.getD (2 * k + 1) 0#8).toNat)
    s.regions.find? r = some x → x.benches.find? b = some y → y.plane.sheets.find? t.val = some m →
      (y.node.scaleBufs.getD t.val [] = tok :: rest → isData tok →
        ∃ s', exec (.vscale slot t chunk false) s = .next s'
          ∧ ((s'.reg r).bench b).node.scaleBufs.getD t.val [] = rest
          ∧ (∀ j < 64, 64 * chunk.val + j < m.groups (x.sheetBalt key) false →
              ((s'.reg r).sheet key).ascale.getD (64 * chunk.val + j) 0x7F#8 = tok.data.extractLsb' (8 * j) 8)
          ∧ ((s'.reg r).sheet key).bscale = (x.sheet key).bscale
          ∧ ((s'.reg r).sheet key).serr = (x.sheet key).serr
          ∧ ((s'.reg r).sheet key).queue = (let q := (x.sheet key).queue
              q ++ if tok.err then [.mark (max ((q.getLast?.map SheetOp.due).getD 0) x.fab.ucycle)] else []))
      ∧ (s.metaRead r b g.val delta.val = .bytes bs false → badBlock m first masks = none →
        ∃ s', exec (.vspmeta slot t g delta true chunk) s = .next s' ∧ s'.mem = s.mem
          ∧ (∀ k < n, ((s'.reg r).sheet key).mask m (first + k) = BitVec.ofNat 16 (masks.getD k 0))
          ∧ ((s'.reg r).bench b).node.mrow = if y.node.mrow = y.node.mlim then 0 else y.node.mrow + 1)

/-- R266, R267, R272 to R278: sheet words. -/
def Obligations.SheetWordsAct : Prop :=
  SheetWordsQueueTheirWork ∧ ScalesAndMetadata

/-- R279, R265, R355: VWAIT drops a data token, and reports one that carried ERR as ended there; the marker or switch
token of the node's round ends it: MROUND and DTAG begin the next, and RP, MROW and STOP as the next begins are kept for its
void; one of another round raises 0x90; a pass marker leaves the node as it is, and a done token sets STOP. -/
def Sys2Proof.Claims.VwaitEndsTheNodesRound : Prop :=
  ∀ (s : State) (slot : Fin 64) (ch : Fin 32) (x : Region) (y : Bench) (t : Token) (rest : List Token),
    let r := s.focus.region
    let b := s.focus.bench
    let i : Instr := .vwait slot ch
    s.regions.find? r = some x → x.benches.find? b = some y → (y.elem 15).bufs.getD ch.val [] = t :: rest →
      (isData t → ∃ s', exec i s = .next s' ∧ (((s'.reg r).bench b).elem 15).bufs.getD ch.val [] = rest
          ∧ ((s'.reg r).bench b).node = y.node)
      ∧ (isData t → t.err = true → exec i s = .next ((s.popTok r b 15 ch.val).sink r t.round t.tag))
      ∧ ((t.kind = .marker ∨ t.kind = .switch) → t.round = y.node.mround → ∃ s', exec i s = .next s'
          ∧ ((∀ c ∈ (y.rec_ 15).chans, c.1 = ch.val → c.2.kind ≠ 4) → (((s'.reg r).bench b).elem 15).bufs.getD ch.val [] = rest)
          ∧ ((s'.reg r).bench b).node = { y.node with
              mround := t.round + 1, dtag := 0#24
              rowsAt := y.node.rowsAt.put (t.round + 1).toNat (y.node.rows, y.node.mrow, y.node.stop) })
      ∧ ((t.kind = .marker ∨ t.kind = .switch) → t.round ≠ y.node.mround → ∃ s' e, exec i s = .next s'
          ∧ s' = s.raiseRound r e ∧ e.cause = 0x90#8 ∧ e.kind = .round ∧ e.info1 = t.header)
      ∧ (t.kind = .pass → ∃ s', exec i s = .next s' ∧ ((s'.reg r).bench b).node = y.node)
      ∧ (t.kind = .done → ∃ s', exec i s = .next s' ∧ ((s'.reg r).bench b).node = { y.node with stop := true, quiesced := false })

/-- R265, R270, R279: VNOP, VEND and VWAIT. -/
def Obligations.SchedulesEndAndWait : Prop :=
  NopAndEndOfTheSchedule ∧ VwaitEndsTheNodesRound

/-- R106, R107: a token of an elastic channel that is due enters the consumer's buffer when that has room and nothing waits
in queue memory, else queue memory behind what waits there; a token leaves queue memory when the buffer has room; credits
that are back become spendable. -/
def Sys2Proof.Claims.ElasticChannelsMoveTokens : Prop :=
  ∀ (s : State) (g c due r b e n : Nat) (G : Graph) (ch : Elastic) (t : Token) (rest : List Token)
    (flight : List (Nat × Token)) (x : Region) (y : Bench) (el : Element),
    s.graphs.find? g = some G → G.chans.find? c = some ch → ch.dst = (r, b, e, n) → hasElem s r b e x y el →
      let after (s' : State) : Elastic := (s'.graph g).chans.getD c ch
      (ch.flight = (due, t) :: flight → due ≤ s.cycle → ch.qmem = [] → s.elasticRoom c ch = true →
        ∃ s', exec (.elasticTokenArrival g c) s = .next s' ∧ (after s').flight = flight ∧ (after s').qmem = []
          ∧ buffer s' r b e n = buffer s r b e n ++ [t])
      ∧ (ch.flight = (due, t) :: flight → due ≤ s.cycle → (ch.qmem ≠ [] ∨ s.elasticRoom c ch = false) →
        ∃ s', exec (.elasticTokenArrival g c) s = .next s' ∧ (after s').flight = flight ∧ (after s').qmem = ch.qmem ++ [t]
          ∧ s'.regions = s.regions)
      ∧ (ch.qmem = t :: rest → s.elasticRoom c ch = true →
        ∃ s', exec (.queueMemoryTransfer g c) s = .next s' ∧ (after s').qmem = rest ∧ (after s').flight = ch.flight
          ∧ buffer s' r b e n = buffer s r b e n ++ [t])
      ∧ (∃ s', exec (.creditReturn g c) s = .next s'
          ∧ (after s').credits = ch.credits + (ch.back.filter (fun d => decide (d ≤ s.cycle))).length
          ∧ (after s').back = ch.back.filter (fun d => decide (s.cycle < d)) ∧ s'.regions = s.regions)

/-- R108, R328: a token on a control line whose time has come, or one injected by the sequencer when every reader has room,
lands in the buffer of the element that binds the line. -/
def Sys2Proof.Claims.ControlTokensReachTheirReaders : Prop :=
  ∀ (s : State) (r line b e n due : Nat) (x : Region) (y : Bench) (el : Element) (l : Nat × Nat × Token) (t : Token)
    (rest : List (Nat × Token)),
    hasElem s r b e x y el → x.lineInputs line = [(b, e, n)] →
      (x.fab.lines.find? (fun l => l.1 == line && decide (l.2.1 ≤ x.fab.ucycle)) = some l →
        ∃ s', exec (.controlTokenArrival r line) s = .next s' ∧ buffer s' r b e n = buffer s r b e n ++ [l.2.2]
          ∧ (s'.reg r).fab.lines = x.fab.lines.erase l ∧ s'.mem = s.mem)
      ∧ (x.fab.lines = [] → x.seq.ctlq.getD line [] = (due, t) :: rest → due ≤ s.cycle → x.lineRoom line = true →
        ∃ s', exec (.controlTokenArrival r line) s = .next s' ∧ buffer s' r b e n = buffer s r b e n ++ [t]
          ∧ (s'.reg r).seq.ctlq.getD line [] = rest ∧ s'.mem = s.mem)

/-- R106 to R108, R328: channels and control lines. -/
def Obligations.ChannelsDeliverTokens : Prop :=
  ElasticChannelsMoveTokens ∧ ControlTokensReachTheirReaders

/-- R95, R121, R306, R154: a block whose words have all fired, that raised nothing, has exits whose condition holds and
leaves plain stores, in lines that no evacuation copies, commits: its registers and predicates take the values its words
gave, every other one stays, the target of the exit of lowest index is the next block, a CALL that is taken writes the
fall-through address to g63, and each byte of memory is the last that its stores put there, every other one as before. No
other region changes. -/
def Sys2Proof.Claims.BlocksCommitWhole : Prop :=
  ∀ (s : State) (r : Nat) (x : Region) (b : Block) (e : Exit) (es : List Exit) (stores : List (Nat × List (Nat × Byte))),
    s.regions.find? r = some x → x.seq.block = some b → b.words.length ≤ b.idx → b.exc = none → b.exits = es →
      e ∈ es → (∀ f ∈ es, f ≠ e → e.index < f.index) →
      b.acts = stores.map (fun a => (a.1, .store a.2)) → (∀ a ∈ stores, ∀ q ∈ a.2, s.vatLocked q.1 = false) →
      b.stale s.mem = false → x.seq.outstanding.length ≤ 64 → b.csrs.round = x.seq.csrs.round →
      let written := stores.flatMap Prod.snd
      ∃ t, exec (.blockCommit r) s = .next t
        ∧ (t.reg r).seq.block = none ∧ (t.reg r).seq.pc = e.target
        ∧ (t.reg r).seq.csrs = { b.csrs with capvec := x.seq.csrs.capvec &&& ~~~b.capClear }
        ∧ (∀ n, (t.reg r).seq.g.getD n 0#64
            = if e.call = true ∧ n = 63 ∧ b.gpos.getD 63 0 ≤ e.pos then BitVec.ofNat 64 (b.addr + 4 * b.words.length)
              else ((b.gw.find? n).map SVal.val).getD (x.seq.g.getD n 0#64))
        ∧ (∀ n, (t.reg r).seq.p.getD n false = ((b.pw.find? n).map Prod.fst).getD (x.seq.p.getD n false))
        ∧ (∀ a, t.mem.read a = (((written.filter (fun q => q.1 == a)).getLast?).map Prod.snd).getD (s.mem.read a))
        ∧ ∀ q, q ≠ r → t.reg q = s.reg q

/-- R287, R289, R293: a block whose reads behind an act of its own no longer hold at its commit does not commit: it stands
again as before those reads, to fire them anew, and nothing else changes. -/
def Sys2Proof.Claims.ReadsBehindAnActHoldAtTheCommit : Prop :=
  ∀ (s : State) (r : Nat) (x : Region) (b : Block) (m : Progress),
    s.regions.find? r = some x → x.seq.block = some b → b.words.length ≤ b.idx → b.exc = none → b.exits ≠ [] →
      s.canCommit r b = true → (∃ q ∈ b.seen, s.mem.read q.1 ≠ q.2) → b.mark = some m →
      ∃ t b', exec (.blockCommit r) s = .next t ∧ t.mem = s.mem ∧ t.dies = s.dies ∧ (∀ q, q ≠ r → t.reg q = s.reg q)
        ∧ (t.reg r).seq = { x.seq with block := some b' } ∧ b'.toProgress = m ∧ b'.seen = []

/-- R96, R150: a block that raised a cause, or none of whose exits holds, is discarded whole: registers, predicates, control
registers, next address and memory stay, and its cause waits for the sequencer: the lowest in block order, or no-exit 0x03
with the failed exits in TRAPINFO0. -/
def Sys2Proof.Claims.BlocksAreDiscardedWhole : Prop :=
  ∀ (s : State) (r : Nat) (x : Region) (b : Block) (c : TrapRec),
    s.regions.find? r = some x → x.seq.block = some b → b.words.length ≤ b.idx → b.slots = [] →
      ((∃ k, b.exc = some (k, c)) ∨ (b.exc = none ∧ b.exits = []
          ∧ c = ⟨0x03#8, .block, BitVec.ofNat 57 b.addr, 0#24, BitVec.ofNat 64 b.failed, 0#64, 0#64, 0#64, 0⟩)) →
      ∃ t, exec (.blockCommit r) s = .next t ∧ t.mem = s.mem ∧ t.dies = s.dies
        ∧ (let q := (t.reg r).seq
           q.block = none ∧ q.pending = { c with ready := s.time } :: x.seq.pending ∧ q.g = x.seq.g ∧ q.p = x.seq.p ∧ q.csrs = x.seq.csrs
           ∧ q.pc = x.seq.pc ∧ q.outstanding = x.seq.outstanding ∧ q.ctlq = x.seq.ctlq)

/-- R95, R306, R154: at the commit the bytes that a block's stores left are written, each address taking the last of them;
every other byte of memory stays, whatever else the block leaves. -/
def Sys2Proof.Claims.StoresReachMemoryAtCommit : Prop :=
  ∀ (s : State) (r pos : Nat) (b : Block) (bs : List (Nat × Byte)) (a : Nat),
    ((s.doAct r b pos (.store bs)).1.mem.read a
      = (((bs.filter (fun x => x.1 == a)).getLast?).map Prod.snd).getD (s.mem.read a))
    ∧ (s.doAct r b pos (.store bs)).1.regions = s.regions ∧ (s.doAct r b pos (.store bs)).2 = b

/-- R306, R315, R321, R323, R325, R328, R330 to R332, R337, R340 to R343: the acts of the control words at their block's
commit. -/
def Obligations.ControlActsTakeEffectAtCommit : Prop :=
  ∀ (s : State) (r pos k : Nat) (x : Region) (b : Block) (d : GReg) (round : BitVec 24) (c : DWord),
    s.regions.find? r = some x →
      let after (a : Act) : Region := (s.doAct r b pos a).1.reg r
      let result (a : Act) : DWord := ((s.doAct r b pos a).2.gw.getD d.val ⟨0#64, false⟩).val
      (after .fswitch).seq.armed = true
      ∧ (after .fstop).fab.stop = true ∧ (after .frun).fab.stop = false
      ∧ (after (.fshrink k)).shreq = some (k, s.cycle) ∧ (after .fgrow).shreq = some (8, s.cycle)
      ∧ (after (.fgrow)).seq.request = 1
      ∧ (d ≠ 0 → b.gpos.getD d.val 0 ≤ pos →
          result (.squery d k) = (if k ∈ x.seq.outstanding then 0#64 else 1#64)
          ∧ result (.fstat d c) = x.fstat c.toNat ∧ result (.vstat d k) = x.vstat k
          ∧ (∀ descr bar, result (.engine 1 d descr bar round) = x.seq.cmdNo.setWidth 64))
      ∧ (∀ descr bar, (after (.engine 1 d descr bar round)).seq.outstanding = x.seq.outstanding ++ [x.seq.cmdNo.toNat])
      ∧ (∀ i y, i < 256 → x.benches.find? i = some y → y.plane.ven = true →
          ((after (.vgo i)).bench i).node.goArmed = true ∧ ((after (.vquiesce i)).bench i).node.stop = true
          ∧ ((after (.vstat d i)).bench i).node.vnstat = 0#32
          ∧ ((after (.vmap (256 * i + 64) c)).bench i).node.mbase = c.toNat
          ∧ ((after (.vmap (256 * i + 65) c)).bench i).node.mrow = c.toNat % 2 ^ 12
          ∧ ((after (.vmap (256 * i + 65) c)).bench i).node.mlim = c.toNat / 2 ^ 12 % 2 ^ 12)
      ∧ (∃ due, s.cycle < due ∧ (after (.finj k c round)).seq.ctlq.getD k []
          = x.seq.ctlq.getD k [] ++ [(due, ⟨.control, false, round, 0#24, BitVec.ofNat 8 k, c.setWidth 512⟩)])
      ∧ (∀ pa, (s.doAct r b pos (.notify pa c)).1.mem.readNat pa 8 = (s.mem.readNat pa 8 + c.toNat) % 2 ^ 64)
      ∧ (s.trapAct r round .yield).reg r = { x with seq := { x.seq with yielded := true } }
      ∧ ((s.trapAct r round (.svc 0 d c)).reg r).seq.hold.ended = true
      ∧ ((s.trapAct r round (.svc 1 d c)).reg r).seq.hold.launch = some (d.val, c.toNat)
      ∧ ((s.trapAct r round .tret).reg r).seq = x.seq.trapReturn
      ∧ (x.seq.csrs.priv = false → x.seq.pending = [] → ∀ n,
          ((s.trapAct r round (.raise 0x05 n c)).reg r).seq.pending
            = [⟨0x05#8, .async, 0#57, 0#24, BitVec.ofNat 64 n, c, 0#64, 0#64, s.time⟩]
          ∧ (2 ≤ n → ((s.trapAct r round (.svc n d c)).reg r).seq.pending
            = [⟨0x04#8, .async, 0#57, 0#24, BitVec.ofNat 64 n, c, 0#64, 0#64, s.time⟩]))

/-- R347, R309: taking a trap at T: TRAPCAUSE, TRAPBLK, TRAPTAG and TRAPINFO0 to 3 take the record, TRAPBLK being the
raising block for a cause of kind block and the next block for every other, PRIV becomes 1 and HANDLER is fetched next; no
general register, predicate or byte of memory changes. -/
def Sys2Proof.Claims.TrapEntrySavesTheRecord : Prop :=
  ∀ (s : State) (r : Nat) (x : Region) (t : TrapRec),
    s.regions.find? r = some x → x.seq.atBoundary = true → x.seq.nextTrap = some (t, false) → s.nextDest r (t, false) = 0 →
      ∃ s', exec (.trapEntry r) s = .next s'
        ∧ (let q := (s'.reg r).seq
           q.csrs.trapcause = t.cause ∧ q.csrs.traptag = t.tag ∧ q.csrs.priv = true
           ∧ q.csrs.trapblk = (if t.kind = .block then t.blk else x.seq.pc.setWidth 57)
           ∧ (∀ k < 4, q.csrs.trapinfo.getD k 0#64 = infos t k)
           ∧ q.pc = x.seq.csrs.handler.setWidth 64 ∧ q.csrs.handler = x.seq.csrs.handler
           ∧ q.csrs.round = x.seq.csrs.round ∧ q.csrs.capvec = x.seq.csrs.capvec
           ∧ q.g = x.seq.g ∧ q.p = x.seq.p ∧ q.pending = x.seq.pending.drop 1)
        ∧ s'.mem = s.mem ∧ ∀ k, k ≠ r → s'.reg k = s.reg k

/-- R342, R349: TRET returns from T: PRIV becomes 0 and TRAPBLK is fetched next, unless a void of a round waited for the
handler's end: then the round's checkpoint is restored. -/
def Sys2Proof.Claims.TrapReturnResumes : Prop :=
  ∀ (q : Seq),
    (q.trapReturn).csrs.priv = false
    ∧ (q.deferred = none → q.trapReturn.pc = q.csrs.trapblk.setWidth 64 ∧ q.trapReturn.g = q.g ∧ q.trapReturn.p = q.p
        ∧ q.trapReturn.csrs = { q.csrs with priv := false })
    ∧ (∀ n c, q.deferred = some n → q.checkpoints.find? n.toNat = some c →
        q.trapReturn.pc = c.pc ∧ q.trapReturn.g = c.g ∧ q.trapReturn.p = c.p ∧ q.trapReturn.csrs.round = c.round
        ∧ q.trapReturn.csrs.fpass = c.fpass ∧ q.trapReturn.csrs.handler = c.handler ∧ q.trapReturn.deferred = none)

/-- R309, R342, R347, R349: taking a trap at T, and returning from it. -/
def Obligations.TrapsEnterAndReturn : Prop :=
  TrapEntrySavesTheRecord ∧ TrapReturnResumes

/-- R350: a trap that goes to S or M stops the sequencer at its boundary, with the record in the trap registers when PRIV is
0; resumed, it fetches TRAPBLK; forwarded, the trap is entered at T. -/
def Sys2Proof.Claims.TrapsAtSupervisorLevel : Prop :=
  ∀ (s : State) (r : Nat) (x : Region) (t : TrapRec) (m : Bool),
    s.regions.find? r = some x → s.sup.activeDie ≠ none →
      (x.seq.atBoundary = true → x.seq.nextTrap = some (t, false) → 0 < s.nextDest r (t, false) →
        ∃ s', exec (.trapAtS r) s = .next s'
          ∧ (∃ u, (s'.reg r).seq.hold.atS = some (u, decide (s.nextDest r (t, false) = 2)) ∧ u.cause = t.cause)
          ∧ (s'.reg r).seq.pc = x.seq.pc ∧ (s'.reg r).seq.csrs.priv = x.seq.csrs.priv
          ∧ (x.seq.csrs.priv = false → (s'.reg r).seq.csrs.trapcause = t.cause)
          ∧ (x.seq.csrs.priv = true → (s'.reg r).seq.csrs = x.seq.csrs)
          ∧ (∃ w, s'.sup.outbox = s.sup.outbox ++ [.supRecord w]))
      ∧ (x.seq.hold.atS = some (t, m) → x.seq.hold.atSPriv = false →
        (∃ s', exec (.trapResume r) s = .next s' ∧ (s'.reg r).seq.pc = x.seq.csrs.trapblk.setWidth 64
          ∧ (s'.reg r).seq.hold.atS = none ∧ (s'.reg r).seq.csrs = x.seq.csrs)
        ∧ (∃ s', exec (.trapForward r) s = .next s' ∧ (s'.reg r).seq.pc = x.seq.csrs.handler.setWidth 64
          ∧ (s'.reg r).seq.hold.atS = none ∧ (s'.reg r).seq.csrs.priv = true ∧ (s'.reg r).seq.csrs.trapcause = t.cause
          ∧ (s'.reg r).seq.csrs.trapblk = x.seq.csrs.trapblk))

/-- R308, R326, R334, R336, R337: a waiting word whose limit has passed fires: RNDWAIT and FDRAIN with the last committed
round and bit 63 set, BARWAIT with what the object shows and bit 63 set, FLAGWAIT with the flag. -/
def Sys2Proof.Claims.WaitsEndAtTheirLimit : Prop :=
  ∀ (s : State) (r : Nat) (v : SeqView) (d a b : GReg) (start cycle : Nat),
    v.blk.waits.find? v.blk.idx = some (start, cycle) → v.g b ≠ 0#64 → start + (v.g b).toNat * 130900 ≤ s.time →
      let l := v.reg.lastRnd
      let fired : Host.Outcome State Fault Refusal :=
        .next ((focused s r).setBlock (v.blk.put d (l.setWidth 64 ||| 0x8000000000000000#64)).advance)
      (InTurn (focused s r) v (.rndwait d a b) → v.blk.word = .instr (.rndwait d a b) →
        (let ahead := ((v.g a).setWidth 24 - l).toNat
         0 < ahead ∧ ahead < 2 ^ 23) → exec (.waitTimeout r) s = fired)
      ∧ (InTurn (focused s r) v (.fdrain d b) → v.blk.word = .instr (.fdrain d b) → v.blk.csrs.round ≠ l + 1 →
        exec (.waitTimeout r) s = fired)
      ∧ (∀ (i : Instr) (ea n x : Nat) (y : DWord) (parts : List Part) (as : List (Option Nat)),
        i = .barwait d a b ∨ i = .flagwait d a b → InTurn (focused s r) v i → v.blk.word = .instr i →
        observeForm v x i = some (d, ea, n, false, y) → ((focused s r).tlb v.r).seqCheck v.reg.job 0 none ea n = .ok parts →
        (focused s r).addrs v.reg.writer none parts = .ok as false → readable (focused s r) v as →
        littleEndian (as.map (v.loadByte s.mem)) = x →
        ∃ b', exec (.waitTimeout r) s = .next ((focused s r).setBlock b'.advance)
          ∧ readInto (focused s r) v as d (if i = .barwait d a b then y ||| 0x8000000000000000#64 else y) b')

/-- R310, R234: an LDVER that waits longer than the freeze budget raises version-wait 0x47 with its address, its index and
the round it names, and poisons gd. -/
def Sys2Proof.Claims.LdverWaitsNoLongerThanTheBudget : Prop :=
  ∀ (s : State) (r : Nat) (v : SeqView) (d a b : GReg) (g : Bool) (z : Size) (start cycle : Nat),
    (focused s r).seqView = some v → v.blk.word = .instr (.ldver d a b g z) → v.blk.waits.find? v.blk.idx = some (start, cycle) →
      (let f := (s.rnode v.r).eff.freeze
       cycle + (if f = 0 then 42500 else f * 850) ≤ s.cycle) →
      exec (.ldverVersionWaitExpiry r) s = .next ((focused s r).setBlock ((v.blk.raise 0x47 (v.g a)
        (BitVec.ofNat 64 (v.blk.idx % 256)) (BitVec.ofNat 64 ((v.g b).toNat % 2 ^ 24)) 0#64).setG d ⟨0#64, true⟩).advance)

/-- R295, R298, R308, R310, R326, R333, R334: words of rounds, and how waits end. -/
def Obligations.RoundWordsAndTheirWaits : Prop :=
  RndendEndsRoundOrPass ∧ RndwaitWaitsForTheRound ∧ FdrainWaitsForTheFabric ∧ WaitsEndAtTheirLimit ∧ LdverWaitsNoLongerThanTheBudget

/-- R92: the line that a sequencer waited for enters its set of the block cache as the latest used, and at most three of
the lines that stood there before stay with it. -/
def Sys2Proof.Claims.CacheLineFillsAreLeastRecentlyUsed : Prop :=
  ∀ (s : State) (r addr due : Nat) (x : Region) (parts : List Part) (bs : List Byte) (err : Bool),
    s.regions.find? r = some x → x.seq.filling = some (addr, due) → due ≤ s.cycle →
      (s.tlb r).seqCheck x.job 3 none addr 64 = .ok parts → s.readParts x.writer none parts = .bytes bs err →
      ∃ t, exec (.blockCacheLineFill r addr) s = .next t ∧ (t.reg r).seq.filling = none ∧ t.mem = s.mem
        ∧ (let set := (t.reg r).seq.cache.getD (cacheSet (s.cacheLost r) addr) []
           set.getLast? = some ⟨addr, bs, false⟩ ∧ set.length ≤ 4
           ∧ ∀ l ∈ set, l.addr ≠ addr → l ∈ x.seq.cache.getD (cacheSet (s.cacheLost r) addr) [])

/-- R92, R95, R96, R121, R150, R154, R287, R289, R293: blocks commit or are discarded whole. -/
def Obligations.BlocksAreAtomic : Prop :=
  BlocksCommitWhole ∧ ReadsBehindAnActHoldAtTheCommit ∧ BlocksAreDiscardedWhole ∧ StoresReachMemoryAtCommit ∧ CacheLineFillsAreLeastRecentlyUsed

/-- R212 to R215, R246, R247: the walk of the first waiting request of a stream: translated, it waits for memory, and a probe
pins its pages and answers with the lanes that have an access, or raises 0x4C for a page too many; on a page that is not
resident it is parked in the die's parked-access table with its address, for a retry in 1,024 cycles; on a fault it is done
with, and the cause is raised for the region's graph. -/
def Sys2Proof.Claims.PageWalksTranslateParkOrRaise : Prop :=
  ∀ (s : State) (r b st i page : Nat) (x : Region) (y : Bench) (q : Request) (parts : List Part) (va reason c i0 i2 i3 : Nat)
    (pins : List Pin) (el : Element),
    hasBench s r b x y →
      y.port.reqs.find? (fun q => q.stream == st && y.port.walking s.cycle q) = some q →
      ((∀ dst, q.kind = .probe dst → s.reqWalk r b q = .ok parts →
        (addPins (y.port.pinned q.round) parts = .ok pins → y.elems.find? 0 = some el →
          ∃ s' z, exec (.pageWalk r b st) s = .next s' ∧ portReqs s' r b = y.port.reqs.filter (fun o => o.seq != q.seq)
            ∧ (s'.port r b).pinned q.round = pins ∧ (((s'.reg r).bench b).elem 0).pipe = el.pipe ++ [z]
            ∧ z.dst = dst ∧ z.due = x.fab.ucycle ∧ z.tok.kind = .data ∧ z.tok.round = q.round ∧ z.tok.tag = q.tag ∧ z.tok.err = q.err
            ∧ ∀ i < 16, lane z.tok.data i = if q.accs.any (fun a => a.lane == i) then 1#32 else 0#32)
        ∧ (addPins (y.port.pinned q.round) parts = .error page → s.graphs.find? x.graph ≠ none →
          ∃ s' e, exec (.pageWalk r b st) s = .next s' ∧ (s'.graph x.graph).raised = (s.graph x.graph).raised ++ [⟨r, e⟩]
            ∧ e.cause = 0x4C#8 ∧ e.info0 = BitVec.ofNat 64 page ∧ e.info1 = q.pos)))
      ∧ ((∀ dst, q.kind ≠ .probe dst) → s.reqWalk r b q = .ok parts →
        ∃ s' d, exec (.pageWalk r b st) s = .next s' ∧ s.cycle ≤ d
          ∧ portReqs s' r b = withRequest y.port.reqs q.seq (fun o => { o with state := .translated, due := d }) ∧ s'.mem = s.mem)
      ∧ (s.reqWalk r b q = .park va reason → (s.die x.place.die).freeParked = some i →
        ∃ s', exec (.pageWalk r b st) s = .next s'
          ∧ portReqs s' r b = withRequest y.port.reqs q.seq (fun o => { o with state := .parked })
          ∧ (∃ p, (s'.die x.place.die).parked.find? i = some p ∧ p.va = va ∧ p.region = r ∧ p.bench = b ∧ p.stream = st
              ∧ p.seq = q.seq ∧ p.pos = q.pos ∧ p.reason = reason ∧ p.retryAt = s.cycle + 1024 ∧ p.step = 0 ∧ p.probe = false))
      ∧ (s.reqWalk r b q = .fail c i0 i2 i3 → s.graphs.find? x.graph ≠ none →
        ∃ s' e, exec (.pageWalk r b st) s = .next s'
          ∧ portReqs s' r b = withRequest y.port.reqs q.seq (fun o => { o with state := .failed })
          ∧ (s'.graph x.graph).raised = (s.graph x.graph).raised ++ [⟨r, e⟩] ∧ e.cause = BitVec.ofNat 8 c ∧ e.kind = .round
          ∧ e.info0 = BitVec.ofNat 64 i0 ∧ e.info1 = q.pos ∧ e.info2 = BitVec.ofNat 64 i2 ∧ e.info3 = BitVec.ofNat 64 i3)

/-- R215, R216: a parked access that still misses its page waits 2^(10 + STEP) cycles more, STEP rising to at most
CEILSTEP; one that misses another page parks anew; one that passes gives its entry back and waits for memory; a waiting
access takes a free entry; the freeze budget's end voids the round that the region executes, and raises version-wait 0x47
unless a parked access held the region. -/
def Sys2Proof.Claims.ParkedAccessesRetry : Prop :=
  ∀ (s : State) (die idx i r : Nat) (p : Parked) (rest : List Parked) (x : Region) (y : Bench) (q : Request)
    (va reason : Nat) (parts : List Part),
    ((s.die die).parked.find? idx = some p → p.retryAt ≤ s.cycle → p.probe = false →
      (s.port p.region p.bench).reqs.find? (fun q => q.seq == p.seq && q.stream == p.stream && q.state == .parked) = some q →
      (s.reqWalk p.region p.bench q = .park va reason → va ≠ p.va → idx < 1024 → (s.reg p.region).place.die = die →
        hasBench s p.region p.bench x y →
        ∃ s' j p', exec (.parkedRetry die idx) s = .next s' ∧ (s'.die die).parked.find? j = some p'
          ∧ p'.va = va ∧ p'.seq = q.seq ∧ p'.reason = reason ∧ p'.step = 0 ∧ p'.retryAt = s.cycle + 1024
          ∧ (j = idx ∨ (s'.die die).parked.find? idx = none))
      ∧ (s.reqWalk p.region p.bench q = .park va reason → va = p.va → ∃ s', exec (.parkedRetry die idx) s = .next s'
        ∧ (let step := if p.step < (s.die die).ceil then p.step + 1 else p.step
           (s'.die die).parked.find? idx = some { p with step := step, retryAt := s.cycle + 2 ^ (10 + step) }))
      ∧ ((∀ dst, q.kind ≠ .probe dst) → s.reqWalk p.region p.bench q = .ok parts → hasBench s p.region p.bench x y →
        ∃ s' d, exec (.parkedRetry die idx) s = .next s' ∧ (s'.die die).parked.find? idx = none ∧ s.cycle ≤ d
          ∧ portReqs s' p.region p.bench = withRequest y.port.reqs q.seq (fun o => { o with state := .translated, due := d })))
    ∧ ((s.die die).parkWait = p :: rest → (s.die die).freeParked = some i → (s.reg p.region).place.die = die →
      ∃ s', exec (.parkedAccessAdmit die) s = .next s' ∧ (s'.die die).parkWait = rest
        ∧ (s'.die die).parked.find? i = some { p with retryAt := s.cycle + 1024, step := 0 })
    ∧ (s.regions.find? r = some x → s.graphs.find? x.graph ≠ none → s.freezeBudget r ≤ x.fab.budget →
      (x.fab.budgetParked = true → ∃ s', exec (.freezeBudgetExpiry r) s = .next s'
        ∧ (s'.graph x.graph).voidReq = some x.executing ∧ (s'.graph x.graph).raised = (s.graph x.graph).raised
        ∧ s'.regions = s.regions)
      ∧ (x.fab.budgetParked = false → ∃ s' e, exec (.freezeBudgetExpiry r) s = .next s'
        ∧ (s'.graph x.graph).raised = (s.graph x.graph).raised ++ [⟨r, e⟩] ∧ e.cause = 0x47#8
        ∧ (s'.graph x.graph).voidReq = some x.executing))

/-- R212 to R216: page walks and parked accesses. -/
def Obligations.TranslationParksAndRetries : Prop :=
  PageWalksTranslateParkOrRaise ∧ ParkedAccessesRetry

/-- R213, R244, R246: a load that memory performs holds the bytes it read, lowest address first, and waits for its turn in
the stream; a store writes its selected bytes at the address it was translated to, leaves every other byte of memory, and
is done; the reply at the head of a stream enters the stream's kind 3 input with the header of its request. -/
def Sys2Proof.Claims.RequestsArePerformed : Prop :=
  ∀ (s : State) (r b st e n : Nat) (x : Region) (y : Bench) (q : Request) (p : Part) (bs : List Byte) (a : Access) (el : Element),
    hasBench s r b x y →
      (y.port.next st = some q → q.state = .translated → q.due ≤ s.cycle → y.port.released q = true →
        s.reqWalk r b q = .ok [p] → s.reqHeld (s.reqTouched r q [p]) = false →
        ((∃ m, q.kind = .load m) → s.readReq r b q = .bytes bs false → bs.length ≤ 64 →
          ∃ s' d, exec (.memoryRequestPerformed r b st) s = .next s' ∧ s'.mem = s.mem ∧ s.cycle ≤ d
            ∧ portReqs s' r b = withRequest y.port.reqs q.seq (fun o => { o with
                state := .performed, data := BitVec.ofNat 512 (littleEndian bs), err := o.err, due := d }))
        ∧ (q.kind = .store → q.err = false → q.accs = [a] →
          peVerp p.leaf.entry = false → a.len ≤ 64 → p.len = a.len →
          ∃ s', exec (.memoryRequestPerformed r b st) s = .next s'
            ∧ portReqs s' r b = y.port.reqs.filter (fun o => o.seq != q.seq)
            ∧ (∀ z, z < p.leaf.pa ∨ p.leaf.pa + a.len ≤ z → s'.mem.read z = s.mem.read z)
            ∧ (∀ j < a.len, s'.mem.read (p.leaf.pa + j)
                = if q.lanes.getLsbD (j / 4) && q.bmask.getLsbD j then q.data.extractLsb' (8 * j) 8
                  else s.mem.read (p.leaf.pa + j))))
      ∧ (y.port.reqs.find? (fun q => q.stream == st) = some q → q.state = .performed → q.due ≤ s.cycle →
        y.streamInput st = some (e, n) → x.bufFull b e n = false → y.elems.find? e = some el →
        ∃ s', exec (.memoryReply r b st) s = .next s'
          ∧ portReqs s' r b = y.port.reqs.filter (fun o => o.seq != q.seq)
          ∧ buffer s' r b e n = buffer s r b e n ++ [⟨.data, q.err, q.round, q.tag, BitVec.ofNat 8 st, q.data⟩])

/-- R249, R250: an owner whose one input gave an update of its round applies it at memory: the word takes the updated
value, every other byte stays, and the update leaves the window. -/
def Sys2Proof.Claims.OwnerUpdatesMemory : Prop :=
  ∀ (s : State) (r b n : Nat) (x : Region) (y : Bench) (w : OwnTok) (p : Part) (d k : Opnd) (new : Nat) (op : RmwOp) (rng : Range),
    let o := y.port.owner
    let va := requestAddr w.tok.data
    let old := s.mem.readNat p.leaf.pa 4
    let arg := (lane w.tok.data 2).toNat
    hasBench s r b x y → o.cfg = some (.rmw op false none d k) → opndChan d = some n → opndChan k = none →
      o.out = none → o.window = [w] → w.input = n → isData w.tok → w.tok.round = o.round → w.tok.err = false →
      (y.elem 0).bufs.getD n [] = [] →
      (∀ i, 3 ≤ i → i < 16 → lane w.tok.data i = 0#32) → va % 4 = 0 →
      y.plane.men = true →
      y.plane.ranges.find? (fun r => decide (r.base ≤ va ∧ va + 4 ≤ r.base + r.len)) = some rng → rng.perm / 4 % 2 = 1 →
      s.portWalk x.job 2 rng.ver va 4 (s.port r b).pinSet = .ok [p] → s.reqHeld [p.leaf.pa] = false → s.badBytes p.leaf.pa 4 = false →
      (o.undo.getD w.tok.round.toNat []).length < 64 →
      (match op with
        | .add => some ((old + arg) % 2 ^ 32)
        | .and => some (old &&& arg)
        | .or => some (old ||| arg)
        | .xor => some (old ^^^ arg)
        | .minn => some (min old arg)
        | .maxn => some (max old arg)
        | .xch => some arg
        | _ => none) = some new →
      ∃ s', exec (.ownerUpdate r b) s = .next s' ∧ s'.mem.readNat p.leaf.pa 4 = new
        ∧ (∀ z, z < p.leaf.pa ∨ p.leaf.pa + 4 ≤ z → s'.mem.read z = s.mem.read z)
        ∧ (s'.port r b).owner.window = []

/-- R242 to R251: the memory port and the owner node. -/
def Obligations.RequestsReachMemory : Prop :=
  RequestsArePerformed ∧ OwnerUpdatesMemory

/-- R99, R181, R182: results whose time has come land: in a register the selected lanes are new and the others stay, with
the result's ERR; in a mask all of it, but a write of m0 is discarded; a result that is not due stays in the pipeline,
unless a result of a later bundle to the same register lands. -/
def Sys2Proof.Claims.ResultsLandInTheirDestination : Prop :=
  ∀ (s : State) (r b e n : Nat) (x : Region) (y : Bench) (el : Element) (p q : Pending),
    hasElem s r b e x y el →
      let after (s' : State) : Element := ((s'.reg r).bench b).elem e
      (el.pipe = [p, q] → p.due ≤ x.fab.ucycle → x.fab.ucycle < q.due → p.dst = .reg n → q.dst = .reg n →
        ∃ s', exec (.resultWriteback r b e) s = .next s'
          ∧ (after s').pipe = if q.order / 4 < p.order / 4 then [] else [q])
      ∧ (el.pipe = [p] → (p.due ≤ x.fab.ucycle → p.dst = .reg n → ∃ s', exec (.resultWriteback r b e) s = .next s'
        ∧ (∀ i < 16, lane ((after s').regs.getD n ⟨0#512, false⟩).val i
            = if p.lanes.getLsbD i then lane p.tok.data i else lane (el.regs.getD n ⟨0#512, false⟩).val i)
        ∧ ((after s').regs.getD n ⟨0#512, false⟩).err = p.tok.err ∧ (after s').pipe = []
        ∧ (∀ k, k ≠ n → (after s').regs.getD k ⟨0#512, false⟩ = el.regs.getD k ⟨0#512, false⟩)
        ∧ (after s').masks = el.masks ∧ (after s').local_ = el.local_ ∧ s'.mem = s.mem)
      ∧ (p.due ≤ x.fab.ucycle → p.dst = .mask n → ∃ s', exec (.resultWriteback r b e) s = .next s'
        ∧ (n ≠ 0 → (after s').masks.getD n ⟨0#16, false⟩ = ⟨p.tok.data.setWidth 16, p.tok.err⟩)
        ∧ (n = 0 → (after s').masks = el.masks) ∧ (after s').regs = el.regs)
      ∧ (x.fab.ucycle < p.due → exec (.resultWriteback r b e) s = .next s))

/-- R267, R272, R174, R277, R280: the entry at the head of a sheet's queue whose cycle has come: a firing is merged into the
accumulator, VZERO clears it with its flags, the ERR of a scale enters SFLAG, and a drain resolves it into a token position of the output buffer, reports
its status to the node, clears when asked, and with PUSH sends the buffer to element 15. -/
def Sys2Proof.Claims.SheetsMergeClearAndDrain : Prop :=
  ∀ (s : State) (r k l b t pos n dbar fired due : Nat) (x : Region) (y : Bench) (el : Element) (tok : BitVec 128) (fmt err clr : Bool)
    (round tag : BitVec 24) (rest : List SheetOp),
    let key := k * 4096 + l
    let sh := x.sheet key
    let after (s' : State) : Sheet := (s'.reg r).sheet key
    hasElem s r b 15 x y el → due ≤ x.fab.ucycle →
      (sh.queue = .fire tok fmt err due :: rest → ∃ s', exec (.firingMerge r k l) s = .next s'
        ∧ (after s').acc = csMerge sh.acc tok ∧ (after s').sfmt = (sh.sfmt || fmt) ∧ (after s').serr = (sh.serr || err)
        ∧ (after s').queue = rest ∧ (after s').a = sh.a ∧ s'.mem = s.mem)
      ∧ (sh.queue = .zero due :: rest → ∃ s', exec (.firingMerge r k l) s = .next s'
        ∧ (after s').acc = csZero ∧ (after s').sfmt = false ∧ (after s').serr = false ∧ (after s').queue = rest)
      ∧ (sh.queue = .mark due :: rest → ∃ s', exec (.firingMerge r k l) s = .next s'
        ∧ (after s').serr = true ∧ (after s').acc = sh.acc ∧ (after s').sfmt = sh.sfmt ∧ (after s').queue = rest)
      ∧ (pos < 4 → sh.queue = .drain b t pos clr true dbar fired round tag due :: rest → x.vatChan b t false = some n →
        ∃ s' v, exec (.drainTokenLanding r k l) s = .next s'
          ∧ buffer s' r b 15 n = buffer s r b 15 n ++ [v]
          ∧ v.kind = .data ∧ v.round = round ∧ v.tag = tag ∧ v.err = (sh.serr || !(sh.bufErr.erase pos).isEmpty)
          ∧ (∀ j < 4, csTok v.data j = if j = pos then csResolve sh.acc else csTok sh.buf j)
          ∧ ((s'.reg r).bench b).node.vnstat = y.node.vnstat ||| drainStatus sh
          ∧ (after s').acc = (if clr then csZero else sh.acc) ∧ (after s').queue = rest
          ∧ ((s'.reg r).bench b).node.drains = y.node.drains ++ (if dbar = 0 ∨ precedes round (s.graph x.graph).next = true then []
              else [⟨round, fired, dbar, drainStatus sh⟩]))

/-- R174, R181, R267, R272, R277, R280: results and sheets. -/
def Obligations.ResultsAndSheets : Prop :=
  ResultsLandInTheirDestination ∧ SheetsMergeClearAndDrain

/-- R352, R353, R383, R384, R387: a held graph whose replay may begin is held no longer, with its regions' counters at
phase 0 and slot 0; a graph whose round fulfils R383 takes the next round, and LASTRND of each of its regions becomes the
round that committed; until then nothing happens. A finished region gives up its grants, queue memory and benches, once a
complex is active. -/
def Obligations.RoundsReplayAndCommit : Prop :=
  ∀ (s : State) (g r : Nat) (G : Graph) (x : Region),
    hasGraph s g G → s.regions.find? r = some x →
      (s.mayReplay g = true → r ∈ G.regions → ∃ s', exec (.replayStart g) s = .next s' ∧ (s'.graph g).held = false
        ∧ (s'.graph g).next = G.next ∧ (s'.reg r).fab.phase = 0 ∧ (s'.reg r).fab.budget = 0 ∧ (s'.reg r).seq = x.seq
        ∧ (∀ b y, x.benches.find? b = some y → ((s'.reg r).bench b).node.slot = 0 ∧ ((s'.reg r).bench b).elems = y.elems)
        ∧ s'.mem = s.mem)
      ∧ (s.mayReplay g = false → exec (.replayStart g) s = .next s)
      ∧ (commits s g G.next → r ∈ G.regions → ∃ s', exec (.roundCommit g) s = .next s'
          ∧ (s'.graph g).next = G.next + 1 ∧ (s'.reg r).lastRnd = G.next)
      ∧ (¬commits s g G.next → exec (.roundCommit g) s = .next s)
      ∧ (x.life = .finished → active s → ∃ s', exec (.regionRelease r) s = .next s' ∧ (s'.reg r).life = .released
          ∧ (s'.reg r).benches = [] ∧ (s'.reg r).holds s'.cycle = false
          ∧ (∀ k ∈ (s'.die x.place.die).grants, k.2.region ≠ r)
          ∧ (s'.die x.place.die).qfree = (s.die x.place.die).qfree + x.place.qmem ∧ s'.mem = s.mem)
      ∧ (x.life = .finished → ¬active s → exec (.regionRelease r) s
          = .next { s with timers := s.timers ++ [(s.cycle + 1, .regionRelease r)] })
      ∧ (x.life ≠ .finished → exec (.regionRelease r) s = .next s)

/-- R303, R305, R228: an arrival on a well-formed object counts and collects the status; the last one of a phase gives the
status, flips the phase and begins the next; one on a malformed object changes nothing in memory and raises
barrier-malformed 0x4E. A flag add adds 1 to its doubleword. Every other byte stays. -/
def Sys2Proof.Claims.ArrivalsAndFlagAdds : Prop :=
  ∀ (s : State) (job addr r : Nat) (st : Word) (x : Region) (p : Part),
    let pa := p.leaf.pa
    let n := s.mem.readNat pa 16
    let good := n / 2 ^ 48 % 2 ^ 15 = 0 ∧ objArrived n < objExpected n
    s.regions.find? r = some x →
      (objectAt s job addr p → good → ∃ s', exec (.barrierArrival job addr r st) s = .next s'
        ∧ (let m := s'.mem.readNat pa 16
           objExpected m = objExpected n ∧ m / 2 ^ 48 % 2 ^ 15 = 0
           ∧ (objArrived n + 1 < objExpected n → objArrived m = objArrived n + 1 ∧ objPhase m = objPhase n
              ∧ objPend m = objPend n ||| st.toNat ∧ objStatus m = objStatus n)
           ∧ (objArrived n + 1 = objExpected n → objArrived m = 0 ∧ objPhase m = 1 - objPhase n
              ∧ objPend m = 0 ∧ objStatus m = objPend n ||| st.toNat))
        ∧ (∀ z, z < pa ∨ pa + 16 ≤ z → s'.mem.read z = s.mem.read z) ∧ s'.regions = s.regions)
      ∧ (objectAt s job addr p → ¬good → x.seq.pending = [] → ∃ s', exec (.barrierArrival job addr r st) s = .next s'
        ∧ s'.mem = s.mem ∧ (s'.reg r).seq.pending = [⟨0x4E#8, .async, 0#57, 0#24, BitVec.ofNat 64 addr,
          BitVec.ofNat 64 (s.mem.readNat pa 8), st.setWidth 64, 0#64, s.time⟩])
      ∧ (∀ die : Fin 4, addr < 2 ^ 64 → s.seqCheck job 2 (some false) addr 8 = .ok [p] → addr % 8 = 0 → s.vatLocked pa = false →
        ∃ s', exec (.flagAdd job (flagSite die.val addr)) s = .next s' ∧ s'.mem.readNat pa 8 = (s.mem.readNat pa 8 + 1) % 2 ^ 64
          ∧ (∀ z, z < pa ∨ pa + 8 ≤ z → s'.mem.read z = s.mem.read z) ∧ s'.regions = s.regions)

/-- R303, R305, R335 to R337, R228: barriers, flags and notifications. -/
def Obligations.SynchronizationIsCounted : Prop :=
  WaitsObserveMemory ∧ ArrivalsAndNotifications ∧ ArrivalsAndFlagAdds

/-- R53 to R55, R85, R86, R388: a switch begins in the cycle in which the last marker has passed and the shadow planes are
valid; in the next cycle every bench runs its shadow plane and the block cache is empty; after one more cycle it is over.
An unmatched token at its beginning makes it fail with drain-unmatched 0x97. A fill that is due gives the shadow plane the
record of the supervisor copy, or an invalid plane and cause 0xA0 where the copy has an uncorrectable error; a fill asked
for meanwhile then begins. -/
def Obligations.PlanesSwitchAndFill : Prop :=
  ∀ (s : State) (r b : Nat) (x : Region) (y : Bench) (w : Switching) (c : Nat),
    let i : Instr := if w.pass then .passSwitch r else .switch r
    hasBench s r b x y →
      (x.switching = some w → w.done = false → w.start = none → s.drained r w = true → x.filling = false → x.spoiled = false →
        x.shape = none →
        (s.unmatched r w = none → ∃ s', exec i s = .next s'
          ∧ (s'.reg r).switching = some { w with start := some s.cycle } ∧ (s'.reg r).benches = x.benches)
        ∧ (∀ t, s.unmatched r w = some t → s.graphs.find? x.graph ≠ none → ∃ s' e, exec i s = .next s'
          ∧ (s'.reg r).switching = none ∧ (s'.reg r).benches = x.benches
          ∧ (s'.graph x.graph).raised = (s.graph x.graph).raised ++ [⟨r, e⟩] ∧ e.cause = 0x97#8 ∧ e.tag = t.tag))
      ∧ (x.switching = some w → w.done = false → w.start = some c → s.cycle = c + 1 → x.refill ≠ 3 → ∃ s', exec i s = .next s'
          ∧ ((s'.reg r).bench b).plane = y.shadow.plane ∧ (s'.reg r).place.ctx = (x.bench 0).shadow.ctx
          ∧ (s'.reg r).fab.phase = 0 ∧ (s'.reg r).seq.cache = [] ∧ (s'.reg r).seq.g = x.seq.g
          ∧ (∀ e el, y.elems.find? e = some el → (((s'.reg r).bench b).elem e).regs = el.regs
              ∧ (((s'.reg r).bench b).elem e).local_ = el.local_)
          ∧ s'.mem = s.mem)
      ∧ (x.switching = some w → w.done = false → w.start = some c → c + 2 ≤ s.cycle → x.owed = [] → ∃ s', exec i s = .next s'
          ∧ (s'.reg r).switching = (if w.pass = true ∨ w.round = x.lastRnd then none else some { w with done := true }))
      ∧ (y.shadow.state = 1 → y.shadow.doneAt ≤ s.cycle → x.life ≠ .filling → x.refill = 0 →
        let m := s.image r y.shadow.img
        let b' := b / x.place.cols * m.cols + b % x.place.cols
        (m.badUnit y.shadow.ctx b' = none → y.shadow.queue = [] → ∃ s', exec (.fillComplete r) s = .next s'
          ∧ ((s'.reg r).bench b).shadow.state = 2
          ∧ ((s'.reg r).bench b).shadow.plane = m.plane y.shadow.ctx b'
          ∧ ((s'.reg r).bench b).plane = y.plane)
        ∧ (∀ o, m.badUnit y.shadow.ctx b' = some o → y.shadow.queue = [] → ∃ s', exec (.fillComplete r) s = .next s'
          ∧ ((s'.reg r).bench b).shadow.state = 3 ∧ ((s'.reg r).bench b).plane = y.plane
          ∧ ∃ e ∈ (s'.reg r).seq.pending ++ (s'.reg r).seq.hold.spill,
            e.cause = 0xA0#8 ∧ e.kind = .async ∧ e.info0 = BitVec.ofNat 64 y.shadow.img ∧ e.info1 = BitVec.ofNat 64 o)
        ∧ (∀ img ctx rest, y.shadow.queue = (img, ctx) :: rest → ∃ s', exec (.fillComplete r) s = .next s'
          ∧ ((s'.reg r).bench b).shadow.state = 1 ∧ ((s'.reg r).bench b).shadow.img = img
          ∧ ((s'.reg r).bench b).shadow.ctx = ctx ∧ ((s'.reg r).bench b).shadow.queue = rest))

/-- R350, R67, R81: S ends a trap: the job ends in STATE 5 with the trap's cause and its running regions are gone; or S
has the region relaunched: its graph is held after a void, and it waits for benches with the trap served. -/
def Sys2Proof.Claims.SupervisorEndsOrRelaunches : Prop :=
  ∀ (s : State) (r : Nat) (x : Region) (j : Job) (t : TrapRec) (m : Bool),
    s.regions.find? r = some x → x.seq.hold.atS = some (t, m) → active s →
      (liveJob s x.job j → x.life = .running → ∃ s', exec (.trapEnd r) s = .next s' ∧ endedWith s' x.job t.cause
        ∧ (s'.reg r).life = .failed ∧ (s'.reg r).benches = [])
      ∧ (x.life = .running → s.graphs.find? x.graph ≠ none → s.unit r = [r] →
        ∃ s', exec (.trapRelaunch r) s = .next s' ∧ (s'.reg r).life = .waiting ∧ (s'.reg r).seq.hold.atS = none
          ∧ (s'.reg r).nrela = x.nrela + 1 ∧ (s'.graph x.graph).held = true)

/-- R67, R81, R350: traps at S and M. -/
def Obligations.TrapsAtTheSupervisor : Prop :=
  TrapsAtSupervisorLevel ∧ SupervisorEndsOrRelaunches

/-- R60, R62, R69, R73: a notify that passes the checks of R62 sets LASTSEQ and TAIL of its queue; one that is dropped
counts in exactly one counter; while no complex is active it waits at its link. A report message that passes sets LASTSEQ,
and S installs a key with its LASTSEQ at one instant. -/
def Sys2Proof.Claims.NotifiesAreCheckedAndCounted : Prop :=
  ∀ (s : State) (n : NotifyMsg) (m : ReportMsg) (key : BitVec 256) (seq : BitVec 48) (d : WQueue),
    let q := n.dw0.toNat % 4096
    let after (s' : State) : WQueue := s'.sup.queues.getD q .init
    let field (w : WQueue) (k lo bits : Nat) : Nat := (w.words.getD k 0#64).toNat / 2 ^ lo % 2 ^ bits
    let res := s.notifyCheck n.path n.src n.dw0 n.dw1 none n.tag
    let resM := s.notifyCheck m.path m.src m.dw0 m.dw1 (some m.report) m.tag
    s.sup.queues.find? q = some d →
      (active s → res = .accepted → ∃ s', exec (.notifyArrival n) s = .next s'
        ∧ field (after s') 3 16 48 = n.dw0.toNat / 2 ^ 16 ∧ field (after s') 2 32 32 = n.dw1.toNat / 2 ^ 32
        ∧ field (after s') 2 0 32 = field d 2 0 32 ∧ (after s').key = d.key ∧ s'.mem = s.mem)
      ∧ (active s → ∃ s', exec (.notifyArrival n) s = .next s' ∧ s'.mem = s.mem
        ∧ (res = .unroutable → s'.sup.unroutable = s.sup.unroutable + 1 ∧ s'.sup.queues = s.sup.queues)
        ∧ (res = .malformed → field d 3 0 16 < 2 ^ 16 - 1 → field (after s') 3 0 16 = field d 3 0 16 + 1)
        ∧ (res = .stale → field d 4 32 32 < 2 ^ 32 - 1 → field (after s') 4 32 32 = field d 4 32 32 + 1)
        ∧ (res = .badTag → field d 4 0 32 < 2 ^ 32 - 1 → field (after s') 4 0 32 = field d 4 0 32 + 1)
        ∧ (res ≠ .accepted → field (after s') 3 16 48 = field d 3 16 48 ∧ field (after s') 2 32 32 = field d 2 32 32))
      ∧ (s.sup.activeDie = none → exec (.notifyArrival n) s
          = .next { s with timers := s.timers ++ [(s.cycle + 1, .notifyArrival n)] })
      ∧ (active s → m.dw0.toNat % 4096 = q → resM = .accepted → ∃ s', exec (.reportMessageReceived m) s = .next s'
        ∧ field (after s') 3 16 48 = m.dw0.toNat / 2 ^ 16 ∧ field (after s') 2 32 32 = field d 2 32 32)
      ∧ (∃ s', exec (.keyInstallation q key seq) s = .next s' ∧ (after s').key = some key
        ∧ field (after s') 3 16 48 = seq.toNat ∧ s'.mem = s.mem)

/-- R65 to R68: a well-formed packet in turn is handled and then HEAD moves past it: a launch with a new LID takes an entry
of the launch table, in STATE 1, or in STATE 6 when it fails its checks; one with an LID that the queue holds starts
nothing; a cancel ends its launch in STATE 5 with cause 0xB0; a query changes no launch and sends the report of the
launch's state. -/
def Sys2Proof.Claims.PacketsAreHandled : Prop :=
  ∀ (s : State) (q : Nat) (d : WQueue) (j : Nat) (x : Job),
    let p := s.packet q
    let inTurn (e : Event) : Prop := s.sup.queues.find? q = some d ∧ d.head ≠ d.tail ∧ active s ∧ s.tableFull = false
      ∧ s.packetEvent q = e ∧ p.bad = false
    let known (l : Word) : Prop := (s.liveJob q l).isSome = true ∨ ∃ o ∈ d.outcomes, o.1 = l
    let moved (s' : State) : Prop := (s'.sup.queues.getD q .init).head = (d.head + 1) % 2 ^ 32
    (inTurn (.launchPacket q) → ¬known p.lid → (∀ y ∈ p.deps, y.1 ≠ p.lid ∧ known y.1) → s.nextId ≠ queueSpace →
        ∃ s', exec (.launchPacket q) s = .next s' ∧ moved s' ∧ (s'.job s.nextId).lid = p.lid ∧ (s'.job s.nextId).queue = q
          ∧ (s'.job s.nextId).rcb = p.rcb ∧ ((s'.job s.nextId).state = 1 ∨ (s'.job s.nextId).state = 6))
      ∧ (inTurn (.launchPacket q) → known p.lid →
        ∃ s', exec (.launchPacket q) s = .next s' ∧ moved s' ∧ ∀ k, k ≠ queueSpace → s'.job k = s.job k)
      ∧ (inTurn (.cancelPacket q) → s.liveJob q p.lid = some j → liveJob s j x →
        ∃ s', exec (.cancelPacket q) s = .next s' ∧ moved s' ∧ endedWith s' j 0xB0#8)
      ∧ (inTurn (.queryPacket q) → s.nvm.chipOk = true → d.remote = false → s.liveJob q p.lid = some j → x = s.job j →
        ∃ s' m, exec (.queryPacket q) s = .next s' ∧ moved s' ∧ (∀ k, k ≠ queueSpace → s'.job k = s.job k)
          ∧ s'.sup.outbox = s.sup.outbox ++ [.localReport q m]
          ∧ m.toNat % 2 ^ 64 = (0x81 * 2 ^ 56 + x.state * 2 ^ 52 + x.cause.toNat * 2 ^ 40 + p.lid.toNat) % 2 ^ 64)

/-- R70: a residency report that is due goes to the scheduler queue's report target; FAILOVER is reported once, and no
second report follows within 100 microseconds, which are 85,000 cycles at every clock step (R5). -/
def Sys2Proof.Claims.ResidencyReportsGoOut : Prop :=
  ∀ (s : State) (q : Nat),
    s.sup.schedQ = some q →
      (s.residencyDue = true → ∃ s' m, exec .residencyReport s = .next s' ∧ s'.sup.outbox = s.sup.outbox ++ [m]
        ∧ s'.sup.failover = false ∧ s'.sup.resDirty = false ∧ s'.sup.resLast = s.time ∧ s'.sup.resCycle = s.cycle ∧ s'.residencyDue = false)
      ∧ (s.cycle < s.sup.resCycle + 85000 → s.time < s.sup.resLast + ms 10 → s.residencyDue = false)
      ∧ (s.residencyDue = false → exec .residencyReport s = .next s)

/-- R60 to R70, R73: notifies, packets and reports. -/
def Obligations.LinksAndPackets : Prop :=
  NotifiesAreCheckedAndCounted ∧ PacketsAreHandled ∧ ResidencyReportsGoOut

/-- R24, R30, R66, R76, R77: a waiting launch with a dependence that can never hold ends in STATE 6 with 0xAF, and one
that its budgets or check 15 turn away in STATE 6 with the cause; one whose region fits its budgets and has a spot is
placed: the region stands at the spot, its context on its way and its sequencer at ENTRY. Once its first context is
switched in, the job is in STATE 2. -/
def Sys2Proof.Claims.LaunchesArePlaced : Prop :=
  ∀ (s : State) (j g : Nat) (x : Job) (G : Graph) (a : Ask) (p : Spot),
    let s1 := s.makeGraphs j
    let s2 := s1.markChecked j [a]
    let s3 := s2.ticket.1
    let first : Prop := ∀ y ∈ s.regions, y.2.job ≠ j
    liveJob s j x → active s →
      (x.state = 1 → first → (∃ d ∈ x.deps, s.depState x.queue d = some false) →
        ∃ s', exec (.placement j) s = .next s' ∧ (s'.job j).state = 6 ∧ (s'.job j).cause = 0xAF#8 ∧ s'.regions = s.regions)
      ∧ (∀ node c info, x.state = 1 → first → (∀ d ∈ x.deps, s.depState x.queue d ≠ some false) → s.mayPlace j = true →
        s1.unplaced j ≠ [] → s1.asksOf j (s1.unplaced j) = .error (node, c, info) →
        ∃ s', exec (.placement j) s = .next s' ∧ (s'.job j).state = 6 ∧ (s'.job j).cause = BitVec.ofNat 8 c
          ∧ s'.regions = s.regions)
      ∧ (x.state = 1 → s.mayPlace j = true → x.grantWait = none → x.gangs = [] → s1.asksOf j (s1.unplaced j) = .ok [a] →
        s2.withinBudget j [a] = [a] →
        s3.spread s2.tickets j [] [(a.node, a.need)] (s3.occupied []) = some [(a.node, p)] →
        grantsFit s p.die ((s2.job j).images.getD a.img .empty) →
        ∃ s' r, exec (.placement j) s = .next s' ∧ (s'.reg r).job = j ∧ (s'.reg r).node = a.node
          ∧ (s'.reg r).life = .filling ∧ standsAt (s'.reg r) p a.img
          ∧ (s'.reg r).seq.pc = BitVec.ofNat 64 a.need.img.entry ∧ (s'.reg r).seq.g = [])
      ∧ (∀ r y, hasGraph s g G → G.regions = [r] → s.regions.find? r = some y → y.job = j → y.graph = g → y.unrecorded = true →
        ((s.recordStarts g).job j).state = 2 ∧ ((s.recordStarts g).reg r).recorded = true)

/-- R31: effective priority rises by one for each full millisecond of waiting, up to 15; at each such moment, and when a
region at 15 has held its benches for its SHARE, Derrick's next look at the waiters is due (log entry 1). -/
def Sys2Proof.Claims.WaitingRaisesPriority : Prop :=
  ∀ (s : State) (j prio since : Nat) (x : Job),
    s.jobs.find? j = some x →
      let looks : State := { s with sup := { s.sup with look := s.cycle } }
      exec (.priorityAging j) s = .next looks ∧ exec (.shareWindowExpiry j) s = .next looks
        ∧ s.waitPrio prio since = min 15 (prio + milliseconds (s.time - since))

/-- R31, R66, R76, R77: launches. -/
def Obligations.LaunchesWaitAndArePlaced : Prop :=
  LaunchesArePlaced ∧ WaitingRaisesPriority

/-- R27, R28, R73, R363: a gang whose members are all placed starts its regions together; one not complete by GTIME ends its
member, the job or one of its graphs, with 0xAC, once a complex is active; reports of other members are kept, and one with
the same GINDEX ends the member with 0xAC; a lost member is told to the gang and has GTIME to come back; a gang's restart
that is not complete by GTIME ends with 0xA8, and a lost member that is not back by then makes the whole gang start again. -/
def Obligations.GangsStartAndFailTogether : Prop :=
  ∀ (s : State) (j a i t g r : Nat) (c : Bool) (n : BitVec 24) (x : Job) (S : Seat) (G : Graph) (y : Region),
    let m := x.node a
    let lostBy : Nat := s.time + m.gtime * 130900000
    let seat (s' : State) : Seat := (s'.job j).seat a
    liveJob s j x → x.gangs = [(a, S)] →
      (x.seatReady a = true → S.deadline ≠ none ∨ S.restart ≠ none → s.memberRegions j a Life.off = [] →
        ∃ s', exec (.gangStart j) s = .next s' ∧ (seat s').deadline = none ∧ (seat s').restart = none
          ∧ (hasGraph s g G → G.job = j → x.covers a G.node = true → G.regions = [r] → s.regions.find? r = some y →
              y.life = .starting → y.wantOff = none →
              (s'.reg r).life = .running ∧ (s'.reg r).seq.hold.quiet = false))
      ∧ (S.deadline = some t → t ≤ s.time → x.seatReady a = false →
        (active s → a = x.rcb → ∃ s', exec (.gangLaunchTimeout j) s = .next s' ∧ endedWith s' j 0xAC#8)
        ∧ (active s → a ≠ x.rcb → s.makeGraphs j = s → s.graphs.find? g = some G →
            List.find? (fun z => z.2.job == j && z.2.node == a && z.2.final == 0) s.graphs = some (g, G) →
            ∃ s', exec (.gangLaunchTimeout j) s = .next s' ∧ (s'.graph g).final = 5 ∧ (s'.graph g).cause = 0xAC)
        ∧ (¬active s → exec (.gangLaunchTimeout j) s = .next s))
      ∧ (active s → i ≠ m.gindex → ∃ s', exec (.gangMemberReportArrival j i (.placed m.gang c)) s = .next s'
          ∧ i ∈ (seat s').placed ∧ (i ∈ (seat s').free ↔ c = false) ∧ s'.regions = s.regions)
      ∧ (active s → a = x.rcb → ∃ s', exec (.gangMemberReportArrival j m.gindex (.placed m.gang c)) s = .next s'
          ∧ endedWith s' j 0xAC#8)
      ∧ (S.round.find? i = none → ∃ s', exec (.gangMemberReportArrival j i (.reached m.gang n)) s = .next s'
          ∧ (seat s').round.find? i = some n ∧ s'.regions = s.regions)
      ∧ (active s → m.couples = true → m.gfail ≠ 1 →
        ∃ s', exec (.gangMemberReportArrival j i (.lost m.gang)) s = .next s' ∧ (seat s').lost = some (i, lostBy)
          ∧ i ∉ (seat s').placed)
      ∧ (s.gangFailed j a = true → active s → S.told = false → s.gangMates j a = [] → m.gfail ≠ 1 →
        ∃ s', exec (.gangMemberFailure j) s = .next s' ∧ .gang j a (.lost m.gang) ∈ s'.sup.outbox
          ∧ (seat s').lost = some (m.gindex, lostBy) ∧ (seat s').told = true)
      ∧ (active s → S.restart = some t → t ≤ s.time → x.seatReady a = false → a = x.rcb →
        ∃ s', exec (.gangRelaunchTimeout j) s = .next s' ∧ endedWith s' j 0xA8#8)
      ∧ (active s → S.restart = none → S.lost = some (i, t) → t ≤ s.time →
        ∃ s', exec (.gangRelaunchTimeout j) s = .next s' ∧ (seat s').restart = some lostBy
          ∧ (seat s').placed = [] ∧ (seat s').lost = none)

/-- R358, R360, R361: a region whose boundary has come leaves its benches with registers, sequencer and control registers
kept, and its graph is held; when RWAIT ends first, the uncommitted rounds are void and it leaves at once. Once its swap is
over its benches are free. It resumes on other benches with the same context, and NPRE counts it. -/
def Obligations.PreemptionKeepsTheContext : Prop :=
  ∀ (s : State) (r t : Nat) (x : Region) (p : Spot),
    let m := (s.job x.job).images.getD x.place.img .empty
    let s1 := s.ticket.1
    let void := s.voidRound x.graph (s.graph x.graph).next
    s.regions.find? r = some x →
      (s.mayPreempt r = true → s.graphs.find? x.graph ≠ none → ∃ s', exec (.preemption r) s = .next s'
        ∧ (s'.reg r).life = .preempted ∧ sameRegisters x (s'.reg r) ∧ (s'.reg r).seq.g = x.seq.g ∧ (s'.reg r).seq.p = x.seq.p
        ∧ (s'.reg r).seq.pc = x.seq.pc ∧ (s'.reg r).seq.csrs = x.seq.csrs ∧ (s'.reg r).seq.block = none
        ∧ (s'.reg r).wantOff = none ∧ (s'.graph x.graph).held = true)
      ∧ (s.mayPreempt r = false → exec (.preemption r) s = .next s)
      ∧ (x.wantOff = some t → t + s.rwait r ≤ s.cycle → active s → x.life = .running → x.seq.hold.atS = none →
        s.atBoundaryOf x.graph = false → void.mayPreempt r = true → s.graphs.find? x.graph ≠ none →
        ∃ s', exec (.preemptionRwaitExpiry r) s = .next s' ∧ (s'.reg r).life = .preempted ∧ (s'.graph x.graph).held = true)
      ∧ (x.life = .preempted → x.swapUntil ≤ s.cycle →
        exec (.contextSwap r) s = .next { s with sup := { s.sup with resDirty := true, look := s.cycle } }
          ∧ x.holds s.cycle = false)
      ∧ (active s → s.unit r = [r] → x.life = .preempted → x.swapUntil ≤ s.cycle → (s.graph x.graph).failBy = none →
        x.lost = false → (s.job x.job).gangs = [] → (s.job x.job).grantWait = none → x.job ≠ queueSpace →
        x.place.act = x.place.img → s.check15 (upTo 4) m = none →
        s1.spread s.tickets x.job [] (s.unitNeeds [r] x.place.img) (s1.occupied []) = some [(x.node, p)] →
        grantsFit s p.die m →
        ∃ s', exec (.resume r) s = .next s' ∧ (s'.reg r).life = .filling ∧ standsAt (s'.reg r) p x.place.img
          ∧ sameRegisters x (s'.reg r) ∧ (s'.reg r).seq.g = x.seq.g ∧ (s'.reg r).seq.pc = x.seq.pc ∧ (s'.reg r).npre = x.npre + 1)
      ∧ (active s → s.unit r = [r] → x.life = .preempted → x.swapUntil ≤ s.cycle → (s.graph x.graph).failBy = none →
        (s.job x.job).grantWait = none → (s.check15 (upTo 4) m ≠ none ∨ x.lost = true) →
        ∃ s', exec (.resume r) s = .next s' ∧ (s'.reg r).life = .waiting ∧ (s'.reg r).nrela = x.nrela + 1)

/-- R81 to R84, R118: a capacity that fell shows in every CAPVEC, and while a complex is active drives off the regions that
no longer fit, which wait to be relaunched; a relaunch takes the first candidate that passes its checks, with the saved
context under the same image and at ENTRY with empty registers under another; when no candidate fits, the region has
failed. -/
def Obligations.CapacityDrivesRelaunch : Prop :=
  ∀ (s : State) (r die cls : Nat) (x : Region) (p : Spot) (before after : List (Nat × Nat × Nat × Nat)) (c : Nat × Nat × Nat × Nat),
    let fallen (owed : Bool) : State := { s with
      regions := s.regions.mapVal (fun _ x => { x with seq := { x.seq with csrs := { x.seq.csrs with
        capvec := x.seq.csrs.capvec ||| BitVec.ofNat 8 (2 ^ (cls % 8)) } } })
      sup := { s.sup with resDirty := true, retest := owed } }
    let img := c.1
    let m := (s.job x.job).images.getD img .empty
    let fails (c : Nat × Nat × Nat × Nat) : Prop := s.candidateBad x.job x.node c.1 ≠ none
      ∨ s.check15 [x.place.die] ((s.job x.job).images.getD c.1 .empty) ≠ none
    let s0 := s.passImage x.job x.node img
    let s1 := s0.ticket.1
    let resident (l : Life) : Prop := l = .running ∨ l = .filling ∨ l = .starting
    s.regions.find? r = some x →
      (¬active s → exec (.capacityReduction die cls) s = .next (fallen true))
      ∧ (active s → (∀ k, (fallen false).stillFits k = true) → (∀ y ∈ s.regions, y.2.seq.loaded = none) →
        exec (.capacityReduction die cls) s = .next (fallen false))
      ∧ (active s → (fallen false).stillFits r = false → x.life = .running → (∀ y ∈ s.regions, y.1 ≠ r → ¬resident y.2.life) →
        s.unit r = [r] → ∃ s', exec (.capacityReduction die cls) s = .next s' ∧ (s'.reg r).life = .waiting
          ∧ (s'.reg r).nrela = x.nrela + 1)
      ∧ (active s → s.unit r = [r] → x.life = .waiting → (s.graph x.graph).failBy = none → s.jobs.find? x.job ≠ none →
        x.job ≠ queueSpace → (s.rnode r).cands = before ++ c :: after → (∀ b ∈ before, fails b) → ¬fails c →
        s1.spread s.tickets x.job [] (s0.unitNeeds [r] img) (s1.occupied []) = some [(x.node, p)] →
        grantsFit s p.die m → (s.job x.job).gangs = [] → (s.job x.job).grantWait = none →
        ∃ s', exec (.relaunch r) s = .next s' ∧ (s'.reg r).life = .filling ∧ standsAt (s'.reg r) p img
          ∧ (img = x.place.img → x.place.act = img → x.lost = false → (s'.reg r).seq.g = x.seq.g ∧ sameRegisters x (s'.reg r))
          ∧ (img ≠ x.place.img → (s'.reg r).seq.g = [] ∧ (s'.reg r).seq.pc = BitVec.ofNat 64 m.entry
              ∧ (s'.reg r).seq.csrs.round = (s.graph x.graph).next))
      ∧ (active s → s.unit r = [r] → x.life = .waiting → (s.graph x.graph).failBy = none → (s.job x.job).grantWait = none →
        (∀ b ∈ (s.rnode r).cands, fails b) →
        ∃ s', exec (.relaunch r) s = .next s' ∧ (s'.reg r).life = .failed)

/-- R87, R88, R90, R324, R325: a shrink that may be done has its candidate filled in the benches that the region keeps and
waits for its boundary, and one that may not is refused; a grow begins when its conditions hold. At the boundary the region
takes the new image at its own origin, with its sequencer, ROUND, LASTRND and stop bit kept, and a request of the program is
answered. A shrink that RWAIT ends is done at the boundary that a void of the round makes. The members of a triple set begin
one shrink and hold at one boundary. -/
def Obligations.RegionsChangeShape : Prop :=
  ∀ (s : State) (r k t img b : Nat) (x : Region) (y : Bench) (p : Spot),
    let void := s.voidRound x.graph (s.graph x.graph).next
    let filled (s' : State) : Prop := (x.keeps (s.image r img) b = true → y.shadow.state ≠ 1 →
        ((s'.reg r).bench b).shadow.state = 1 ∧ ((s'.reg r).bench b).shadow.img = img ∧ ((s'.reg r).bench b).shadow.ctx = 0)
      ∧ (s'.reg r).preq = some x.seq.csrs.round.toNat ∧ ((s'.reg r).bench b).plane = y.plane
    let reshaped (s' : State) : Prop := standsAt (s'.reg r) p img ∧ (s'.reg r).shape = none
      ∧ ((∃ q ∈ x.shreq, q.1 = k) → (s'.reg r).seq.request = 2 ∧ (s'.reg r).shreq = none)
      ∧ (s'.reg r).shrunk = decide (k < 8)
    hasBench s r b x y → active s → (s.unit r = [r] →
      (x.shreq = some (k, t) → k ≠ 8 → x.shape = none → x.shapeFree = true →
        (s.mayShrink r k = true → x.place.fold = 0 → s.shapeOf r k = some img → ∃ s', exec (.shrink r) s = .next s' ∧ filled s'
          ∧ (s'.reg r).shape = some (k, t))
        ∧ (s.mayShrink r k = false → ∃ s', exec (.shrink r) s = .next s' ∧ (s'.reg r).shreq = none
          ∧ (s'.reg r).seq.request = 3 ∧ (s'.reg r).benches = x.benches))
      ∧ (x.shape = none → x.shapeFree = false → exec (.shrink r) s = .next s)
      ∧ (s.mayGrow r = true → x.place.fold = 0 → img = (s.rnode r).word 8 → ∃ s' t', exec (.grow r) s = .next s' ∧ filled s'
          ∧ (s'.reg r).shape = some (8, t'))
      ∧ (shapeDue s r k t img p → ∃ s', exec (if k = 8 then .grow r else .shrink r) s = .next s' ∧ reshaped s'
          ∧ (s'.reg r).seq.g = x.seq.g ∧ (s'.reg r).seq.pc = x.seq.pc ∧ (s'.reg r).seq.csrs.round = x.seq.csrs.round
          ∧ (s'.reg r).lastRnd = x.lastRnd ∧ (s'.reg r).fab.stop = x.fab.stop)
      ∧ (x.shape = some (k, t) → k ≠ 8 → t + s.rwait r ≤ s.cycle → (s.graph x.graph).held = false →
        s.graphs.find? x.graph ≠ none → shapeDue void r k t img p →
        ∃ s', exec (.shrinkRwaitExpiry r) s = .next s' ∧ reshaped s' ∧ (s'.graph x.graph).held = true))
      ∧ (x.shreq = some (k, t) → k ≠ 8 → x.shape = none → x.shapeFree = true → s.mayShrink r k = true →
        ∃ s' m, exec (.shrink r) s = .next s' ∧ ∀ u ∈ s.unit r, s.regions.find? u ≠ none →
          (∃ t', (s'.reg u).shape = some (k, t')) ∧ (s'.reg u).preq = some m)

/-- R56, R71 to R74: the active complex beats; the standby that misses five milliseconds of beats, or finds no active
complex, puts the other in reset and takes over within 50 ms; the complex that takes over is active, tells FAILOVER and
serves what the dies parked; a pair that mismatches stops, with 0xA2 at M while another lives, and the last live pair takes
its complex out of service; M returns a failed complex with its pairs in step. -/
def Obligations.ComplexesFailOver : Prop :=
  ∀ (s : State) (die pair t : Nat) (c : Sys2Proof.Machine.Complex),
    let struck : List Bool := c.pairs.set pair false
    (active s → exec .heartbeat s = .next (withSup s { s.sup with lastBeat := s.time }))
      ∧ (s.sup.takeoverAt = none → s.standby ≠ none → (s.sup.activeDie = none ∨ s.sup.lastBeat + ms 5 ≤ s.time) →
        ∃ s' u, exec .missedHeartbeat s = .next s' ∧ s'.sup.activeDie = none ∧ s'.sup.takeoverAt = some u
          ∧ s.time ≤ u ∧ u < s.time + ms 50
          ∧ ∀ k e, s.sup.activeDie = some k → s.sup.complexes.find? k = some e →
            s'.sup.complexes.find? k = some { e with inService := false })
      ∧ (active s → s.time < s.sup.lastBeat + ms 5 → exec .missedHeartbeat s = .next s)
      ∧ (s.sup.takeoverAt = some t → t ≤ s.time → s.sup.activeDie = none → s.standby = some die →
        ∃ s', exec .takeover s = .next s' ∧ s'.sup.activeDie = some die ∧ s'.sup.failover = true
          ∧ s'.sup.takeoverAt = none ∧ ∀ d ∈ s'.dies, d.2.trapq = [])
      ∧ (s.sup.complexes.find? die = some c → c.inService = true → c.pairs.getD pair false = true →
        ∃ s', exec (.lockstepMismatch die pair) s = .next s'
          ∧ s'.sup.complexes.find? die = some ⟨struck, struck.any id⟩
          ∧ (true ∈ struck → s'.sup.activeDie = s.sup.activeDie ∧ ∃ w, s'.sup.outbox = s.sup.outbox ++ [.supRecord w]
              ∧ (w.getD 0 0#64).toNat / 2 ^ 56 = 0xA2)
          ∧ (true ∉ struck → s.sup.activeDie = some die → s'.sup.activeDie = none))
      ∧ (s.sup.complexes.find? die = some c → c.inService = false →
        ∃ s', exec (.standbyReturn die) s = .next s' ∧ s'.sup.complexes.find? die = some ⟨[true, true, true, true], true⟩
          ∧ s'.sup.activeDie = s.sup.activeDie)

/-- R58, R211, R215, R231, R346, R350: while a complex is active S writes its state: limits, thresholds, memory, queues (whose
reserved bits read zero, R4) and the resume address of a trap that waits for it; a delegation entry takes a level within its
floor and no other; an invalidation ends once no access is left that used the old entries, and one that ends at once leaves
no sequencer of the job an old entry. -/
def Sys2Proof.Claims.SupervisorWritesItsState : Prop :=
  ∀ (s : State) (d v c q j r : Nat) (bs : List Byte) (pa : Nat) (ws : List DWord) (a : BitVec 57) (code : BitVec 8)
    (level : Fin 4) (w : SupWrite) (x : Region) (y : Job) (t : TrapRec) (m : Bool),
    (active s →
      (d < 4 → v ≤ 14 → ∃ s', exec (.supervisorStateWrite (.ceilStep d v)) s = .next s' ∧ (s'.die d).ceil = v)
      ∧ (d < 4 → c < 5 → 1 ≤ v → v ≤ 65535 → ∃ s', exec (.supervisorStateWrite (.ceThreshold d c v)) s = .next s'
        ∧ (s'.die d).cethr.find? c = some v)
      ∧ (d < 4 → c < 5 → v ≤ 10 → ∃ s', exec (.supervisorStateWrite (.ceWindow d c v)) s = .next s'
        ∧ (s'.die d).cewin.find? c = some v)
      ∧ (s.backed pa bs.length = true → ∃ s', exec (.supervisorStateWrite (.memBytes pa bs)) s = .next s'
        ∧ s'.mem.readBytes pa bs.length = bs ∧ ∀ z, z < pa ∨ pa + bs.length ≤ z → s'.mem.read z = s.mem.read z)
      ∧ (q < 4096 → ∃ s', exec (.supervisorStateWrite (.queueDescr q ws)) s = .next s'
        ∧ (s'.sup.queues.getD q .init).words = (ws.zip queueFields).map (fun w => w.1 &&& BitVec.ofNat 64 w.2) ∧ (s'.sup.queues.getD q .init).key = (s.sup.queues.getD q .init).key)
      ∧ (s.regions.find? r = some x → x.seq.hold.atS = some (t, m) → x.seq.hold.atSPriv = false →
        ∃ s', exec (.supervisorStateWrite (.trapBlk r a)) s = .next s' ∧ (s'.reg r).seq.csrs.trapblk = a))
      ∧ (s.sup.activeDie = none → exec (.supervisorStateWrite w) s = .next s)
      ∧ (s.jobs.find? j = some y → code.toNat < 192 → delegFloor code.toNat ≤ level.val → level.val < 3 →
        (delegFloor code.toNat = 0 → level.val ≤ 1) → (delegFloor code.toNat = 1 → level.val = 1) →
        ∃ s', exec (.delegationChange j code level) s = .next s' ∧ (s'.job j).delegEntry code.toNat = level.val
          ∧ ∀ k, k ≠ code.toNat → (s'.job j).delegEntry k = y.delegEntry k)
      ∧ (level.val < delegFloor code.toNat → exec (.delegationChange j code level) s = .next s)
      ∧ (let begun : State := if (s.job j).inval.isSome = true then s else s.invalidate j
         (begun.translationsOut j = true → exec (.translationInvalidation j) s
            = .next { begun with timers := begun.timers ++ [(s.cycle + 1, .translationInvalidation j)] })
         ∧ (begun.translationsOut j = false → ∃ s', exec (.translationInvalidation j) s = .next s' ∧ (s'.job j).inval = none
            ∧ s'.mem = s.mem
            ∧ ((s.job j).inval = none → ∀ e ∈ s'.regions, e.2.job = j → e.2.seq.stale = [])))

/-- R224, R225: an examination clears the counters of its die's records and moves no byte by itself; the first step of a
migration puts the leaf of its page under migration, not resident, and leaves every other byte; the last gives the new frame
the page's bytes, of a versioned page those of its slots and directory, and the leaf that frame, resident and no longer under
migration. -/
def Sys2Proof.Claims.PagesMigrate : Prop :=
  ∀ (s : State) (die j va frame due : Nat) (l : LeafAt),
    active s →
      (∃ s', exec (.migrationExamination die) s = .next s' ∧ s'.mem = s.mem ∧ s'.regions = s.regions
        ∧ ∀ c ∈ s'.atomics, c ∈ s.atomics ∧ c.1 / 5 * 2 ^ 21 / 2 ^ 46 % 4 ≠ die)
      ∧ (s.mem.wf = true → (leavesFrom s.mem 5 (s.job j).root 0).find? (fun k =>
            decide (k.va ≤ va ∧ va < k.va + 2 ^ (12 + 9 * k.level))) = some l →
        s.leaves.filter (fun k => k.page == l.page) = [l] → peC l.entry = false → l.entry < 2 ^ 64 →
        (s.sup.migrations.find? (fun m => m.1 == j && m.2.1 == va) = none → peRes l.entry = true → pePin l.entry = false →
          l.size ≤ 2 ^ 21 → frame % l.span = 0 → s.backed frame l.span = true → s.pagePinned l.page l.span = false →
          ∃ s', exec (.migration j va frame) s = .next s' ∧ (j, va, frame, 0) ∈ s'.sup.migrations
            ∧ (let e := s'.mem.readNat l.epa 8
               peFrame e = peFrame l.entry ∧ peRes e = false ∧ peMig e = true ∧ e % 2 ^ 6 = l.entry % 2 ^ 6)
            ∧ (∀ z, (z < l.epa ∨ l.epa + 8 ≤ z) → s'.mem.read z = s.mem.read z))
        ∧ (frame % 4096 = 0 → frame < 2 ^ 52 → (l.epa + 8 ≤ frame ∨ frame + l.held ≤ l.epa) →
          s.sup.migrations.find? (fun m => m.1 == j && m.2.1 == va) = some (j, va, frame, due) → 0 < due → due ≤ s.cycle →
          ∃ s', exec (.migration j va frame) s = .next s'
            ∧ (∀ i < l.held, s'.mem.read (frame + i) = s.mem.read (l.page + i))
            ∧ (let e := s'.mem.readNat l.epa 8
               peFrame e = frame ∧ peRes e = true ∧ peMig e = false ∧ e % 2 ^ 6 = l.entry % 2 ^ 6)
            ∧ (∀ z, (z < frame ∨ frame + l.held ≤ z) → (z < l.epa ∨ l.epa + 8 ≤ z) → s'.mem.read z = s.mem.read z)))

/-- R58, R211, R215, R224, R225, R231, R346, R350: what S does. -/
def Obligations.SupervisorAndPages : Prop :=
  SupervisorWritesItsState ∧ PagesMigrate

/-- R80, R81, R229 to R231, R416: a bench that retires joins the retirement list and its die's retired benches; a bank of
the Vat store in place begins its evacuation to the next spare, or is lost for good when none is left; a unit already on the list
changes nothing, but for a bank on its spare. CECNT restarts at its class's window, counts each corrected error, and at CETHR the unit retires. -/
def Sys2Proof.Claims.UnitsRetire : Prop :=
  ∀ (s : State) (die n g k : Nat) (u : HwUnit) (c : Nat),
    let key := 3 * 2 ^ 22 + 16 * g + k
    let d := s.die die
    let fresh (u : HwUnit) : Prop := die < 4 ∧ (die, u) ∉ s.nvm.retired ∧ s.nvm.retired.length < 16384
    let count (s : State) (key : Nat) : Nat := ((s.die die).bank key).cecnt
    let next := if count s key < 65535 then count s key + 1 else count s key
    (n < 256 → fresh (.bench n) → ∃ s', exec (.retirementCommand die (.bench n)) s = .next s'
        ∧ s'.nvm.retired = s.nvm.retired ++ [(die, .bench n)] ∧ n ∈ (s'.die die).retiredBenches
        ∧ (∀ m ∈ d.retiredBenches, m ∈ (s'.die die).retiredBenches) ∧ s'.mem = s.mem)
      ∧ (g < 64 → k < 16 → fresh (.vatBank g k) → (d.bank key).state < 2 → d.vatSpares < 64 →
        ∃ s', exec (.retirementCommand die (.vatBank g k)) s = .next s'
          ∧ ((s'.die die).bank key).state = 2 ∧ ((s'.die die).bank key).newPhys = 1024 + d.vatSpares
          ∧ ((s'.die die).bank key).cursor = 0 ∧ (s'.die die).vatSpares = d.vatSpares + 1
          ∧ (s'.die die).evacs = d.evacs ++ [key] ∧ s'.mem = s.mem)
      ∧ (g < 64 → k < 16 → fresh (.vatBank g k) → (d.bank key).state < 2 → 64 ≤ d.vatSpares →
        ∃ s', exec (.retirementCommand die (.vatBank g k)) s = .next s'
          ∧ ((s'.die die).bank key).state = 3 ∧ s'.mem = s.mem
          ∧ ∀ bs, (s'.storeBytes (groupAddr die g (64 * k)) bs).badBytes (groupAddr die g (64 * k)) 1 = true)
      ∧ ((die, u) ∈ s.nvm.retired → (∀ k, hwKey u = some k → ((s.die die).bank k).state ≠ 1) →
        exec (.retirementCommand die u) s = .next s)
      ∧ (∃ s', exec (.ceWindowStart die) s = .next s'
          ∧ ∀ key e, d.banks.find? key = some e →
            ((s'.die die).bank key) = { e with
              cecnt := if s.time / ms 1 % 2 ^ d.cewin.getD (key / 2 ^ 22) 10 = 0 then 0 else e.cecnt })
      ∧ (die < 4 → g < 64 → k < 16 → next < d.cethr.getD 3 65535 → ∃ s', exec (.correctableError die (.vatBank g k)) s = .next s'
          ∧ count s' key = next ∧ s'.nvm = s.nvm ∧ ∀ q, q ≠ key → (s'.die die).bank q = d.bank q)
      ∧ (g < 64 → k < 16 → fresh (.vatBank g k) → d.cethr.getD 3 65535 ≤ next →
        ∃ s', exec (.correctableError die (.vatBank g k)) s = .next s' ∧ s'.nvm.retired = s.nvm.retired ++ [(die, .vatBank g k)])
      ∧ (exec (.correctableError die (.bench c)) s = .next s)

/-- R232, R261: a line of an evacuating bank is locked in a cycle in which the bank is idle, and when its two cycles are over
the cursor passes it; after the last line the spare is the unit's physical bank; the old one stands until every holder has
passed a round boundary. Retired lanes are remapped. Memory's bytes never change by it. -/
def Sys2Proof.Claims.EvacuationsCopyLineByLine : Prop :=
  ∀ (s : State) (die g k seg : Nat) (e : BankEntry),
    let u : HwUnit := .vatBank g k
    let key := 3 * 2 ^ 22 + 16 * g + k
    let entry (s' : State) : BankEntry := (s'.die die).bank key
    g < 64 → k < 16 → entry s = e →
      (e.state = 2 → e.lockEnd = 0 → s.bankIdle die key = true → ∃ s', exec (.evacuationLineCopy die u) s = .next s'
          ∧ entry s' = { e with lockEnd := s.cycle + 3 } ∧ s'.mem = s.mem)
      ∧ (e.state = 2 → 0 < e.lockEnd → e.lockEnd ≤ s.cycle + 1 → e.cursor + 1 < 3072 →
        ∃ s', exec (.evacuationLineCopy die u) s = .next s' ∧ (entry s').cursor = e.cursor + 1 ∧ (entry s').state = 2
          ∧ s'.mem = s.mem)
      ∧ (e.state = 2 → e.cursor = 3072 → ∃ s', exec (.evacuationComplete die u) s = .next s'
          ∧ (entry s').state = 1 ∧ (entry s').phys = e.newPhys ∧ (entry s').newPhys = 0 ∧ (entry s').cursor = 0
          ∧ (∃ hs, (entry s').old = some (e.phys, hs)) ∧ key ∉ (s'.die die).evacs ∧ s'.mem = s.mem)
      ∧ (s.boundariesPassed e = true → ∃ s', exec (.oldBankRetirement die u) s = .next s' ∧ entry s' = { e with old := none }
          ∧ s'.mem = s.mem)
      ∧ (s.boundariesPassed e = false → exec (.oldBankRetirement die u) s = .next s)
      ∧ (∃ s', exec (.laneRemap die seg) s = .next s' ∧ (∀ l ∈ (s'.die die).laneRemaps, l.1 ≠ seg)
          ∧ (s'.die die).lanesLost = (s.die die).lanesLost ∧ s'.mem = s.mem)

/-- R80, R229 to R232, R261: retirement and evacuation. -/
def Obligations.UnitsRetireAndEvacuate : Prop :=
  UnitsRetire ∧ EvacuationsCopyLineByLine

/-- R354, R361, R364, R365, R366: an uncorrectable error marks the unit where it is found: a line of memory outside the Vat
store, a register, a token or the saved context of a region off its benches; no value changes. A soft error in an element's
ALUs changes bits and marks nothing. A scrub mends the shadow planes and notes what an active plane needs; a link that fails
raises 0xA6 for the regions whose traffic was lost. -/
def Obligations.ErrorsMarkWhereTheyStrike : Prop :=
  ∀ (s : State) (r b e n pa die link : Nat) (x : Region) (y : Bench) (el : Element) (t : Token) (ts : List Token),
    hasElem s r b e x y el →
      (pa / 2 ^ 48 ≠ 2 → ∃ s', exec (.uncorrectableError (.memLine pa)) s = .next s' ∧ pa / 64 ∈ s'.uerr
          ∧ (∀ u, u ∈ s'.uerr ↔ u ∈ s.uerr ∨ u = pa / 64) ∧ s'.mem = s.mem)
      ∧ (n < 32 → ∃ s', exec (.uncorrectableError (.registerV r b e n)) s = .next s'
          ∧ ((((s'.reg r).bench b).elem e).regs.getD n ⟨0#512, false⟩)
            = { el.regs.getD n ⟨0#512, false⟩ with err := true })
      ∧ (n < 32 → ∀ bits, ∃ s', exec (.uncorrectableError (.aluRegister r b e n bits)) s = .next s'
          ∧ (let w := el.regs.getD n ⟨0#512, false⟩
             (((s'.reg r).bench b).elem e).regs.getD n ⟨0#512, false⟩ = { w with val := w.val ^^^ bits })
          ∧ s'.mem = s.mem)
      ∧ (el.bufs.getD n [] = t :: ts → ∃ s', exec (.uncorrectableError (.tokenHead r b e n)) s = .next s'
          ∧ buffer s' r b e n = { t with err := true } :: ts)
      ∧ ((x.life = .preempted ∨ x.life = .waiting) → ∃ s', exec (.uncorrectableError (.contextRecord r)) s = .next s'
          ∧ (s'.reg r).lost = true)
      ∧ (∃ s', exec .scrub s = .next s' ∧ ((s'.reg r).bench b).plane = y.plane
          ∧ ((s'.reg r).bench b).shadow.plane.partParity = []
          ∧ (s'.reg r).scrubbed = (x.scrubbed || x.parityLost) ∧ s'.mem = s.mem)
      ∧ (x.life = .running → x.place.die = die → s.hasTraffic r = true → s.graphs.find? x.graph ≠ none →
        ∃ s' e, exec (.linkFailure die link) s = .next s' ∧ ⟨r, e⟩ ∈ (s'.graph x.graph).raised ∧ e.cause = 0xA6#8
          ∧ e.kind = .round ∧ s'.mem = s.mem)

/-- R226 to R228: a transfer not accepted before that no grant of its die satisfies moves no byte, counts as denied and is answered so; a read
of a bank group is answered with its bytes; a write to an element puts its bytes into local memory at its offset, and the
grant's flag add follows. -/
def Sys2Proof.Claims.PeerTransfersNeedAGrant : Prop :=
  ∀ (s : State) (x : PeerXfer) (g : Grant) (b e gr r k : Nat) (y : Region) (z : Bench) (el : Element),
    let d := s.die x.die
    let reply (p : PeerReply) : List OutMsg := s.sup.outbox ++ [.peerReply x.sender p]
    noLocks s → (∀ a ∈ d.accepted, a.1 ≠ x) →
      (d.grantFor x = none → d.grantDenied < 2 ^ 32 - 1 → ∃ s', exec (.peerTransferArrival x) s = .next s'
          ∧ (s'.die x.die).grantDenied = d.grantDenied + 1 ∧ s'.sup.outbox = reply ⟨true, [], []⟩
          ∧ s'.mem = s.mem ∧ s'.regions = s.regions)
      ∧ (d.grantFor x = some g → x.write = false → x.target = .bankGroup gr → banksFree s →
        ∃ s' bad, exec (.peerTransferArrival x) s = .next s'
          ∧ s'.sup.outbox = reply ⟨false, bytesFrom s (groupAddr x.die gr x.off) x.len, bad⟩ ∧ s'.mem = s.mem)
      ∧ (d.grantFor x = some g → x.write = true → x.target = .element b e → s.standsOn x.die b = some (r, k) →
        hasElem s r k e y z el →
        ∃ s', exec (.peerTransferArrival x) s = .next s'
          ∧ (let after := ((s'.reg r).bench k).elem e
             (∀ i < x.data.length, after.local_.getD (x.off + i) 0#8 = x.data.getD i 0#8)
             ∧ (∀ j, j < x.off ∨ x.off + x.data.length ≤ j → after.local_.getD j 0#8 = el.local_.getD j 0#8)
             ∧ after.regs = el.regs)
          ∧ .ev (.flagAdd g.job (flagSite x.die g.flag)) ∈ s'.work ∧ s'.sup.outbox = reply ⟨false, [], []⟩ ∧ s'.mem = s.mem)

/-- R315 to R320: a command whose turn it is starts, and a malformed descriptor or LEN 0 decides it at once; a copy moves the
bytes it read to its destination, in memory or in an element's local memory, and leaves every other byte; a command that is
done leaves the engine, and one that ended with FAULT and has no barrier raises its cause. A message of a collective is held
for every other rank of this package. -/
def Sys2Proof.Claims.EngineCommandsRun : Prop :=
  ∀ (s : State) (die idx : Nat) (e : EngCmd) (x : Region) (y : Bench) (el : Element) (w : Word) (c va b k off : Nat) (ps pd : Part)
    (m : CollMsg),
    let eng (s' : State) : Option EngCmd := (s'.die die).engines.find? idx
    let done (s' : State) : Prop := eng s' = none ∧ e.num ∉ (s'.reg e.region).seq.outstanding
    s.regions.find? e.region = some x →
      (s.mayStart die idx = true → eng s = some e → e.result = none → ∃ s' f, exec (.engineCommandStart die idx) s = .next s'
          ∧ eng s' = some f ∧ f.started = true ∧ s.cycle < f.due ∧ f.descr = e.descr
          ∧ (e.malformed x = true → f.result = some (0x00960900#32, 0x96, 0))
          ∧ (e.malformed x = false → e.len = 0 → f.result = some (0x00000100#32, 0, 0))
          ∧ (e.malformed x = false → e.len ≠ 0 → f.result = none) ∧ s'.mem = s.mem)
      ∧ (s.mayStart die idx = false → exec (.engineCommandStart die idx) s = .next s)
      ∧ (eng s = some e → e.result = some (w, c, va) → e.barrier = 0 → x.seq.pending = [] →
        ∃ s', exec (.engineCommandComplete die idx none) s = .next s' ∧ done s' ∧ s'.mem = s.mem
          ∧ (s'.reg e.region).seq.pending = if w.getLsbD 11 then [⟨BitVec.ofNat 8 c, .async, 0#57, 0#24, BitVec.ofNat 64 e.num,
              BitVec.ofNat 64 va, BitVec.ofNat 64 e.descrAddr, 0#64, s.time⟩] else [])
      ∧ (engineDue s die idx e → e.cmd = 1 → oneUnit s e.region e.job 0 none e.src e.len ps →
        oneUnit s e.region e.job 1 (some e.round) e.dst e.len pd →
        s.badBytes ps.leaf.pa e.len = false →
        ∃ s', exec (.engineCommandComplete die idx none) s = .next s' ∧ done s'
          ∧ (∀ i < e.len, s'.mem.read (pd.leaf.pa + i) = s.mem.read (ps.leaf.pa + i))
          ∧ ∀ z, z < pd.leaf.pa ∨ pd.leaf.pa + e.len ≤ z → s'.mem.read z = s.mem.read z)
      ∧ (engineDue s die idx e → e.cmd = 2 → oneUnit s e.region e.job 0 none e.src e.len ps → s.badBytes ps.leaf.pa e.len = false →
        x.target e.dst e.len = some (.elem b k off) → hasElem s e.region b k x y el → noLocks s →
        ∃ s', exec (.engineCommandComplete die idx none) s = .next s' ∧ done s' ∧ s'.mem = s.mem
          ∧ (let after := ((s'.reg e.region).bench b).elem k
             (∀ i < e.len, after.local_.getD (off + i) 0#8 = s.mem.read (ps.leaf.pa + i))
             ∧ ∀ j, j < off ∨ off + e.len ≤ j → after.local_.getD j 0#8 = el.local_.getD j 0#8))
      ∧ (∃ s', exec (.collectiveMessageArrival m) s = .next s' ∧ s'.mem = s.mem ∧ s'.regions = s.regions
          ∧ ∀ d < 4, (∃ q ∈ m.table.zipIdx, q.2 ≠ m.rank ∧ q.1 = s.nvm.chip.toNat + d * 2 ^ 22) →
            ∃ n, 0 < n ∧ (d, n, m) ∈ s'.colls)

/-- R226 to R228, R315 to R320: peer transfers and the stream engine. -/
def Obligations.TransfersAndEngines : Prop :=
  PeerTransfersNeedAGrant ∧ EngineCommandsRun

/-- R11, R415: without power everything is lost but the flash and the two counters; a cold start, from an unpowered package or
by command, gives a package with nothing launched, memory with nothing listed and the chip number of its record, with the
complex of I/O die 0 active when a boot slot verifies and none when both fail. -/
def Obligations.ColdStartsBeginAfresh : Prop :=
  ∀ (s : State),
    let booted (s' : State) : Prop := s'.powered = true ∧ s'.mem = [] ∧ s'.regions = [] ∧ s'.jobs = [] ∧ s'.graphs = []
      ∧ s'.uerr = [] ∧ s'.sup.queues = [] ∧ s'.sup.unlocked = false ∧ s'.time = 0 ∧ s'.clk = 0
      ∧ s'.nvm.xmss = s.nvm.xmss ∧ s'.nvm.unlocks = s.nvm.unlocks ∧ s'.nvm.record = s.nvm.record
      ∧ (s'.nvm.chipOk = true ↔ s.nvm.record.toNat < 2 ^ 22) ∧ s'.nvm.chip.toNat = s.nvm.record.toNat % 2 ^ 22
      ∧ s'.sup.activeDie = if s.nvm.slotA = true ∨ s.nvm.slotB = true then some 0 else none
    (∃ s', exec .powerLoss s = .next s' ∧ s'.powered = false ∧ s'.mem = [] ∧ s'.regions = [] ∧ s'.jobs = [] ∧ s'.nvm = s.nvm)
      ∧ (s.powered = false → ∃ s', exec .coldStart s = .next s' ∧ booted s')
      ∧ (s.powered = true → exec .coldStart s = .next s)
      ∧ (s.powered = true → ∃ s', exec .coldReset s = .next s' ∧ booted s')
      ∧ (s.powered = false → (∀ i ∈ s.inputs, i.2 ≠ .coldStart) → step s = .fault .noPower)

/-- R417, R418, R420: while a complex is active a management command is answered: the residency report, the capacity
readings, power, clock and temperatures, a signed report with the next index of the counter, which is written first, or an
unsigned one when the counter is at its end; a key is passed to S, and the package record takes a chip number. While none is
active every one of them is answered busy and does nothing. -/
def Sys2Proof.Claims.ManagementAnswers : Prop :=
  ∀ (s : State) (nonce key : BitVec 256) (q : Nat) (seq : BitVec 48) (n : BitVec 22) (i : Instr) (code : Nat),
    (active s →
      (∃ s' ws, exec .readResidency s = .next s' ∧ s'.sup.outbox = s.sup.outbox ++ [.mgmt 1 ws]
          ∧ ((∀ c ∈ s.sup.complexes, c.2.pairs.length ≤ 4) → (ws.getD 0 0#64).toNat / 2 ^ 56 = 0x82)
          ∧ (ws.getD 0 0#64).toNat % 2 ^ 22 = s.nvm.chip.toNat ∧ s'.mem = s.mem)
      ∧ (∃ s' ws, exec .readCapacity s = .next s' ∧ s'.sup.outbox = s.sup.outbox ++ [.mgmt 2 ws]
          ∧ (∀ d < 4, ws.getD (8453 * d) 0#64 = BitVec.ofNat 64 (256 - (s.die d).retiredBenches.length)
              ∧ ws.getD (8453 * d + 4) 0#64 = BitVec.ofNat 64 (192 - (s.die d).channelsLost.length)) ∧ s'.mem = s.mem)
      ∧ (∃ s' w, exec .readPower s = .next s'
          ∧ s'.sup.outbox = s.sup.outbox ++ [.mgmt 3 (w :: BitVec.ofNat 64 s.clk :: s.power.temps.map (BitVec.ofNat 64))])
      ∧ (s.nvm.chipOk = true → s.nvm.xmss < 2 ^ 20 → ∃ s' ms cs sig, exec (.attest nonce) s = .next s'
          ∧ s'.nvm.xmss = s.nvm.xmss + 1
          ∧ s'.sup.outbox = s.sup.outbox ++ [.attestation true s.nvm.chip s.nvm.xmss nonce ms cs s.nvm.unlocks sig])
      ∧ (s.nvm.chipOk = true → 2 ^ 20 ≤ s.nvm.xmss → ∃ s' ms cs sig, exec (.attest nonce) s = .next s' ∧ s'.nvm = s.nvm
          ∧ s'.sup.outbox = s.sup.outbox ++ [.attestation false s.nvm.chip s.nvm.xmss nonce ms cs s.nvm.unlocks sig]
          ∧ ∀ b ∈ sig, b = 0#8)
      ∧ (exec (.installKey q key seq) s = .next { s with work := .ev (.keyInstallation q key seq) :: s.work })
      ∧ (exec (.writeChipNumber n) s = .next { s with nvm := { s.nvm with record := n.setWidth 64 } }))
    ∧ (s.sup.activeDie = none →
        (i, code) ∈ [(.readResidency, 1), (.readCapacity, 2), (.readPower, 3), (.attest nonce, 4), (.installKey q key seq, 5),
          (.writeChipNumber n, 7)] →
        exec i s = .next (withSup s { s.sup with outbox := s.sup.outbox ++ [.mgmtBusy code] }))

/-- R375, R421: the debug port opens on a token for the present unlock count, which it counts up first, and an open port
halts, steps, reads and resumes a sequencer; a closed one does nothing. R16, R419: a sample of power stands beside those
of the millisecond before it; the clock falls a step when the power of that millisecond stood above 3,200 W, and never rises
or falls past its ends. -/
def Sys2Proof.Claims.DebugPortAndClock : Prop :=
  ∀ (s : State) (token r uw : Nat) (temps : List Nat) (x : Region) (i : Instr),
    s.regions.find? r = some x →
      (Config.xmssUnlockOk token s.nvm.chip.toNat s.nvm.unlocks = true → ∃ s', exec (.debugUnlock token) s = .next s'
          ∧ s'.sup.unlocked = true ∧ s'.nvm.unlocks = s.nvm.unlocks + 1 ∧ s'.regions = s.regions)
      ∧ (Config.xmssUnlockOk token s.nvm.chip.toNat s.nvm.unlocks = false → exec (.debugUnlock token) s = .next s)
      ∧ (s.sup.unlocked = false → i ∈ [.debugHalt r, .debugStep r, .debugReadRegisters r, .debugResume r] → exec i s = .next s)
      ∧ (s.sup.unlocked = true →
        (x.seq.hold.halted = false → ∃ s' n, exec (.debugHalt r) s = .next s' ∧ (s'.reg r).seq.hold.haltReq = some (n, 0))
        ∧ (∃ s' n, exec (.debugStep r) s = .next s' ∧ (s'.reg r).seq.hold.halted = false
            ∧ (s'.reg r).seq.hold.haltReq = some (n, if x.seq.hold.halted = true then 1 else 2))
        ∧ (x.seq.hold.halted = true → ∃ s' ws, exec (.debugReadRegisters r) s = .next s' ∧ debugWord x.seq ws
            ∧ s'.sup.outbox = s.sup.outbox ++ [.debug ws] ∧ s'.regions = s.regions)
        ∧ (∃ s', exec (.debugResume r) s = .next s' ∧ (s'.reg r).seq.hold.halted = false ∧ (s'.reg r).seq.g = x.seq.g))
      ∧ (∃ s', exec (.powerSample uw temps) s = .next s' ∧ s'.power.temps = temps
          ∧ s'.power.samples = s.power.samples.filter (fun x => decide (s.time < x.1 + ms 1)) ++ [(s.time, uw)]
          ∧ (s.clk ≤ 2 → s'.clk ≤ 2 ∧ s'.clk ≤ s.clk + 1 ∧ s.clk ≤ s'.clk + 1)
          ∧ (s.clk < 2 → 3200 * 10 ^ 6 < uw → (∀ x ∈ s.power.samples, s.time < x.1 + ms 1 → 3200 * 10 ^ 6 < x.2) →
            s'.clk = s.clk + 1))

/-- R375, R417 to R421: management, debug port and clock. -/
def Obligations.ManagementAndDebug : Prop :=
  ManagementAnswers ∧ DebugPortAndClock

/-- A step does the next job of the cycle, and a job of an agent is exec of the instruction in turn (log entry 1): a sequencer
with words to fire puts those that may fire in this cycle next in line, each with the number of words after which no more
fire; such a word is the one that its decoder reads, when it is in its place and its wait has not ended; a block whose words
have all fired commits; an element operation or schedule word runs in the focus of its slot; and a step of the device under
the constructor of its name. With no job left the next cycle begins. -/
def Obligations.StepRunsTheDecodedInstruction : Prop :=
  ∀ (s : State) (ws : List Work) (r k limit : Nat) (v u : SeqView) (i : Instr) (f : Focus) (e : Event),
    let s0 : State := { s with work := ws, focus := { s.focus with region := r } }
    let s1 : State := ({ s with work := ws } : State).turnTo r k
    s.powered = true →
      (s.work = .word r k limit :: ws → s1.seqView = some v → v.blk.fired.length < limit →
        decodeS (v.blk.words.getD k 0#32) = .instr i → (k = 0 → ∃ l x n y, i = .blk l x n y) →
        v.expired s.time = false → s1.ldverExpired v = false →
        step s = exec i s1)
      ∧ (s.work = .seq r :: ws → s0.seqView = some u →
        (u.blk.unfired ≠ [] → ∃ s' m, step s = .next s'
          ∧ s'.work = (u.blk.unfired.filter u.blk.mayFire).map (fun j => .word r j m) ++ ws
          ∧ m = u.blk.fired.length + (if 0 ∈ u.blk.fired then 4 else 5))
        ∧ (u.blk.unfired = [] →
          step s = exec (.blockCommit r) (s0.setBlock { u.blk with idx := u.blk.words.length })))
      ∧ (s.work = .slot f i :: ws → step s = exec i { s with work := ws, focus := f })
      ∧ (s.work = .ev e :: ws → isStep i e → step s = exec i { s with work := ws })
      ∧ (s.work = [] → ∃ s', step s = .next s' ∧ s'.cycle = s.cycle + 1 ∧ s.time < s'.time)

/-- R111 to R128, and the listings of 06, 07, 10, 12, 13 and 22: words of the manual's own examples decode to the
instructions they are written for. -/
def Obligations.WordsOfTheManualDecode : Prop :=
  ([0x00220000#32, 0x08510010#32, 0x60616002#32, 0x1C118702#32, 0x40400006#32, 0x40100000#32, 0x24A00015#32, 0x48000040#32,
      0x04A28A00#32, 0x4C0FC000#32].map decodeS
    = ([.blk 4 1 0 false, .addi 5 4 16#14, .ld 6 5 .w 2#11, .cmplt 1 6 7, .exit false 1 0 6#20, .exit false 0 1 0#20,
        .limm 10 21#20, .call false 0 0 64#20, .add 10 10 10, .ret false 0 0 63] : List Instr).map .instr)
  ∧ ([0x000420C000#40, 0x0310519000#40, 0xA98E000000#40, 0x0C0C414002#40, 0x500420C408#40, 0x81201085AC#40, 0x82248005A8#40,
      0xC400400005#40, 0xC190000001#40, 0xE20228C008#40].map decodeE
    = ([.fadd (.v 1) (.v 2) (.v 3) 0, .fma (.v 4) (.v 5) (.v 6) 2, .mov (.ch 3) (.ch 0) 0, .fcmp .lt .f 3 (.v 4) (.v 5) 0,
        .eFshr (.v 1) (.v 2) (.v 3) (some 8) 0, .qnt .i4x 5 true .rne (.v 8) (.v 1) (.v 2) 0, .dqnt .i4x 5 0 (.v 9) (.v 8) 0,
        .agrw 1 true (.v 4), .agwin (.ch 4) 1, .rmw .adds false none (.ch 2) (.ch 3)] : List Instr).map .instr)
  ∧ ([0x10A0801E83#40, 0x2000010100#40, 0x3020000000#40, 0x1840000800#40, 0x2860000014#40, 0x4880000000#40].map decodeV
    = ([.vldb 5 2 7 true .advance 3, .vspmeta 0 0 1 1 false 0, .vzero 1 0, .vmac 2 0 0 2 false .keep 0,
        .vdrain 3 0 1 false true 0, .vend 4] : List Instr).map .instr)

/-- Every instruction, in every state, answers a next state: no word, no token and no value of a register ends a run. Where the
spec gives an instruction no state to act on (a block that is not there, a focus outside the region) nothing changes. -/
def Obligations.EveryInstructionAnswersANextState : Prop :=
  ∀ (i : Instr) (s : State), ∃ t, exec i s = .next t

/-- R111 to R128: for every instruction that has a word and names no reserved value, the decoder reads from its encoding
that instruction, with every operand; a step of the device has no word. -/
def Obligations.EncodingsRoundTrip : Prop :=
  ∀ (i : Instr), i.wf = true → encode i ≠ .step → (encode i).decode = some i

/-- R111 to R128: a word that decodes is the encoding of the instruction it decodes to, which names no reserved value: no
two words mean the same instruction, and no bit of a word is passed over. -/
def Obligations.WordsHaveOneMeaning : Prop :=
  ∀ (w : Word) (x : BitVec 40) (i : Instr),
    (decodeS w = .instr i → i.wf = true ∧ encode i = .s w)
    ∧ (decodeE x = .instr i → i.wf = true ∧ encode i = .e x)
    ∧ (decodeV x = .instr i → i.wf = true ∧ encode i = .v x)

/-- Memory keeps its canonical form in every step: addresses strictly rise, and no entry equals what an unlisted address
reads as (log entry 3), whatever the step does. -/
def Obligations.StepKeepsMemoryForm : Prop :=
  ∀ (s s' : State), s.mem.wf = true → step s = .next s' → s'.mem.wf = true

/-- The state after reset is that of a cold start: R71, the complex of I/O die 0 active; R215, CEILSTEP 10 on every die; R107,
all of queue memory free; R5, R16, package time 0 and the clock of 850 MHz; nothing is launched, no unit is retired. Memory lists
nothing and is in its canonical form (log entry 3: the model's choice is that an unlisted byte reads zero). Its first step
begins the first cycle. -/
def Obligations.ResetIsAColdStart : Prop :=
  (let s := State.reset
   s.powered = true ∧ s.mem.wf = true ∧ s.mem = [] ∧ s.regions = [] ∧ s.graphs = [] ∧ s.jobs = [] ∧ s.sup.queues = []
   ∧ s.sup.activeDie = some 0 ∧ s.sup.unlocked = false ∧ s.time = 0 ∧ s.clk = 0 ∧ s.uerr = []
   ∧ (∀ d < 4, (s.die d).ceil = 10 ∧ (s.die d).qfree = 65536 ∧ (s.die d).grants = [] ∧ (s.die d).parked = []
       ∧ (s.die d).retiredBenches = [] ∧ (s.die d).trapq = [] ∧ (s.die d).engines = []))
  ∧ ∃ s', step State.reset = .next s' ∧ s'.cycle = 1 ∧ s'.mem = [] ∧ s'.regions = []

end
end

