-- ==== Sys2Proof/Laws/Maps.lean ====
section
/-! SUPPORT. What the operations on keyed lists do to a lookup, and that they keep their form. -/

namespace Sys2Proof.Laws

open Sys2Proof.Machine

variable {α : Type}

/-! ### Lookups -/

@[simp] theorem find?_nil (k : Nat) : FMap.find? ([] : FMap α) k = none := rfl

@[simp] theorem find?_put_self (m : FMap α) (k : Nat) (v : α) : (m.put k v).find? k = some v := by
  induction m with
  | nil => simp [FMap.put, FMap.find?]
  | cons p m ih =>
    obtain ⟨j, x⟩ := p
    simp only [FMap.put]
    split
    · simp [FMap.find?]
    · split
      · simp [FMap.find?]
      · simp [FMap.find?, *]

theorem find?_put_ne (m : FMap α) {k j : Nat} (v : α) (h : j ≠ k) : (m.put k v).find? j = m.find? j := by
  induction m with
  | nil => simp [FMap.put, FMap.find?, h]
  | cons p m ih =>
    obtain ⟨i, x⟩ := p
    simp only [FMap.put]
    split
    · simp [FMap.find?, h]
    · split
      · subst_vars
        simp [FMap.find?, h]
      · simp [FMap.find?, ih]

@[simp] theorem find?_del_self (m : FMap α) (k : Nat) : (m.del k).find? k = none := by
  induction m with
  | nil => rfl
  | cons p m ih =>
    obtain ⟨i, x⟩ := p
    simp only [FMap.del]
    split
    · exact ih
    · simp [FMap.find?, *]

theorem find?_del_ne (m : FMap α) {k j : Nat} (h : j ≠ k) : (m.del k).find? j = m.find? j := by
  induction m with
  | nil => rfl
  | cons p m ih =>
    obtain ⟨i, x⟩ := p
    simp only [FMap.del]
    split
    · subst_vars
      simp [FMap.find?, h, ih]
    · simp [FMap.find?, ih]

theorem find?_modify (m : FMap α) (k j : Nat) (f : α → α) :
    (m.modify k f).find? j = if j = k then (m.find? k).map f else m.find? j := by
  unfold FMap.modify
  cases h : m.find? k with
  | none => by_cases e : j = k <;> simp [e, h]
  | some x =>
    by_cases e : j = k
    · simp [e]
    · simp [e, find?_put_ne]

@[simp] theorem find?_modify_self (m : FMap α) (k : Nat) (f : α → α) :
    (m.modify k f).find? k = (m.find? k).map f := by
  simp [find?_modify]

theorem find?_modify_ne (m : FMap α) {k j : Nat} (f : α → α) (h : j ≠ k) : (m.modify k f).find? j = m.find? j := by
  simp [find?_modify, h]

/-- A map that does not list the key is not modified. -/
theorem modify_of_none {m : FMap α} {k : Nat} (h : m.find? k = none) (f : α → α) : m.modify k f = m := by
  simp [FMap.modify, h]

theorem find?_mapVal (m : FMap α) (f : Nat → α → α) (k : Nat) :
    (m.mapVal f).find? k = (m.find? k).map (f k) := by
  induction m with
  | nil => rfl
  | cons p m ih =>
    obtain ⟨i, x⟩ := p
    change FMap.find? ((i, f i x) :: FMap.mapVal m f) k = _
    simp only [FMap.find?]
    split
    · subst_vars
      rfl
    · exact ih

@[simp] theorem getD_put_self (m : FMap α) (k : Nat) (v d : α) : (m.put k v).getD k d = v := by
  simp [FMap.getD]

theorem getD_put_ne (m : FMap α) {k j : Nat} (v d : α) (h : j ≠ k) : (m.put k v).getD j d = m.getD j d := by
  simp [FMap.getD, find?_put_ne m v h]

theorem getD_modify_ne (m : FMap α) {k j : Nat} (f : α → α) (d : α) (h : j ≠ k) :
    (m.modify k f).getD j d = m.getD j d := by
  simp [FMap.getD, find?_modify_ne m f h]

@[simp] theorem getD_set_self [DecidableEq α] (m : FMap α) (d : α) (k : Nat) (v : α) :
    (m.set d k v).getD k d = v := by
  unfold FMap.set
  split <;> simp [FMap.getD, *]

theorem getD_set_ne [DecidableEq α] (m : FMap α) (d : α) {k j : Nat} (v : α) (h : j ≠ k) :
    (m.set d k v).getD j d = m.getD j d := by
  unfold FMap.set
  split
  · simp [FMap.getD, find?_del_ne m h]
  · simp [FMap.getD, find?_put_ne m v h]

/-! ### Keys strictly rising -/

/-- Every key of a map lies above a bound. -/
def Above (k : Nat) (m : FMap α) : Prop := ∀ e ∈ m, k < e.1

theorem sorted_cons {j : Nat} {x : α} {m : FMap α} :
    FMap.sorted ((j, x) :: m) = true ↔ Above j m ∧ FMap.sorted m = true := by
  induction m generalizing j x with
  | nil => simp [FMap.sorted, Above]
  | cons p m ih =>
    obtain ⟨k, y⟩ := p
    simp only [FMap.sorted, Bool.and_eq_true, decide_eq_true_eq]
    constructor
    · rintro ⟨h, hs⟩
      refine ⟨?_, hs⟩
      intro e he
      rcases List.mem_cons.1 he with rfl | he
      · exact h
      · exact Nat.lt_trans h ((ih.1 hs).1 e he)
    · rintro ⟨h, hs⟩
      exact ⟨h (k, y) (by simp), hs⟩

theorem above_put {b k : Nat} {v : α} {m : FMap α} (hm : Above b m) (h : b < k) : Above b (m.put k v) := by
  induction m with
  | nil => simpa [FMap.put, Above] using h
  | cons p m ih =>
    obtain ⟨j, x⟩ := p
    have hj : b < j := hm (j, x) (by simp)
    have ht : Above b m := fun e he => hm e (by simp [he])
    simp only [FMap.put]
    split
    · intro e he
      rcases List.mem_cons.1 he with rfl | he
      · exact h
      · exact hm e he
    · split
      · intro e he
        rcases List.mem_cons.1 he with rfl | he
        · exact h
        · exact ht e he
      · intro e he
        rcases List.mem_cons.1 he with rfl | he
        · exact hj
        · exact ih ht e he

theorem sorted_put {m : FMap α} (hm : m.sorted = true) (k : Nat) (v : α) : (m.put k v).sorted = true := by
  induction m with
  | nil => rfl
  | cons p m ih =>
    obtain ⟨j, x⟩ := p
    obtain ⟨ha, hs⟩ := sorted_cons.1 hm
    simp only [FMap.put]
    split
    · refine sorted_cons.2 ⟨?_, hm⟩
      intro e he
      rcases List.mem_cons.1 he with rfl | he
      · assumption
      · exact Nat.lt_trans ‹_› (ha e he)
    · split
      · subst_vars
        exact sorted_cons.2 ⟨ha, hs⟩
      · exact sorted_cons.2 ⟨above_put ha (by omega), ih hs⟩

theorem mem_del {m : FMap α} {k : Nat} {e : Nat × α} (h : e ∈ m.del k) : e ∈ m := by
  induction m with
  | nil => simp [FMap.del] at h
  | cons p m ih =>
    obtain ⟨j, x⟩ := p
    simp only [FMap.del] at h
    split at h
    · exact List.mem_cons_of_mem _ (ih h)
    · rcases List.mem_cons.1 h with rfl | h
      · simp
      · exact List.mem_cons_of_mem _ (ih h)

theorem sorted_del {m : FMap α} (hm : m.sorted = true) (k : Nat) : (m.del k).sorted = true := by
  induction m with
  | nil => rfl
  | cons p m ih =>
    obtain ⟨j, x⟩ := p
    obtain ⟨ha, hs⟩ := sorted_cons.1 hm
    simp only [FMap.del]
    split
    · exact ih hs
    · exact sorted_cons.2 ⟨fun e he => ha e (mem_del he), ih hs⟩

theorem sorted_set [DecidableEq α] {m : FMap α} (hm : m.sorted = true) (d : α) (k : Nat) (v : α) :
    (m.set d k v).sorted = true := by
  unfold FMap.set
  split
  · exact sorted_del hm k
  · exact sorted_put hm k v

theorem sorted_modify {m : FMap α} (hm : m.sorted = true) (k : Nat) (f : α → α) : (m.modify k f).sorted = true := by
  unfold FMap.modify
  split
  · exact sorted_put hm k _
  · exact hm

/-- A part of a map, taken by a condition on its entries, keeps the form. -/
theorem sorted_filter {m : FMap α} (hm : m.sorted = true) (p : Nat × α → Bool) :
    FMap.sorted (m.filter p) = true := by
  induction m with
  | nil => rfl
  | cons e m ih =>
    obtain ⟨j, x⟩ := e
    obtain ⟨ha, hs⟩ := sorted_cons.1 hm
    simp only [List.filter]
    split
    · exact sorted_cons.2 ⟨fun e he => ha e (List.mem_filter.1 he).1, ih hs⟩
    · exact ih hs

/-! ### No entry equal to the default -/

theorem mem_put {m : FMap α} {k : Nat} {v : α} {e : Nat × α} (h : e ∈ m.put k v) : e = (k, v) ∨ e ∈ m := by
  induction m with
  | nil => simpa [FMap.put] using h
  | cons p m ih =>
    obtain ⟨j, x⟩ := p
    simp only [FMap.put] at h
    split at h
    · simpa using h
    · split at h
      · rcases List.mem_cons.1 h with rfl | h
        · exact .inl rfl
        · exact .inr (by simp [h])
      · rcases List.mem_cons.1 h with rfl | h
        · exact .inr (by simp)
        · rcases ih h with rfl | h
          · exact .inl rfl
          · exact .inr (by simp [h])

theorem noDefault_iff [DecidableEq α] {d : α} {m : FMap α} :
    FMap.noDefault d m = true ↔ ∀ e ∈ m, e.2 ≠ d := by
  simp [FMap.noDefault]

theorem noDefault_set [DecidableEq α] {d : α} {m : FMap α} (hm : FMap.noDefault d m = true) (k : Nat) (v : α) :
    FMap.noDefault d (m.set d k v) = true := by
  rw [noDefault_iff] at *
  intro e he
  unfold FMap.set at he
  split at he
  · exact hm e (mem_del he)
  · rcases mem_put he with rfl | he
    · assumption
    · exact hm e he

end Sys2Proof.Laws
end

