-- ==== Sys2Proof/Laws/State.lean ====
section
/-! SUPPORT. Which fields each update of the state leaves, and what the records read as after it. -/

namespace Sys2Proof.Laws

open Sys2Proof.Machine

/-! ### Fields that an update leaves -/

@[simp] theorem updReg_powered (s : State) (r : Nat) (f : Region → Region) : (s.updReg r f).powered = s.powered := rfl
@[simp] theorem updReg_cycle (s : State) (r : Nat) (f : Region → Region) : (s.updReg r f).cycle = s.cycle := rfl
@[simp] theorem updReg_time (s : State) (r : Nat) (f : Region → Region) : (s.updReg r f).time = s.time := rfl
@[simp] theorem updReg_clk (s : State) (r : Nat) (f : Region → Region) : (s.updReg r f).clk = s.clk := rfl
@[simp] theorem updReg_tier (s : State) (r : Nat) (f : Region → Region) : (s.updReg r f).tier = s.tier := rfl
@[simp] theorem updReg_cxl (s : State) (r : Nat) (f : Region → Region) : (s.updReg r f).cxl = s.cxl := rfl
@[simp] theorem updReg_mem (s : State) (r : Nat) (f : Region → Region) : (s.updReg r f).mem = s.mem := rfl
@[simp] theorem updReg_uerr (s : State) (r : Nat) (f : Region → Region) : (s.updReg r f).uerr = s.uerr := rfl
@[simp] theorem updReg_atomics (s : State) (r : Nat) (f : Region → Region) : (s.updReg r f).atomics = s.atomics := rfl
@[simp] theorem updReg_dies (s : State) (r : Nat) (f : Region → Region) : (s.updReg r f).dies = s.dies := rfl
@[simp] theorem updReg_graphs (s : State) (r : Nat) (f : Region → Region) : (s.updReg r f).graphs = s.graphs := rfl
@[simp] theorem updReg_jobs (s : State) (r : Nat) (f : Region → Region) : (s.updReg r f).jobs = s.jobs := rfl
@[simp] theorem updReg_sup (s : State) (r : Nat) (f : Region → Region) : (s.updReg r f).sup = s.sup := rfl
@[simp] theorem updReg_nvm (s : State) (r : Nat) (f : Region → Region) : (s.updReg r f).nvm = s.nvm := rfl
@[simp] theorem updReg_power (s : State) (r : Nat) (f : Region → Region) : (s.updReg r f).power = s.power := rfl
@[simp] theorem updReg_work (s : State) (r : Nat) (f : Region → Region) : (s.updReg r f).work = s.work := rfl
@[simp] theorem updReg_focus (s : State) (r : Nat) (f : Region → Region) : (s.updReg r f).focus = s.focus := rfl
@[simp] theorem updReg_inputs (s : State) (r : Nat) (f : Region → Region) : (s.updReg r f).inputs = s.inputs := rfl
@[simp] theorem updReg_timers (s : State) (r : Nat) (f : Region → Region) : (s.updReg r f).timers = s.timers := rfl
@[simp] theorem updReg_stalled (s : State) (r : Nat) (f : Region → Region) : (s.updReg r f).stalled = s.stalled := rfl
@[simp] theorem updReg_colls (s : State) (r : Nat) (f : Region → Region) : (s.updReg r f).colls = s.colls := rfl
@[simp] theorem updReg_tickets (s : State) (r : Nat) (f : Region → Region) : (s.updReg r f).tickets = s.tickets := rfl
@[simp] theorem updReg_nextId (s : State) (r : Nat) (f : Region → Region) : (s.updReg r f).nextId = s.nextId := rfl

@[simp] theorem updSeq_powered (s : State) (r : Nat) (f : Seq → Seq) : (s.updSeq r f).powered = s.powered := rfl
@[simp] theorem updSeq_cycle (s : State) (r : Nat) (f : Seq → Seq) : (s.updSeq r f).cycle = s.cycle := rfl
@[simp] theorem updSeq_time (s : State) (r : Nat) (f : Seq → Seq) : (s.updSeq r f).time = s.time := rfl
@[simp] theorem updSeq_clk (s : State) (r : Nat) (f : Seq → Seq) : (s.updSeq r f).clk = s.clk := rfl
@[simp] theorem updSeq_tier (s : State) (r : Nat) (f : Seq → Seq) : (s.updSeq r f).tier = s.tier := rfl
@[simp] theorem updSeq_cxl (s : State) (r : Nat) (f : Seq → Seq) : (s.updSeq r f).cxl = s.cxl := rfl
@[simp] theorem updSeq_mem (s : State) (r : Nat) (f : Seq → Seq) : (s.updSeq r f).mem = s.mem := rfl
@[simp] theorem updSeq_uerr (s : State) (r : Nat) (f : Seq → Seq) : (s.updSeq r f).uerr = s.uerr := rfl
@[simp] theorem updSeq_atomics (s : State) (r : Nat) (f : Seq → Seq) : (s.updSeq r f).atomics = s.atomics := rfl
@[simp] theorem updSeq_dies (s : State) (r : Nat) (f : Seq → Seq) : (s.updSeq r f).dies = s.dies := rfl
@[simp] theorem updSeq_graphs (s : State) (r : Nat) (f : Seq → Seq) : (s.updSeq r f).graphs = s.graphs := rfl
@[simp] theorem updSeq_jobs (s : State) (r : Nat) (f : Seq → Seq) : (s.updSeq r f).jobs = s.jobs := rfl
@[simp] theorem updSeq_sup (s : State) (r : Nat) (f : Seq → Seq) : (s.updSeq r f).sup = s.sup := rfl
@[simp] theorem updSeq_nvm (s : State) (r : Nat) (f : Seq → Seq) : (s.updSeq r f).nvm = s.nvm := rfl
@[simp] theorem updSeq_power (s : State) (r : Nat) (f : Seq → Seq) : (s.updSeq r f).power = s.power := rfl
@[simp] theorem updSeq_work (s : State) (r : Nat) (f : Seq → Seq) : (s.updSeq r f).work = s.work := rfl
@[simp] theorem updSeq_focus (s : State) (r : Nat) (f : Seq → Seq) : (s.updSeq r f).focus = s.focus := rfl
@[simp] theorem updSeq_inputs (s : State) (r : Nat) (f : Seq → Seq) : (s.updSeq r f).inputs = s.inputs := rfl
@[simp] theorem updSeq_timers (s : State) (r : Nat) (f : Seq → Seq) : (s.updSeq r f).timers = s.timers := rfl
@[simp] theorem updSeq_stalled (s : State) (r : Nat) (f : Seq → Seq) : (s.updSeq r f).stalled = s.stalled := rfl
@[simp] theorem updSeq_colls (s : State) (r : Nat) (f : Seq → Seq) : (s.updSeq r f).colls = s.colls := rfl
@[simp] theorem updSeq_tickets (s : State) (r : Nat) (f : Seq → Seq) : (s.updSeq r f).tickets = s.tickets := rfl
@[simp] theorem updSeq_nextId (s : State) (r : Nat) (f : Seq → Seq) : (s.updSeq r f).nextId = s.nextId := rfl

@[simp] theorem setBlock_powered (s : State) (b : Block) : (s.setBlock b).powered = s.powered := rfl
@[simp] theorem setBlock_cycle (s : State) (b : Block) : (s.setBlock b).cycle = s.cycle := rfl
@[simp] theorem setBlock_time (s : State) (b : Block) : (s.setBlock b).time = s.time := rfl
@[simp] theorem setBlock_clk (s : State) (b : Block) : (s.setBlock b).clk = s.clk := rfl
@[simp] theorem setBlock_tier (s : State) (b : Block) : (s.setBlock b).tier = s.tier := rfl
@[simp] theorem setBlock_cxl (s : State) (b : Block) : (s.setBlock b).cxl = s.cxl := rfl
@[simp] theorem setBlock_mem (s : State) (b : Block) : (s.setBlock b).mem = s.mem := rfl
@[simp] theorem setBlock_uerr (s : State) (b : Block) : (s.setBlock b).uerr = s.uerr := rfl
@[simp] theorem setBlock_atomics (s : State) (b : Block) : (s.setBlock b).atomics = s.atomics := rfl
@[simp] theorem setBlock_dies (s : State) (b : Block) : (s.setBlock b).dies = s.dies := rfl
@[simp] theorem setBlock_graphs (s : State) (b : Block) : (s.setBlock b).graphs = s.graphs := rfl
@[simp] theorem setBlock_jobs (s : State) (b : Block) : (s.setBlock b).jobs = s.jobs := rfl
@[simp] theorem setBlock_sup (s : State) (b : Block) : (s.setBlock b).sup = s.sup := rfl
@[simp] theorem setBlock_nvm (s : State) (b : Block) : (s.setBlock b).nvm = s.nvm := rfl
@[simp] theorem setBlock_power (s : State) (b : Block) : (s.setBlock b).power = s.power := rfl
@[simp] theorem setBlock_work (s : State) (b : Block) : (s.setBlock b).work = s.work := rfl
@[simp] theorem setBlock_focus (s : State) (b : Block) : (s.setBlock b).focus = s.focus := rfl
@[simp] theorem setBlock_inputs (s : State) (b : Block) : (s.setBlock b).inputs = s.inputs := rfl
@[simp] theorem setBlock_timers (s : State) (b : Block) : (s.setBlock b).timers = s.timers := rfl
@[simp] theorem setBlock_stalled (s : State) (b : Block) : (s.setBlock b).stalled = s.stalled := rfl
@[simp] theorem setBlock_colls (s : State) (b : Block) : (s.setBlock b).colls = s.colls := rfl
@[simp] theorem setBlock_tickets (s : State) (b : Block) : (s.setBlock b).tickets = s.tickets := rfl
@[simp] theorem setBlock_nextId (s : State) (b : Block) : (s.setBlock b).nextId = s.nextId := rfl

@[simp] theorem updGraph_powered (s : State) (g : Nat) (f : Graph → Graph) : (s.updGraph g f).powered = s.powered := rfl
@[simp] theorem updGraph_cycle (s : State) (g : Nat) (f : Graph → Graph) : (s.updGraph g f).cycle = s.cycle := rfl
@[simp] theorem updGraph_time (s : State) (g : Nat) (f : Graph → Graph) : (s.updGraph g f).time = s.time := rfl
@[simp] theorem updGraph_clk (s : State) (g : Nat) (f : Graph → Graph) : (s.updGraph g f).clk = s.clk := rfl
@[simp] theorem updGraph_tier (s : State) (g : Nat) (f : Graph → Graph) : (s.updGraph g f).tier = s.tier := rfl
@[simp] theorem updGraph_cxl (s : State) (g : Nat) (f : Graph → Graph) : (s.updGraph g f).cxl = s.cxl := rfl
@[simp] theorem updGraph_mem (s : State) (g : Nat) (f : Graph → Graph) : (s.updGraph g f).mem = s.mem := rfl
@[simp] theorem updGraph_uerr (s : State) (g : Nat) (f : Graph → Graph) : (s.updGraph g f).uerr = s.uerr := rfl
@[simp] theorem updGraph_atomics (s : State) (g : Nat) (f : Graph → Graph) : (s.updGraph g f).atomics = s.atomics := rfl
@[simp] theorem updGraph_dies (s : State) (g : Nat) (f : Graph → Graph) : (s.updGraph g f).dies = s.dies := rfl
@[simp] theorem updGraph_regions (s : State) (g : Nat) (f : Graph → Graph) : (s.updGraph g f).regions = s.regions := rfl
@[simp] theorem updGraph_jobs (s : State) (g : Nat) (f : Graph → Graph) : (s.updGraph g f).jobs = s.jobs := rfl
@[simp] theorem updGraph_sup (s : State) (g : Nat) (f : Graph → Graph) : (s.updGraph g f).sup = s.sup := rfl
@[simp] theorem updGraph_nvm (s : State) (g : Nat) (f : Graph → Graph) : (s.updGraph g f).nvm = s.nvm := rfl
@[simp] theorem updGraph_power (s : State) (g : Nat) (f : Graph → Graph) : (s.updGraph g f).power = s.power := rfl
@[simp] theorem updGraph_work (s : State) (g : Nat) (f : Graph → Graph) : (s.updGraph g f).work = s.work := rfl
@[simp] theorem updGraph_focus (s : State) (g : Nat) (f : Graph → Graph) : (s.updGraph g f).focus = s.focus := rfl
@[simp] theorem updGraph_inputs (s : State) (g : Nat) (f : Graph → Graph) : (s.updGraph g f).inputs = s.inputs := rfl
@[simp] theorem updGraph_timers (s : State) (g : Nat) (f : Graph → Graph) : (s.updGraph g f).timers = s.timers := rfl
@[simp] theorem updGraph_stalled (s : State) (g : Nat) (f : Graph → Graph) : (s.updGraph g f).stalled = s.stalled := rfl
@[simp] theorem updGraph_colls (s : State) (g : Nat) (f : Graph → Graph) : (s.updGraph g f).colls = s.colls := rfl
@[simp] theorem updGraph_tickets (s : State) (g : Nat) (f : Graph → Graph) : (s.updGraph g f).tickets = s.tickets := rfl
@[simp] theorem updGraph_nextId (s : State) (g : Nat) (f : Graph → Graph) : (s.updGraph g f).nextId = s.nextId := rfl

@[simp] theorem updJob_powered (s : State) (j : Nat) (f : Job → Job) : (s.updJob j f).powered = s.powered := rfl
@[simp] theorem updJob_cycle (s : State) (j : Nat) (f : Job → Job) : (s.updJob j f).cycle = s.cycle := rfl
@[simp] theorem updJob_time (s : State) (j : Nat) (f : Job → Job) : (s.updJob j f).time = s.time := rfl
@[simp] theorem updJob_clk (s : State) (j : Nat) (f : Job → Job) : (s.updJob j f).clk = s.clk := rfl
@[simp] theorem updJob_tier (s : State) (j : Nat) (f : Job → Job) : (s.updJob j f).tier = s.tier := rfl
@[simp] theorem updJob_cxl (s : State) (j : Nat) (f : Job → Job) : (s.updJob j f).cxl = s.cxl := rfl
@[simp] theorem updJob_mem (s : State) (j : Nat) (f : Job → Job) : (s.updJob j f).mem = s.mem := rfl
@[simp] theorem updJob_uerr (s : State) (j : Nat) (f : Job → Job) : (s.updJob j f).uerr = s.uerr := rfl
@[simp] theorem updJob_atomics (s : State) (j : Nat) (f : Job → Job) : (s.updJob j f).atomics = s.atomics := rfl
@[simp] theorem updJob_dies (s : State) (j : Nat) (f : Job → Job) : (s.updJob j f).dies = s.dies := rfl
@[simp] theorem updJob_regions (s : State) (j : Nat) (f : Job → Job) : (s.updJob j f).regions = s.regions := rfl
@[simp] theorem updJob_graphs (s : State) (j : Nat) (f : Job → Job) : (s.updJob j f).graphs = s.graphs := rfl
@[simp] theorem updJob_sup (s : State) (j : Nat) (f : Job → Job) : (s.updJob j f).sup = s.sup := rfl
@[simp] theorem updJob_nvm (s : State) (j : Nat) (f : Job → Job) : (s.updJob j f).nvm = s.nvm := rfl
@[simp] theorem updJob_power (s : State) (j : Nat) (f : Job → Job) : (s.updJob j f).power = s.power := rfl
@[simp] theorem updJob_work (s : State) (j : Nat) (f : Job → Job) : (s.updJob j f).work = s.work := rfl
@[simp] theorem updJob_focus (s : State) (j : Nat) (f : Job → Job) : (s.updJob j f).focus = s.focus := rfl
@[simp] theorem updJob_inputs (s : State) (j : Nat) (f : Job → Job) : (s.updJob j f).inputs = s.inputs := rfl
@[simp] theorem updJob_timers (s : State) (j : Nat) (f : Job → Job) : (s.updJob j f).timers = s.timers := rfl
@[simp] theorem updJob_stalled (s : State) (j : Nat) (f : Job → Job) : (s.updJob j f).stalled = s.stalled := rfl
@[simp] theorem updJob_colls (s : State) (j : Nat) (f : Job → Job) : (s.updJob j f).colls = s.colls := rfl
@[simp] theorem updJob_tickets (s : State) (j : Nat) (f : Job → Job) : (s.updJob j f).tickets = s.tickets := rfl
@[simp] theorem updJob_nextId (s : State) (j : Nat) (f : Job → Job) : (s.updJob j f).nextId = s.nextId := rfl

@[simp] theorem updDie_powered (s : State) (d : Nat) (f : Die → Die) : (s.updDie d f).powered = s.powered := rfl
@[simp] theorem updDie_cycle (s : State) (d : Nat) (f : Die → Die) : (s.updDie d f).cycle = s.cycle := rfl
@[simp] theorem updDie_time (s : State) (d : Nat) (f : Die → Die) : (s.updDie d f).time = s.time := rfl
@[simp] theorem updDie_clk (s : State) (d : Nat) (f : Die → Die) : (s.updDie d f).clk = s.clk := rfl
@[simp] theorem updDie_tier (s : State) (d : Nat) (f : Die → Die) : (s.updDie d f).tier = s.tier := rfl
@[simp] theorem updDie_cxl (s : State) (d : Nat) (f : Die → Die) : (s.updDie d f).cxl = s.cxl := rfl
@[simp] theorem updDie_mem (s : State) (d : Nat) (f : Die → Die) : (s.updDie d f).mem = s.mem := rfl
@[simp] theorem updDie_uerr (s : State) (d : Nat) (f : Die → Die) : (s.updDie d f).uerr = s.uerr := rfl
@[simp] theorem updDie_atomics (s : State) (d : Nat) (f : Die → Die) : (s.updDie d f).atomics = s.atomics := rfl
@[simp] theorem updDie_regions (s : State) (d : Nat) (f : Die → Die) : (s.updDie d f).regions = s.regions := rfl
@[simp] theorem updDie_graphs (s : State) (d : Nat) (f : Die → Die) : (s.updDie d f).graphs = s.graphs := rfl
@[simp] theorem updDie_jobs (s : State) (d : Nat) (f : Die → Die) : (s.updDie d f).jobs = s.jobs := rfl
@[simp] theorem updDie_sup (s : State) (d : Nat) (f : Die → Die) : (s.updDie d f).sup = s.sup := rfl
@[simp] theorem updDie_nvm (s : State) (d : Nat) (f : Die → Die) : (s.updDie d f).nvm = s.nvm := rfl
@[simp] theorem updDie_power (s : State) (d : Nat) (f : Die → Die) : (s.updDie d f).power = s.power := rfl
@[simp] theorem updDie_work (s : State) (d : Nat) (f : Die → Die) : (s.updDie d f).work = s.work := rfl
@[simp] theorem updDie_focus (s : State) (d : Nat) (f : Die → Die) : (s.updDie d f).focus = s.focus := rfl
@[simp] theorem updDie_inputs (s : State) (d : Nat) (f : Die → Die) : (s.updDie d f).inputs = s.inputs := rfl
@[simp] theorem updDie_timers (s : State) (d : Nat) (f : Die → Die) : (s.updDie d f).timers = s.timers := rfl
@[simp] theorem updDie_stalled (s : State) (d : Nat) (f : Die → Die) : (s.updDie d f).stalled = s.stalled := rfl
@[simp] theorem updDie_colls (s : State) (d : Nat) (f : Die → Die) : (s.updDie d f).colls = s.colls := rfl
@[simp] theorem updDie_tickets (s : State) (d : Nat) (f : Die → Die) : (s.updDie d f).tickets = s.tickets := rfl
@[simp] theorem updDie_nextId (s : State) (d : Nat) (f : Die → Die) : (s.updDie d f).nextId = s.nextId := rfl

@[simp] theorem updSup_powered (s : State) (f : Sup → Sup) : (s.updSup f).powered = s.powered := rfl
@[simp] theorem updSup_cycle (s : State) (f : Sup → Sup) : (s.updSup f).cycle = s.cycle := rfl
@[simp] theorem updSup_time (s : State) (f : Sup → Sup) : (s.updSup f).time = s.time := rfl
@[simp] theorem updSup_clk (s : State) (f : Sup → Sup) : (s.updSup f).clk = s.clk := rfl
@[simp] theorem updSup_tier (s : State) (f : Sup → Sup) : (s.updSup f).tier = s.tier := rfl
@[simp] theorem updSup_cxl (s : State) (f : Sup → Sup) : (s.updSup f).cxl = s.cxl := rfl
@[simp] theorem updSup_mem (s : State) (f : Sup → Sup) : (s.updSup f).mem = s.mem := rfl
@[simp] theorem updSup_uerr (s : State) (f : Sup → Sup) : (s.updSup f).uerr = s.uerr := rfl
@[simp] theorem updSup_atomics (s : State) (f : Sup → Sup) : (s.updSup f).atomics = s.atomics := rfl
@[simp] theorem updSup_dies (s : State) (f : Sup → Sup) : (s.updSup f).dies = s.dies := rfl
@[simp] theorem updSup_regions (s : State) (f : Sup → Sup) : (s.updSup f).regions = s.regions := rfl
@[simp] theorem updSup_graphs (s : State) (f : Sup → Sup) : (s.updSup f).graphs = s.graphs := rfl
@[simp] theorem updSup_jobs (s : State) (f : Sup → Sup) : (s.updSup f).jobs = s.jobs := rfl
@[simp] theorem updSup_nvm (s : State) (f : Sup → Sup) : (s.updSup f).nvm = s.nvm := rfl
@[simp] theorem updSup_power (s : State) (f : Sup → Sup) : (s.updSup f).power = s.power := rfl
@[simp] theorem updSup_work (s : State) (f : Sup → Sup) : (s.updSup f).work = s.work := rfl
@[simp] theorem updSup_focus (s : State) (f : Sup → Sup) : (s.updSup f).focus = s.focus := rfl
@[simp] theorem updSup_inputs (s : State) (f : Sup → Sup) : (s.updSup f).inputs = s.inputs := rfl
@[simp] theorem updSup_timers (s : State) (f : Sup → Sup) : (s.updSup f).timers = s.timers := rfl
@[simp] theorem updSup_stalled (s : State) (f : Sup → Sup) : (s.updSup f).stalled = s.stalled := rfl
@[simp] theorem updSup_colls (s : State) (f : Sup → Sup) : (s.updSup f).colls = s.colls := rfl
@[simp] theorem updSup_tickets (s : State) (f : Sup → Sup) : (s.updSup f).tickets = s.tickets := rfl
@[simp] theorem updSup_nextId (s : State) (f : Sup → Sup) : (s.updSup f).nextId = s.nextId := rfl

@[simp] theorem note_powered (s : State) (e : DerrickAct) : (s.note e).powered = s.powered := rfl
@[simp] theorem note_cycle (s : State) (e : DerrickAct) : (s.note e).cycle = s.cycle := rfl
@[simp] theorem note_time (s : State) (e : DerrickAct) : (s.note e).time = s.time := rfl
@[simp] theorem note_clk (s : State) (e : DerrickAct) : (s.note e).clk = s.clk := rfl
@[simp] theorem note_tier (s : State) (e : DerrickAct) : (s.note e).tier = s.tier := rfl
@[simp] theorem note_cxl (s : State) (e : DerrickAct) : (s.note e).cxl = s.cxl := rfl
@[simp] theorem note_mem (s : State) (e : DerrickAct) : (s.note e).mem = s.mem := rfl
@[simp] theorem note_uerr (s : State) (e : DerrickAct) : (s.note e).uerr = s.uerr := rfl
@[simp] theorem note_atomics (s : State) (e : DerrickAct) : (s.note e).atomics = s.atomics := rfl
@[simp] theorem note_dies (s : State) (e : DerrickAct) : (s.note e).dies = s.dies := rfl
@[simp] theorem note_regions (s : State) (e : DerrickAct) : (s.note e).regions = s.regions := rfl
@[simp] theorem note_graphs (s : State) (e : DerrickAct) : (s.note e).graphs = s.graphs := rfl
@[simp] theorem note_jobs (s : State) (e : DerrickAct) : (s.note e).jobs = s.jobs := rfl
@[simp] theorem note_nvm (s : State) (e : DerrickAct) : (s.note e).nvm = s.nvm := rfl
@[simp] theorem note_power (s : State) (e : DerrickAct) : (s.note e).power = s.power := rfl
@[simp] theorem note_work (s : State) (e : DerrickAct) : (s.note e).work = s.work := rfl
@[simp] theorem note_focus (s : State) (e : DerrickAct) : (s.note e).focus = s.focus := rfl
@[simp] theorem note_inputs (s : State) (e : DerrickAct) : (s.note e).inputs = s.inputs := rfl
@[simp] theorem note_timers (s : State) (e : DerrickAct) : (s.note e).timers = s.timers := rfl
@[simp] theorem note_stalled (s : State) (e : DerrickAct) : (s.note e).stalled = s.stalled := rfl
@[simp] theorem note_colls (s : State) (e : DerrickAct) : (s.note e).colls = s.colls := rfl
@[simp] theorem note_tickets (s : State) (e : DerrickAct) : (s.note e).tickets = s.tickets := rfl
@[simp] theorem note_nextId (s : State) (e : DerrickAct) : (s.note e).nextId = s.nextId := rfl

@[simp] theorem emit_powered (s : State) (m : OutMsg) : (s.emit m).powered = s.powered := rfl
@[simp] theorem emit_cycle (s : State) (m : OutMsg) : (s.emit m).cycle = s.cycle := rfl
@[simp] theorem emit_time (s : State) (m : OutMsg) : (s.emit m).time = s.time := rfl
@[simp] theorem emit_clk (s : State) (m : OutMsg) : (s.emit m).clk = s.clk := rfl
@[simp] theorem emit_tier (s : State) (m : OutMsg) : (s.emit m).tier = s.tier := rfl
@[simp] theorem emit_cxl (s : State) (m : OutMsg) : (s.emit m).cxl = s.cxl := rfl
@[simp] theorem emit_mem (s : State) (m : OutMsg) : (s.emit m).mem = s.mem := rfl
@[simp] theorem emit_uerr (s : State) (m : OutMsg) : (s.emit m).uerr = s.uerr := rfl
@[simp] theorem emit_atomics (s : State) (m : OutMsg) : (s.emit m).atomics = s.atomics := rfl
@[simp] theorem emit_dies (s : State) (m : OutMsg) : (s.emit m).dies = s.dies := rfl
@[simp] theorem emit_regions (s : State) (m : OutMsg) : (s.emit m).regions = s.regions := rfl
@[simp] theorem emit_graphs (s : State) (m : OutMsg) : (s.emit m).graphs = s.graphs := rfl
@[simp] theorem emit_jobs (s : State) (m : OutMsg) : (s.emit m).jobs = s.jobs := rfl
@[simp] theorem emit_nvm (s : State) (m : OutMsg) : (s.emit m).nvm = s.nvm := rfl
@[simp] theorem emit_power (s : State) (m : OutMsg) : (s.emit m).power = s.power := rfl
@[simp] theorem emit_work (s : State) (m : OutMsg) : (s.emit m).work = s.work := rfl
@[simp] theorem emit_focus (s : State) (m : OutMsg) : (s.emit m).focus = s.focus := rfl
@[simp] theorem emit_inputs (s : State) (m : OutMsg) : (s.emit m).inputs = s.inputs := rfl
@[simp] theorem emit_timers (s : State) (m : OutMsg) : (s.emit m).timers = s.timers := rfl
@[simp] theorem emit_stalled (s : State) (m : OutMsg) : (s.emit m).stalled = s.stalled := rfl
@[simp] theorem emit_colls (s : State) (m : OutMsg) : (s.emit m).colls = s.colls := rfl
@[simp] theorem emit_tickets (s : State) (m : OutMsg) : (s.emit m).tickets = s.tickets := rfl
@[simp] theorem emit_nextId (s : State) (m : OutMsg) : (s.emit m).nextId = s.nextId := rfl

@[simp] theorem after_powered (s : State) (n : Nat) (e : Event) : (s.after n e).powered = s.powered := rfl
@[simp] theorem after_cycle (s : State) (n : Nat) (e : Event) : (s.after n e).cycle = s.cycle := rfl
@[simp] theorem after_time (s : State) (n : Nat) (e : Event) : (s.after n e).time = s.time := rfl
@[simp] theorem after_clk (s : State) (n : Nat) (e : Event) : (s.after n e).clk = s.clk := rfl
@[simp] theorem after_tier (s : State) (n : Nat) (e : Event) : (s.after n e).tier = s.tier := rfl
@[simp] theorem after_cxl (s : State) (n : Nat) (e : Event) : (s.after n e).cxl = s.cxl := rfl
@[simp] theorem after_mem (s : State) (n : Nat) (e : Event) : (s.after n e).mem = s.mem := rfl
@[simp] theorem after_uerr (s : State) (n : Nat) (e : Event) : (s.after n e).uerr = s.uerr := rfl
@[simp] theorem after_atomics (s : State) (n : Nat) (e : Event) : (s.after n e).atomics = s.atomics := rfl
@[simp] theorem after_dies (s : State) (n : Nat) (e : Event) : (s.after n e).dies = s.dies := rfl
@[simp] theorem after_regions (s : State) (n : Nat) (e : Event) : (s.after n e).regions = s.regions := rfl
@[simp] theorem after_graphs (s : State) (n : Nat) (e : Event) : (s.after n e).graphs = s.graphs := rfl
@[simp] theorem after_jobs (s : State) (n : Nat) (e : Event) : (s.after n e).jobs = s.jobs := rfl
@[simp] theorem after_sup (s : State) (n : Nat) (e : Event) : (s.after n e).sup = s.sup := rfl
@[simp] theorem after_nvm (s : State) (n : Nat) (e : Event) : (s.after n e).nvm = s.nvm := rfl
@[simp] theorem after_power (s : State) (n : Nat) (e : Event) : (s.after n e).power = s.power := rfl
@[simp] theorem after_work (s : State) (n : Nat) (e : Event) : (s.after n e).work = s.work := rfl
@[simp] theorem after_focus (s : State) (n : Nat) (e : Event) : (s.after n e).focus = s.focus := rfl
@[simp] theorem after_inputs (s : State) (n : Nat) (e : Event) : (s.after n e).inputs = s.inputs := rfl
@[simp] theorem after_stalled (s : State) (n : Nat) (e : Event) : (s.after n e).stalled = s.stalled := rfl
@[simp] theorem after_colls (s : State) (n : Nat) (e : Event) : (s.after n e).colls = s.colls := rfl
@[simp] theorem after_tickets (s : State) (n : Nat) (e : Event) : (s.after n e).tickets = s.tickets := rfl
@[simp] theorem after_nextId (s : State) (n : Nat) (e : Event) : (s.after n e).nextId = s.nextId := rfl

@[simp] theorem now_powered (s : State) (e : Event) : (s.now e).powered = s.powered := rfl
@[simp] theorem now_cycle (s : State) (e : Event) : (s.now e).cycle = s.cycle := rfl
@[simp] theorem now_time (s : State) (e : Event) : (s.now e).time = s.time := rfl
@[simp] theorem now_clk (s : State) (e : Event) : (s.now e).clk = s.clk := rfl
@[simp] theorem now_tier (s : State) (e : Event) : (s.now e).tier = s.tier := rfl
@[simp] theorem now_cxl (s : State) (e : Event) : (s.now e).cxl = s.cxl := rfl
@[simp] theorem now_mem (s : State) (e : Event) : (s.now e).mem = s.mem := rfl
@[simp] theorem now_uerr (s : State) (e : Event) : (s.now e).uerr = s.uerr := rfl
@[simp] theorem now_atomics (s : State) (e : Event) : (s.now e).atomics = s.atomics := rfl
@[simp] theorem now_dies (s : State) (e : Event) : (s.now e).dies = s.dies := rfl
@[simp] theorem now_regions (s : State) (e : Event) : (s.now e).regions = s.regions := rfl
@[simp] theorem now_graphs (s : State) (e : Event) : (s.now e).graphs = s.graphs := rfl
@[simp] theorem now_jobs (s : State) (e : Event) : (s.now e).jobs = s.jobs := rfl
@[simp] theorem now_sup (s : State) (e : Event) : (s.now e).sup = s.sup := rfl
@[simp] theorem now_nvm (s : State) (e : Event) : (s.now e).nvm = s.nvm := rfl
@[simp] theorem now_power (s : State) (e : Event) : (s.now e).power = s.power := rfl
@[simp] theorem now_focus (s : State) (e : Event) : (s.now e).focus = s.focus := rfl
@[simp] theorem now_inputs (s : State) (e : Event) : (s.now e).inputs = s.inputs := rfl
@[simp] theorem now_timers (s : State) (e : Event) : (s.now e).timers = s.timers := rfl
@[simp] theorem now_stalled (s : State) (e : Event) : (s.now e).stalled = s.stalled := rfl
@[simp] theorem now_colls (s : State) (e : Event) : (s.now e).colls = s.colls := rfl
@[simp] theorem now_tickets (s : State) (e : Event) : (s.now e).tickets = s.tickets := rfl
@[simp] theorem now_nextId (s : State) (e : Event) : (s.now e).nextId = s.nextId := rfl

@[simp] theorem updBench_powered (s : State) (r b : Nat) (f : Bench → Bench) : (s.updBench r b f).powered = s.powered := rfl
@[simp] theorem updBench_cycle (s : State) (r b : Nat) (f : Bench → Bench) : (s.updBench r b f).cycle = s.cycle := rfl
@[simp] theorem updBench_time (s : State) (r b : Nat) (f : Bench → Bench) : (s.updBench r b f).time = s.time := rfl
@[simp] theorem updBench_clk (s : State) (r b : Nat) (f : Bench → Bench) : (s.updBench r b f).clk = s.clk := rfl
@[simp] theorem updBench_tier (s : State) (r b : Nat) (f : Bench → Bench) : (s.updBench r b f).tier = s.tier := rfl
@[simp] theorem updBench_cxl (s : State) (r b : Nat) (f : Bench → Bench) : (s.updBench r b f).cxl = s.cxl := rfl
@[simp] theorem updBench_mem (s : State) (r b : Nat) (f : Bench → Bench) : (s.updBench r b f).mem = s.mem := rfl
@[simp] theorem updBench_uerr (s : State) (r b : Nat) (f : Bench → Bench) : (s.updBench r b f).uerr = s.uerr := rfl
@[simp] theorem updBench_atomics (s : State) (r b : Nat) (f : Bench → Bench) : (s.updBench r b f).atomics = s.atomics := rfl
@[simp] theorem updBench_dies (s : State) (r b : Nat) (f : Bench → Bench) : (s.updBench r b f).dies = s.dies := rfl
@[simp] theorem updBench_graphs (s : State) (r b : Nat) (f : Bench → Bench) : (s.updBench r b f).graphs = s.graphs := rfl
@[simp] theorem updBench_jobs (s : State) (r b : Nat) (f : Bench → Bench) : (s.updBench r b f).jobs = s.jobs := rfl
@[simp] theorem updBench_sup (s : State) (r b : Nat) (f : Bench → Bench) : (s.updBench r b f).sup = s.sup := rfl
@[simp] theorem updBench_nvm (s : State) (r b : Nat) (f : Bench → Bench) : (s.updBench r b f).nvm = s.nvm := rfl
@[simp] theorem updBench_power (s : State) (r b : Nat) (f : Bench → Bench) : (s.updBench r b f).power = s.power := rfl
@[simp] theorem updBench_work (s : State) (r b : Nat) (f : Bench → Bench) : (s.updBench r b f).work = s.work := rfl
@[simp] theorem updBench_focus (s : State) (r b : Nat) (f : Bench → Bench) : (s.updBench r b f).focus = s.focus := rfl
@[simp] theorem updBench_inputs (s : State) (r b : Nat) (f : Bench → Bench) : (s.updBench r b f).inputs = s.inputs := rfl
@[simp] theorem updBench_timers (s : State) (r b : Nat) (f : Bench → Bench) : (s.updBench r b f).timers = s.timers := rfl
@[simp] theorem updBench_stalled (s : State) (r b : Nat) (f : Bench → Bench) : (s.updBench r b f).stalled = s.stalled := rfl
@[simp] theorem updBench_colls (s : State) (r b : Nat) (f : Bench → Bench) : (s.updBench r b f).colls = s.colls := rfl
@[simp] theorem updBench_tickets (s : State) (r b : Nat) (f : Bench → Bench) : (s.updBench r b f).tickets = s.tickets := rfl
@[simp] theorem updBench_nextId (s : State) (r b : Nat) (f : Bench → Bench) : (s.updBench r b f).nextId = s.nextId := rfl

@[simp] theorem updElem_powered (s : State) (r b e : Nat) (f : Element → Element) : (s.updElem r b e f).powered = s.powered := rfl
@[simp] theorem updElem_cycle (s : State) (r b e : Nat) (f : Element → Element) : (s.updElem r b e f).cycle = s.cycle := rfl
@[simp] theorem updElem_time (s : State) (r b e : Nat) (f : Element → Element) : (s.updElem r b e f).time = s.time := rfl
@[simp] theorem updElem_clk (s : State) (r b e : Nat) (f : Element → Element) : (s.updElem r b e f).clk = s.clk := rfl
@[simp] theorem updElem_tier (s : State) (r b e : Nat) (f : Element → Element) : (s.updElem r b e f).tier = s.tier := rfl
@[simp] theorem updElem_cxl (s : State) (r b e : Nat) (f : Element → Element) : (s.updElem r b e f).cxl = s.cxl := rfl
@[simp] theorem updElem_mem (s : State) (r b e : Nat) (f : Element → Element) : (s.updElem r b e f).mem = s.mem := rfl
@[simp] theorem updElem_uerr (s : State) (r b e : Nat) (f : Element → Element) : (s.updElem r b e f).uerr = s.uerr := rfl
@[simp] theorem updElem_atomics (s : State) (r b e : Nat) (f : Element → Element) : (s.updElem r b e f).atomics = s.atomics := rfl
@[simp] theorem updElem_dies (s : State) (r b e : Nat) (f : Element → Element) : (s.updElem r b e f).dies = s.dies := rfl
@[simp] theorem updElem_graphs (s : State) (r b e : Nat) (f : Element → Element) : (s.updElem r b e f).graphs = s.graphs := rfl
@[simp] theorem updElem_jobs (s : State) (r b e : Nat) (f : Element → Element) : (s.updElem r b e f).jobs = s.jobs := rfl
@[simp] theorem updElem_sup (s : State) (r b e : Nat) (f : Element → Element) : (s.updElem r b e f).sup = s.sup := rfl
@[simp] theorem updElem_nvm (s : State) (r b e : Nat) (f : Element → Element) : (s.updElem r b e f).nvm = s.nvm := rfl
@[simp] theorem updElem_power (s : State) (r b e : Nat) (f : Element → Element) : (s.updElem r b e f).power = s.power := rfl
@[simp] theorem updElem_work (s : State) (r b e : Nat) (f : Element → Element) : (s.updElem r b e f).work = s.work := rfl
@[simp] theorem updElem_focus (s : State) (r b e : Nat) (f : Element → Element) : (s.updElem r b e f).focus = s.focus := rfl
@[simp] theorem updElem_inputs (s : State) (r b e : Nat) (f : Element → Element) : (s.updElem r b e f).inputs = s.inputs := rfl
@[simp] theorem updElem_timers (s : State) (r b e : Nat) (f : Element → Element) : (s.updElem r b e f).timers = s.timers := rfl
@[simp] theorem updElem_stalled (s : State) (r b e : Nat) (f : Element → Element) : (s.updElem r b e f).stalled = s.stalled := rfl
@[simp] theorem updElem_colls (s : State) (r b e : Nat) (f : Element → Element) : (s.updElem r b e f).colls = s.colls := rfl
@[simp] theorem updElem_tickets (s : State) (r b e : Nat) (f : Element → Element) : (s.updElem r b e f).tickets = s.tickets := rfl
@[simp] theorem updElem_nextId (s : State) (r b e : Nat) (f : Element → Element) : (s.updElem r b e f).nextId = s.nextId := rfl

@[simp] theorem storeBytes_powered (s : State) (a : Nat) (bs : List Byte) : (s.storeBytes a bs).powered = s.powered := rfl
@[simp] theorem storeBytes_cycle (s : State) (a : Nat) (bs : List Byte) : (s.storeBytes a bs).cycle = s.cycle := rfl
@[simp] theorem storeBytes_time (s : State) (a : Nat) (bs : List Byte) : (s.storeBytes a bs).time = s.time := rfl
@[simp] theorem storeBytes_clk (s : State) (a : Nat) (bs : List Byte) : (s.storeBytes a bs).clk = s.clk := rfl
@[simp] theorem storeBytes_tier (s : State) (a : Nat) (bs : List Byte) : (s.storeBytes a bs).tier = s.tier := rfl
@[simp] theorem storeBytes_cxl (s : State) (a : Nat) (bs : List Byte) : (s.storeBytes a bs).cxl = s.cxl := rfl
@[simp] theorem storeBytes_atomics (s : State) (a : Nat) (bs : List Byte) : (s.storeBytes a bs).atomics = s.atomics := rfl
@[simp] theorem storeBytes_dies (s : State) (a : Nat) (bs : List Byte) : (s.storeBytes a bs).dies = s.dies := rfl
@[simp] theorem storeBytes_regions (s : State) (a : Nat) (bs : List Byte) : (s.storeBytes a bs).regions = s.regions := rfl
@[simp] theorem storeBytes_graphs (s : State) (a : Nat) (bs : List Byte) : (s.storeBytes a bs).graphs = s.graphs := rfl
@[simp] theorem storeBytes_jobs (s : State) (a : Nat) (bs : List Byte) : (s.storeBytes a bs).jobs = s.jobs := rfl
@[simp] theorem storeBytes_sup (s : State) (a : Nat) (bs : List Byte) : (s.storeBytes a bs).sup = s.sup := rfl
@[simp] theorem storeBytes_nvm (s : State) (a : Nat) (bs : List Byte) : (s.storeBytes a bs).nvm = s.nvm := rfl
@[simp] theorem storeBytes_power (s : State) (a : Nat) (bs : List Byte) : (s.storeBytes a bs).power = s.power := rfl
@[simp] theorem storeBytes_work (s : State) (a : Nat) (bs : List Byte) : (s.storeBytes a bs).work = s.work := rfl
@[simp] theorem storeBytes_focus (s : State) (a : Nat) (bs : List Byte) : (s.storeBytes a bs).focus = s.focus := rfl
@[simp] theorem storeBytes_inputs (s : State) (a : Nat) (bs : List Byte) : (s.storeBytes a bs).inputs = s.inputs := rfl
@[simp] theorem storeBytes_timers (s : State) (a : Nat) (bs : List Byte) : (s.storeBytes a bs).timers = s.timers := rfl
@[simp] theorem storeBytes_stalled (s : State) (a : Nat) (bs : List Byte) : (s.storeBytes a bs).stalled = s.stalled := rfl
@[simp] theorem storeBytes_colls (s : State) (a : Nat) (bs : List Byte) : (s.storeBytes a bs).colls = s.colls := rfl
@[simp] theorem storeBytes_tickets (s : State) (a : Nat) (bs : List Byte) : (s.storeBytes a bs).tickets = s.tickets := rfl
@[simp] theorem storeBytes_nextId (s : State) (a : Nat) (bs : List Byte) : (s.storeBytes a bs).nextId = s.nextId := rfl

@[simp] theorem freeSlots_powered (s : State) (l : List (Nat × Nat)) : (s.freeSlots l).powered = s.powered := rfl
@[simp] theorem freeSlots_cycle (s : State) (l : List (Nat × Nat)) : (s.freeSlots l).cycle = s.cycle := rfl
@[simp] theorem freeSlots_time (s : State) (l : List (Nat × Nat)) : (s.freeSlots l).time = s.time := rfl
@[simp] theorem freeSlots_clk (s : State) (l : List (Nat × Nat)) : (s.freeSlots l).clk = s.clk := rfl
@[simp] theorem freeSlots_tier (s : State) (l : List (Nat × Nat)) : (s.freeSlots l).tier = s.tier := rfl
@[simp] theorem freeSlots_cxl (s : State) (l : List (Nat × Nat)) : (s.freeSlots l).cxl = s.cxl := rfl
@[simp] theorem freeSlots_uerr (s : State) (l : List (Nat × Nat)) : (s.freeSlots l).uerr = s.uerr := rfl
@[simp] theorem freeSlots_atomics (s : State) (l : List (Nat × Nat)) : (s.freeSlots l).atomics = s.atomics := rfl
@[simp] theorem freeSlots_dies (s : State) (l : List (Nat × Nat)) : (s.freeSlots l).dies = s.dies := rfl
@[simp] theorem freeSlots_regions (s : State) (l : List (Nat × Nat)) : (s.freeSlots l).regions = s.regions := rfl
@[simp] theorem freeSlots_graphs (s : State) (l : List (Nat × Nat)) : (s.freeSlots l).graphs = s.graphs := rfl
@[simp] theorem freeSlots_jobs (s : State) (l : List (Nat × Nat)) : (s.freeSlots l).jobs = s.jobs := rfl
@[simp] theorem freeSlots_sup (s : State) (l : List (Nat × Nat)) : (s.freeSlots l).sup = s.sup := rfl
@[simp] theorem freeSlots_nvm (s : State) (l : List (Nat × Nat)) : (s.freeSlots l).nvm = s.nvm := rfl
@[simp] theorem freeSlots_power (s : State) (l : List (Nat × Nat)) : (s.freeSlots l).power = s.power := rfl
@[simp] theorem freeSlots_work (s : State) (l : List (Nat × Nat)) : (s.freeSlots l).work = s.work := rfl
@[simp] theorem freeSlots_focus (s : State) (l : List (Nat × Nat)) : (s.freeSlots l).focus = s.focus := rfl
@[simp] theorem freeSlots_inputs (s : State) (l : List (Nat × Nat)) : (s.freeSlots l).inputs = s.inputs := rfl
@[simp] theorem freeSlots_timers (s : State) (l : List (Nat × Nat)) : (s.freeSlots l).timers = s.timers := rfl
@[simp] theorem freeSlots_stalled (s : State) (l : List (Nat × Nat)) : (s.freeSlots l).stalled = s.stalled := rfl
@[simp] theorem freeSlots_colls (s : State) (l : List (Nat × Nat)) : (s.freeSlots l).colls = s.colls := rfl
@[simp] theorem freeSlots_tickets (s : State) (l : List (Nat × Nat)) : (s.freeSlots l).tickets = s.tickets := rfl
@[simp] theorem freeSlots_nextId (s : State) (l : List (Nat × Nat)) : (s.freeSlots l).nextId = s.nextId := rfl

@[simp] theorem versRound_powered (s : State) (r : Nat) (n : BitVec 24) (c : Bool) : (s.versRound r n c).powered = s.powered := rfl
@[simp] theorem versRound_cycle (s : State) (r : Nat) (n : BitVec 24) (c : Bool) : (s.versRound r n c).cycle = s.cycle := rfl
@[simp] theorem versRound_time (s : State) (r : Nat) (n : BitVec 24) (c : Bool) : (s.versRound r n c).time = s.time := rfl
@[simp] theorem versRound_clk (s : State) (r : Nat) (n : BitVec 24) (c : Bool) : (s.versRound r n c).clk = s.clk := rfl
@[simp] theorem versRound_tier (s : State) (r : Nat) (n : BitVec 24) (c : Bool) : (s.versRound r n c).tier = s.tier := rfl
@[simp] theorem versRound_cxl (s : State) (r : Nat) (n : BitVec 24) (c : Bool) : (s.versRound r n c).cxl = s.cxl := rfl
@[simp] theorem versRound_uerr (s : State) (r : Nat) (n : BitVec 24) (c : Bool) : (s.versRound r n c).uerr = s.uerr := rfl
@[simp] theorem versRound_atomics (s : State) (r : Nat) (n : BitVec 24) (c : Bool) : (s.versRound r n c).atomics = s.atomics := rfl
@[simp] theorem versRound_dies (s : State) (r : Nat) (n : BitVec 24) (c : Bool) : (s.versRound r n c).dies = s.dies := rfl
@[simp] theorem versRound_graphs (s : State) (r : Nat) (n : BitVec 24) (c : Bool) : (s.versRound r n c).graphs = s.graphs := rfl
@[simp] theorem versRound_jobs (s : State) (r : Nat) (n : BitVec 24) (c : Bool) : (s.versRound r n c).jobs = s.jobs := rfl
@[simp] theorem versRound_sup (s : State) (r : Nat) (n : BitVec 24) (c : Bool) : (s.versRound r n c).sup = s.sup := rfl
@[simp] theorem versRound_nvm (s : State) (r : Nat) (n : BitVec 24) (c : Bool) : (s.versRound r n c).nvm = s.nvm := rfl
@[simp] theorem versRound_power (s : State) (r : Nat) (n : BitVec 24) (c : Bool) : (s.versRound r n c).power = s.power := rfl
@[simp] theorem versRound_work (s : State) (r : Nat) (n : BitVec 24) (c : Bool) : (s.versRound r n c).work = s.work := rfl
@[simp] theorem versRound_focus (s : State) (r : Nat) (n : BitVec 24) (c : Bool) : (s.versRound r n c).focus = s.focus := rfl
@[simp] theorem versRound_inputs (s : State) (r : Nat) (n : BitVec 24) (c : Bool) : (s.versRound r n c).inputs = s.inputs := rfl
@[simp] theorem versRound_timers (s : State) (r : Nat) (n : BitVec 24) (c : Bool) : (s.versRound r n c).timers = s.timers := rfl
@[simp] theorem versRound_stalled (s : State) (r : Nat) (n : BitVec 24) (c : Bool) : (s.versRound r n c).stalled = s.stalled := rfl
@[simp] theorem versRound_colls (s : State) (r : Nat) (n : BitVec 24) (c : Bool) : (s.versRound r n c).colls = s.colls := rfl
@[simp] theorem versRound_tickets (s : State) (r : Nat) (n : BitVec 24) (c : Bool) : (s.versRound r n c).tickets = s.tickets := rfl
@[simp] theorem versRound_nextId (s : State) (r : Nat) (n : BitVec 24) (c : Bool) : (s.versRound r n c).nextId = s.nextId := rfl

@[simp] theorem setLeaves_powered (s : State) (ls : List LeafAt) (f : LeafAt → Nat) (m c : Bool) : (s.setLeaves ls f m c).powered = s.powered := rfl
@[simp] theorem setLeaves_cycle (s : State) (ls : List LeafAt) (f : LeafAt → Nat) (m c : Bool) : (s.setLeaves ls f m c).cycle = s.cycle := rfl
@[simp] theorem setLeaves_time (s : State) (ls : List LeafAt) (f : LeafAt → Nat) (m c : Bool) : (s.setLeaves ls f m c).time = s.time := rfl
@[simp] theorem setLeaves_clk (s : State) (ls : List LeafAt) (f : LeafAt → Nat) (m c : Bool) : (s.setLeaves ls f m c).clk = s.clk := rfl
@[simp] theorem setLeaves_tier (s : State) (ls : List LeafAt) (f : LeafAt → Nat) (m c : Bool) : (s.setLeaves ls f m c).tier = s.tier := rfl
@[simp] theorem setLeaves_cxl (s : State) (ls : List LeafAt) (f : LeafAt → Nat) (m c : Bool) : (s.setLeaves ls f m c).cxl = s.cxl := rfl
@[simp] theorem setLeaves_uerr (s : State) (ls : List LeafAt) (f : LeafAt → Nat) (m c : Bool) : (s.setLeaves ls f m c).uerr = s.uerr := rfl
@[simp] theorem setLeaves_atomics (s : State) (ls : List LeafAt) (f : LeafAt → Nat) (m c : Bool) : (s.setLeaves ls f m c).atomics = s.atomics := rfl
@[simp] theorem setLeaves_dies (s : State) (ls : List LeafAt) (f : LeafAt → Nat) (m c : Bool) : (s.setLeaves ls f m c).dies = s.dies := rfl
@[simp] theorem setLeaves_graphs (s : State) (ls : List LeafAt) (f : LeafAt → Nat) (m c : Bool) : (s.setLeaves ls f m c).graphs = s.graphs := rfl
@[simp] theorem setLeaves_jobs (s : State) (ls : List LeafAt) (f : LeafAt → Nat) (m c : Bool) : (s.setLeaves ls f m c).jobs = s.jobs := rfl
@[simp] theorem setLeaves_sup (s : State) (ls : List LeafAt) (f : LeafAt → Nat) (m c : Bool) : (s.setLeaves ls f m c).sup = s.sup := rfl
@[simp] theorem setLeaves_nvm (s : State) (ls : List LeafAt) (f : LeafAt → Nat) (m c : Bool) : (s.setLeaves ls f m c).nvm = s.nvm := rfl
@[simp] theorem setLeaves_power (s : State) (ls : List LeafAt) (f : LeafAt → Nat) (m c : Bool) : (s.setLeaves ls f m c).power = s.power := rfl
@[simp] theorem setLeaves_work (s : State) (ls : List LeafAt) (f : LeafAt → Nat) (m c : Bool) : (s.setLeaves ls f m c).work = s.work := rfl
@[simp] theorem setLeaves_focus (s : State) (ls : List LeafAt) (f : LeafAt → Nat) (m c : Bool) : (s.setLeaves ls f m c).focus = s.focus := rfl
@[simp] theorem setLeaves_inputs (s : State) (ls : List LeafAt) (f : LeafAt → Nat) (m c : Bool) : (s.setLeaves ls f m c).inputs = s.inputs := rfl
@[simp] theorem setLeaves_timers (s : State) (ls : List LeafAt) (f : LeafAt → Nat) (m c : Bool) : (s.setLeaves ls f m c).timers = s.timers := rfl
@[simp] theorem setLeaves_stalled (s : State) (ls : List LeafAt) (f : LeafAt → Nat) (m c : Bool) : (s.setLeaves ls f m c).stalled = s.stalled := rfl
@[simp] theorem setLeaves_colls (s : State) (ls : List LeafAt) (f : LeafAt → Nat) (m c : Bool) : (s.setLeaves ls f m c).colls = s.colls := rfl
@[simp] theorem setLeaves_tickets (s : State) (ls : List LeafAt) (f : LeafAt → Nat) (m c : Bool) : (s.setLeaves ls f m c).tickets = s.tickets := rfl
@[simp] theorem setLeaves_nextId (s : State) (ls : List LeafAt) (f : LeafAt → Nat) (m c : Bool) : (s.setLeaves ls f m c).nextId = s.nextId := rfl

@[simp] theorem keepStale_powered (s : State) (l : List (Nat × Nat)) : (s.keepStale l).powered = s.powered := rfl
@[simp] theorem keepStale_cycle (s : State) (l : List (Nat × Nat)) : (s.keepStale l).cycle = s.cycle := rfl
@[simp] theorem keepStale_time (s : State) (l : List (Nat × Nat)) : (s.keepStale l).time = s.time := rfl
@[simp] theorem keepStale_clk (s : State) (l : List (Nat × Nat)) : (s.keepStale l).clk = s.clk := rfl
@[simp] theorem keepStale_tier (s : State) (l : List (Nat × Nat)) : (s.keepStale l).tier = s.tier := rfl
@[simp] theorem keepStale_cxl (s : State) (l : List (Nat × Nat)) : (s.keepStale l).cxl = s.cxl := rfl
@[simp] theorem keepStale_mem (s : State) (l : List (Nat × Nat)) : (s.keepStale l).mem = s.mem := rfl
@[simp] theorem keepStale_uerr (s : State) (l : List (Nat × Nat)) : (s.keepStale l).uerr = s.uerr := rfl
@[simp] theorem keepStale_atomics (s : State) (l : List (Nat × Nat)) : (s.keepStale l).atomics = s.atomics := rfl
@[simp] theorem keepStale_dies (s : State) (l : List (Nat × Nat)) : (s.keepStale l).dies = s.dies := rfl
@[simp] theorem keepStale_graphs (s : State) (l : List (Nat × Nat)) : (s.keepStale l).graphs = s.graphs := rfl
@[simp] theorem keepStale_jobs (s : State) (l : List (Nat × Nat)) : (s.keepStale l).jobs = s.jobs := rfl
@[simp] theorem keepStale_sup (s : State) (l : List (Nat × Nat)) : (s.keepStale l).sup = s.sup := rfl
@[simp] theorem keepStale_nvm (s : State) (l : List (Nat × Nat)) : (s.keepStale l).nvm = s.nvm := rfl
@[simp] theorem keepStale_power (s : State) (l : List (Nat × Nat)) : (s.keepStale l).power = s.power := rfl
@[simp] theorem keepStale_work (s : State) (l : List (Nat × Nat)) : (s.keepStale l).work = s.work := rfl
@[simp] theorem keepStale_focus (s : State) (l : List (Nat × Nat)) : (s.keepStale l).focus = s.focus := rfl
@[simp] theorem keepStale_inputs (s : State) (l : List (Nat × Nat)) : (s.keepStale l).inputs = s.inputs := rfl
@[simp] theorem keepStale_timers (s : State) (l : List (Nat × Nat)) : (s.keepStale l).timers = s.timers := rfl
@[simp] theorem keepStale_stalled (s : State) (l : List (Nat × Nat)) : (s.keepStale l).stalled = s.stalled := rfl
@[simp] theorem keepStale_colls (s : State) (l : List (Nat × Nat)) : (s.keepStale l).colls = s.colls := rfl
@[simp] theorem keepStale_tickets (s : State) (l : List (Nat × Nat)) : (s.keepStale l).tickets = s.tickets := rfl
@[simp] theorem keepStale_nextId (s : State) (l : List (Nat × Nat)) : (s.keepStale l).nextId = s.nextId := rfl

@[simp] theorem ticket_powered (s : State) : s.ticket.1.powered = s.powered := rfl
@[simp] theorem ticket_cycle (s : State) : s.ticket.1.cycle = s.cycle := rfl
@[simp] theorem ticket_time (s : State) : s.ticket.1.time = s.time := rfl
@[simp] theorem ticket_clk (s : State) : s.ticket.1.clk = s.clk := rfl
@[simp] theorem ticket_tier (s : State) : s.ticket.1.tier = s.tier := rfl
@[simp] theorem ticket_cxl (s : State) : s.ticket.1.cxl = s.cxl := rfl
@[simp] theorem ticket_mem (s : State) : s.ticket.1.mem = s.mem := rfl
@[simp] theorem ticket_uerr (s : State) : s.ticket.1.uerr = s.uerr := rfl
@[simp] theorem ticket_atomics (s : State) : s.ticket.1.atomics = s.atomics := rfl
@[simp] theorem ticket_dies (s : State) : s.ticket.1.dies = s.dies := rfl
@[simp] theorem ticket_regions (s : State) : s.ticket.1.regions = s.regions := rfl
@[simp] theorem ticket_graphs (s : State) : s.ticket.1.graphs = s.graphs := rfl
@[simp] theorem ticket_jobs (s : State) : s.ticket.1.jobs = s.jobs := rfl
@[simp] theorem ticket_sup (s : State) : s.ticket.1.sup = s.sup := rfl
@[simp] theorem ticket_nvm (s : State) : s.ticket.1.nvm = s.nvm := rfl
@[simp] theorem ticket_power (s : State) : s.ticket.1.power = s.power := rfl
@[simp] theorem ticket_work (s : State) : s.ticket.1.work = s.work := rfl
@[simp] theorem ticket_focus (s : State) : s.ticket.1.focus = s.focus := rfl
@[simp] theorem ticket_inputs (s : State) : s.ticket.1.inputs = s.inputs := rfl
@[simp] theorem ticket_timers (s : State) : s.ticket.1.timers = s.timers := rfl
@[simp] theorem ticket_stalled (s : State) : s.ticket.1.stalled = s.stalled := rfl
@[simp] theorem ticket_colls (s : State) : s.ticket.1.colls = s.colls := rfl
@[simp] theorem ticket_tickets (s : State) : s.ticket.1.tickets = s.tickets + 1 := rfl
@[simp] theorem ticket_nextId (s : State) : s.ticket.1.nextId = s.nextId := rfl
@[simp] theorem ticket_value (s : State) : s.ticket.2 = s.tickets := rfl

@[simp] theorem fresh_powered (s : State) : s.fresh.1.powered = s.powered := rfl
@[simp] theorem fresh_cycle (s : State) : s.fresh.1.cycle = s.cycle := rfl
@[simp] theorem fresh_time (s : State) : s.fresh.1.time = s.time := rfl
@[simp] theorem fresh_clk (s : State) : s.fresh.1.clk = s.clk := rfl
@[simp] theorem fresh_tier (s : State) : s.fresh.1.tier = s.tier := rfl
@[simp] theorem fresh_cxl (s : State) : s.fresh.1.cxl = s.cxl := rfl
@[simp] theorem fresh_mem (s : State) : s.fresh.1.mem = s.mem := rfl
@[simp] theorem fresh_uerr (s : State) : s.fresh.1.uerr = s.uerr := rfl
@[simp] theorem fresh_atomics (s : State) : s.fresh.1.atomics = s.atomics := rfl
@[simp] theorem fresh_dies (s : State) : s.fresh.1.dies = s.dies := rfl
@[simp] theorem fresh_regions (s : State) : s.fresh.1.regions = s.regions := rfl
@[simp] theorem fresh_graphs (s : State) : s.fresh.1.graphs = s.graphs := rfl
@[simp] theorem fresh_jobs (s : State) : s.fresh.1.jobs = s.jobs := rfl
@[simp] theorem fresh_sup (s : State) : s.fresh.1.sup = s.sup := rfl
@[simp] theorem fresh_nvm (s : State) : s.fresh.1.nvm = s.nvm := rfl
@[simp] theorem fresh_power (s : State) : s.fresh.1.power = s.power := rfl
@[simp] theorem fresh_work (s : State) : s.fresh.1.work = s.work := rfl
@[simp] theorem fresh_focus (s : State) : s.fresh.1.focus = s.focus := rfl
@[simp] theorem fresh_inputs (s : State) : s.fresh.1.inputs = s.inputs := rfl
@[simp] theorem fresh_timers (s : State) : s.fresh.1.timers = s.timers := rfl
@[simp] theorem fresh_stalled (s : State) : s.fresh.1.stalled = s.stalled := rfl
@[simp] theorem fresh_colls (s : State) : s.fresh.1.colls = s.colls := rfl
@[simp] theorem fresh_tickets (s : State) : s.fresh.1.tickets = s.tickets := rfl
@[simp] theorem fresh_nextId (s : State) : s.fresh.1.nextId = s.nextId + 1 := rfl
@[simp] theorem fresh_value (s : State) : s.fresh.2 = s.nextId := rfl

/-! ### The changed field -/

@[simp] theorem updReg_regions (s : State) (r : Nat) (f : Region → Region) :
    (s.updReg r f).regions = s.regions.modify r f := rfl
@[simp] theorem updSeq_regions (s : State) (r : Nat) (f : Seq → Seq) :
    (s.updSeq r f).regions = s.regions.modify r (fun x => { x with seq := f x.seq }) := rfl
@[simp] theorem setBlock_regions (s : State) (b : Block) :
    (s.setBlock b).regions
      = s.regions.modify s.focus.region (fun x => { x with seq := { x.seq with block := some b } }) := rfl
@[simp] theorem updGraph_graphs (s : State) (g : Nat) (f : Graph → Graph) :
    (s.updGraph g f).graphs = s.graphs.modify g f := rfl
@[simp] theorem updJob_jobs (s : State) (j : Nat) (f : Job → Job) : (s.updJob j f).jobs = s.jobs.modify j f := rfl
@[simp] theorem updDie_dies (s : State) (d : Nat) (f : Die → Die) :
    (s.updDie d f).dies = s.dies.put d (f (s.die d)) := rfl
@[simp] theorem updSup_sup (s : State) (f : Sup → Sup) : (s.updSup f).sup = f s.sup := rfl
@[simp] theorem note_sup (s : State) (e : DerrickAct) : (s.note e).sup = { s.sup with journal := [e] } := rfl
@[simp] theorem emit_sup (s : State) (m : OutMsg) : (s.emit m).sup = { s.sup with outbox := s.sup.outbox ++ [m] } := rfl
@[simp] theorem after_timers (s : State) (n : Nat) (e : Event) :
    (s.after n e).timers = s.timers ++ [(s.cycle + n, e)] := rfl
@[simp] theorem now_work (s : State) (e : Event) : (s.now e).work = .ev e :: s.work := rfl
@[simp] theorem storeBytes_mem (s : State) (a : Nat) (bs : List Byte) :
    (s.storeBytes a bs).mem = s.mem.writeBytes a bs := rfl

/-! ### Records by key after an update -/

theorem reg_of_find {s : State} {r : Nat} {x : Region} (h : s.regions.find? r = some x) : s.reg r = x := by
  simp [State.reg, FMap.getD, h]

theorem graph_of_find {s : State} {g : Nat} {x : Graph} (h : s.graphs.find? g = some x) : s.graph g = x := by
  simp [State.graph, FMap.getD, h]

theorem job_of_find {s : State} {j : Nat} {x : Job} (h : s.jobs.find? j = some x) : s.job j = x := by
  simp [State.job, FMap.getD, h]

theorem reg_updReg {s : State} {r : Nat} {x : Region} (h : s.regions.find? r = some x) (f : Region → Region) :
    (s.updReg r f).reg r = f x := by
  simp [State.reg, FMap.getD, h]

theorem reg_updReg_ne (s : State) {r q : Nat} (f : Region → Region) (h : q ≠ r) : (s.updReg r f).reg q = s.reg q := by
  simp [State.reg, getD_modify_ne _ _ _ h]

theorem updReg_of_none {s : State} {r : Nat} (h : s.regions.find? r = none) (f : Region → Region) : s.updReg r f = s := by
  simp [State.updReg, modify_of_none h]

theorem graph_updGraph {s : State} {g : Nat} {x : Graph} (h : s.graphs.find? g = some x) (f : Graph → Graph) :
    (s.updGraph g f).graph g = f x := by
  simp [State.graph, FMap.getD, h]

theorem graph_updGraph_ne (s : State) {g q : Nat} (f : Graph → Graph) (h : q ≠ g) :
    (s.updGraph g f).graph q = s.graph q := by
  simp [State.graph, getD_modify_ne _ _ _ h]

theorem job_updJob {s : State} {j : Nat} {x : Job} (h : s.jobs.find? j = some x) (f : Job → Job) :
    (s.updJob j f).job j = f x := by
  simp [State.job, FMap.getD, h]

theorem job_updJob_ne (s : State) {j q : Nat} (f : Job → Job) (h : q ≠ j) : (s.updJob j f).job q = s.job q := by
  simp [State.job, getD_modify_ne _ _ _ h]

@[simp] theorem die_updDie (s : State) (d : Nat) (f : Die → Die) : (s.updDie d f).die d = f (s.die d) := by
  simp [State.die]

theorem die_updDie_ne (s : State) {d q : Nat} (f : Die → Die) (h : q ≠ d) : (s.updDie d f).die q = s.die q := by
  simp [State.die, getD_put_ne _ _ _ h]

/-! ### Benches and elements of a region -/

theorem bench_updBench {x : Region} {b : Nat} {y : Bench} (h : x.benches.find? b = some y) (f : Bench → Bench) :
    (x.updBench b f).bench b = f y := by
  simp [Region.bench, Region.updBench, FMap.getD, h]

theorem bench_updBench_ne (x : Region) {b c : Nat} (f : Bench → Bench) (h : c ≠ b) :
    (x.updBench b f).bench c = x.bench c := by
  simp [Region.bench, Region.updBench, getD_modify_ne _ _ _ h]

theorem elem_updElem {y : Bench} {e : Nat} {z : Element} (h : y.elems.find? e = some z) (f : Element → Element) :
    (y.updElem e f).elem e = f z := by
  simp [Bench.elem, Bench.updElem, FMap.getD, h]

theorem elem_updElem_ne (y : Bench) {e c : Nat} (f : Element → Element) (h : c ≠ e) :
    (y.updElem e f).elem c = y.elem c := by
  simp [Bench.elem, Bench.updElem, getD_modify_ne _ _ _ h]

end Sys2Proof.Laws
end

