-- ==== Sys2Proof/Laws/Elem.lean ====
section
/-! SUPPORT. Everything an element operation can do: it adds one issue to the cycle of its region. -/

namespace Sys2Proof.Laws

open Sys2Proof Sys2Proof.Machine

/-- Effects entered join the issues of the region in focus, behind those that stand there. -/
theorem enter_reg {s : State} {x : Region} (h : s.regions.find? s.focus.region = some x) (es : List Eff) :
    (s.enter es).reg s.focus.region
      = { x with fab := { x.fab with issues := x.fab.issues ++ [⟨s.focus.bench, s.focus.elem, s.focus.slot, es⟩] } } :=
  reg_updReg h _

theorem enter_reg_ne (s : State) {q : Nat} (es : List Eff) (h : q ≠ s.focus.region) :
    (s.enter es).reg q = s.reg q :=
  reg_updReg_ne s _ h

@[simp] theorem enter_mem (s : State) (es : List Eff) : (s.enter es).mem = s.mem := rfl
@[simp] theorem enter_graphs (s : State) (es : List Eff) : (s.enter es).graphs = s.graphs := rfl
@[simp] theorem enter_dies (s : State) (es : List Eff) : (s.enter es).dies = s.dies := rfl
@[simp] theorem enter_jobs (s : State) (es : List Eff) : (s.enter es).jobs = s.jobs := rfl
@[simp] theorem enter_sup (s : State) (es : List Eff) : (s.enter es).sup = s.sup := rfl
@[simp] theorem enter_work (s : State) (es : List Eff) : (s.enter es).work = s.work := rfl

/-- An element operation with no element in focus changes nothing; else it enters the effects of its view. -/
theorem elemOp_cases (s : State) (i : Instr) (f : View → List Eff) :
    (s.view i = none ∧ s.elemOp i f = s) ∨ (∃ v, s.view i = some v ∧ s.elemOp i f = s.enter (f v)) := by
  unfold State.elemOp
  cases h : s.view i with
  | none => exact .inl ⟨rfl, rfl⟩
  | some v => exact .inr ⟨v, rfl, rfl⟩

theorem elemOp_of_view {s : State} {i : Instr} {v : View} (h : s.view i = some v) (f : View → List Eff) :
    s.elemOp i f = s.enter (f v) := by
  simp [State.elemOp, h]

/-- No element operation changes memory, a graph, a die or a job by itself (R99). -/
theorem elemOp_frame (s : State) (i : Instr) (f : View → List Eff) :
    (s.elemOp i f).mem = s.mem ∧ (s.elemOp i f).graphs = s.graphs ∧ (s.elemOp i f).dies = s.dies
      ∧ (s.elemOp i f).jobs = s.jobs ∧ (s.elemOp i f).work = s.work := by
  rcases elemOp_cases s i f with ⟨-, h⟩ | ⟨v, -, h⟩ <;> simp [h]

end Sys2Proof.Laws
end

