-- ==== Sys2Proof/Laws/Memory.lean ====
section
/-! SUPPORT. Reads after writes, and that every memory operation keeps the canonical form. -/

namespace Sys2Proof.Laws

open Sys2Proof.Machine

/-! ### One byte -/

@[simp] theorem read_write_self (m : Memory) (a : Nat) (v : Byte) : (m.write a v).read a = v := by
  simp [Memory.read, Memory.write]

theorem read_write_ne (m : Memory) {a b : Nat} (v : Byte) (h : b ≠ a) : (m.write a v).read b = m.read b := by
  simp [Memory.read, Memory.write, getD_set_ne m memDefault v h]

@[simp] theorem read_empty (a : Nat) : Memory.read [] a = 0#8 := rfl

/-! ### Runs of bytes -/

@[simp] theorem length_readBytes (m : Memory) (a n : Nat) : (m.readBytes a n).length = n := by
  induction n generalizing a with
  | zero => rfl
  | succ n ih => simp [Memory.readBytes, ih]

theorem read_writeBytes_outside (m : Memory) {a b : Nat} (bs : List Byte) (h : b < a ∨ a + bs.length ≤ b) :
    (m.writeBytes a bs).read b = m.read b := by
  induction bs generalizing m a with
  | nil => rfl
  | cons x bs ih =>
    simp only [List.length_cons] at h
    rw [Memory.writeBytes, ih _ (by omega), read_write_ne _ _ (by omega)]

theorem readBytes_congr {m n : Memory} {a k : Nat} (h : ∀ i, a ≤ i → i < a + k → m.read i = n.read i) :
    m.readBytes a k = n.readBytes a k := by
  induction k generalizing a with
  | zero => rfl
  | succ k ih =>
    simp only [Memory.readBytes]
    rw [h a (by omega) (by omega), ih (fun i h1 h2 => h i (by omega) (by omega))]

theorem readBytes_writeBytes_self (m : Memory) (a : Nat) (bs : List Byte) :
    (m.writeBytes a bs).readBytes a bs.length = bs := by
  induction bs generalizing m a with
  | nil => rfl
  | cons x bs ih =>
    simp only [List.length_cons, Memory.readBytes, Memory.writeBytes, ih]
    rw [read_writeBytes_outside _ _ (.inl (by omega)), read_write_self]

theorem readBytes_writeBytes_outside (m : Memory) {a b n : Nat} (bs : List Byte)
    (h : b + n ≤ a ∨ a + bs.length ≤ b) : (m.writeBytes a bs).readBytes b n = m.readBytes b n :=
  readBytes_congr (fun i _ _ => read_writeBytes_outside m bs (by omega))

/-! ### The canonical form -/

theorem wf_iff (m : Memory) :
    m.wf = true ↔ FMap.sorted (α := Byte) m = true ∧ FMap.noDefault memDefault m = true := by
  simp [Memory.wf]

@[simp] theorem wf_empty : Memory.wf [] = true := rfl

/-- The memory of reset lists nothing. -/
theorem wf_reset : State.reset.mem.wf = true := rfl

theorem wf_write {m : Memory} (h : m.wf = true) (a : Nat) (v : Byte) : (m.write a v).wf = true := by
  rw [wf_iff] at *
  exact ⟨sorted_set h.1 memDefault a v, noDefault_set h.2 a v⟩

theorem wf_writeBytes {m : Memory} (h : m.wf = true) (a : Nat) (bs : List Byte) : (m.writeBytes a bs).wf = true := by
  induction bs generalizing m a with
  | nil => exact h
  | cons x bs ih => exact ih (wf_write h a x) (a + 1)

theorem wf_filter {m : Memory} (h : m.wf = true) (p : Host.Cell → Bool) : Memory.wf (m.filter p) = true := by
  rw [wf_iff, noDefault_iff] at *
  exact ⟨sorted_filter h.1 p, fun e he => h.2 e (List.mem_filter.1 he).1⟩

/-- A fold of operations that each keep the form keeps it. -/
theorem wf_foldl {β : Type} (f : Memory → β → Memory) (hf : ∀ m x, Memory.wf m = true → (f m x).wf = true)
    (l : List β) {m : Memory} (h : m.wf = true) : (l.foldl f m).wf = true := by
  induction l generalizing m with
  | nil => exact h
  | cons x l ih => exact ih (hf m x h)

theorem wf_writeSlot {m : Memory} (h : m.wf = true) (dir k : Nat) (v : VSlot) : (writeSlot m dir k v).wf = true :=
  wf_writeBytes h _ _

theorem wf_versTake {m : Memory} (h : m.wf = true) (v : VLine) (k w : Nat) (n : BitVec 24) :
    (versTake m v k w n).wf = true :=
  wf_writeSlot (wf_writeBytes h _ _) _ _ _

theorem wf_versReclaim {m : Memory} (h : m.wf = true) (dir : Nat) (n : BitVec 24) : (versReclaim m dir n).wf = true := by
  unfold versReclaim
  dsimp only
  split
  · exact h
  · exact wf_foldl _ (fun m x hm => wf_writeSlot hm _ _ _) _ h

theorem wf_versEnd {m : Memory} (h : m.wf = true) (dir w : Nat) (n : BitVec 24) (commit : Bool) :
    (versEnd m dir w n commit).wf = true := by
  unfold versEnd
  refine wf_foldl _ (fun m x hm => ?_) _ h
  split
  · exact wf_writeSlot hm _ _ _
  · exact hm

/-! ### The same of the operations on a state that write memory -/

theorem wf_storeBytes {s : State} (h : s.mem.wf = true) (pa : Nat) (bs : List Byte) :
    (s.storeBytes pa bs).mem.wf = true :=
  wf_writeBytes h pa bs

theorem wf_versRound {s : State} (h : s.mem.wf = true) (r : Nat) (n : BitVec 24) (commit : Bool) :
    (s.versRound r n commit).mem.wf = true :=
  wf_foldl _ (fun _ _ hm => wf_versEnd hm _ _ _ _) _ h

theorem wf_freeSlots {s : State} (h : s.mem.wf = true) (slots : List (Nat × Nat)) :
    (s.freeSlots slots).mem.wf = true :=
  wf_foldl _ (fun _ _ hm => wf_writeSlot hm _ _ _) _ h

theorem wf_setLeaves {s : State} (h : s.mem.wf = true) (ls : List LeafAt) (frame : LeafAt → Nat) (mig res : Bool) :
    (s.setLeaves ls frame mig res).mem.wf = true :=
  wf_foldl _ (fun _ _ hm => wf_writeBytes hm _ _) _ (show s.mem.wf = true from h)

theorem wf_copyPage {s : State} (h : s.mem.wf = true) (old new n : Nat) : (s.copyPage old new n).mem.wf = true :=
  wf_foldl _ (fun _ _ hm => wf_write hm _ _) _ (wf_filter h _)

theorem wf_writeParts {s : State} (h : s.mem.wf = true) (parts : List Part) (bs : List Byte) :
    (s.writeParts parts bs).mem.wf = true := by
  unfold State.writeParts
  suffices ∀ (acc : State × List Byte), acc.1.mem.wf = true →
      (parts.foldl (fun (acc : State × List Byte) p =>
        (acc.1.storeBytes p.leaf.pa (acc.2.take p.len), acc.2.drop p.len)) acc).1.mem.wf = true from this (s, bs) h
  induction parts with
  | nil => exact fun _ h => h
  | cons p ps ih => exact fun acc h => ih _ (wf_storeBytes h _ _)

/-- What a plain store does to memory: its bytes stand at its address, and every other byte as before. -/
theorem storeBytes_spec (s : State) (pa : Nat) (bs : List Byte) :
    (s.storeBytes pa bs).mem.readBytes pa bs.length = bs
      ∧ ∀ a, a < pa ∨ pa + bs.length ≤ a → (s.storeBytes pa bs).mem.read a = s.mem.read a :=
  ⟨readBytes_writeBytes_self s.mem pa bs, fun _ h => read_writeBytes_outside s.mem bs h⟩

end Sys2Proof.Laws
end

