-- ==== Sys2Proof/Laws/Seq.lean ====
section
/-! SUPPORT. Everything an S word in turn can do, and what the registers of a block read as after a write. -/

namespace Sys2Proof.Laws

open Sys2Proof Sys2Proof.Machine

/-! ### A word in turn (R94, R96, R120, R137) -/

/-- A word that no reason stands against and that reads no poison. -/
def MayFire (s : State) (v : SeqView) (i : Instr) : Prop :=
  s.seqView = some v ∧ v.reason i = none ∧ v.poisoned i = false

/-- The block of a word that has to wait, with the time its wait began. -/
def waiting (s : State) (b : Block) : Block := b.wait s.time s.cycle

/-- A word in turn always answers a next state. -/
theorem seqOp_completes (s : State) (i : Instr) (f : SeqView → Fired) : ∃ t, s.seqOp i f = .next t := by
  unfold State.seqOp
  split
  · exact ⟨_, rfl⟩
  · split
    · exact ⟨_, rfl⟩
    · split
      · exact ⟨_, rfl⟩
      · split <;> exact ⟨_, rfl⟩

/-- The five ways a word in turn ends: there is no block; a reason stands against it; it reads poison; it fires; it waits. -/
theorem seqOp_cases {s t : State} {i : Instr} {f : SeqView → Fired} (h : s.seqOp i f = .next t) :
    (s.seqView = none ∧ t = s)
    ∨ (∃ v k, s.seqView = some v ∧ v.reason i = some k ∧ t = s.setBlock ((v.blk.illegal k).poison i).advance)
    ∨ (∃ v, s.seqView = some v ∧ v.reason i = none ∧ v.poisoned i = true ∧ t = s.setBlock (v.blk.poison i).advance)
    ∨ (∃ v s' b, MayFire s v i ∧ f v = some (s', b) ∧ t = s'.setBlock b.advance)
    ∨ (∃ v, MayFire s v i ∧ f v = none ∧ t = s.setBlock (waiting s v.blk)) := by
  unfold State.seqOp at h
  split at h
  · exact .inl ⟨‹_›, by injection h with h; exact h.symm⟩
  · rename_i v hv
    split at h
    · exact .inr (.inl ⟨v, _, hv, ‹_›, by injection h with h; exact h.symm⟩)
    · rename_i hr
      split at h
      · exact .inr (.inr (.inl ⟨v, hv, hr, ‹_›, by injection h with h; exact h.symm⟩))
      · rename_i hp
        have hm : MayFire s v i := ⟨hv, hr, by simpa using hp⟩
        split at h
        · exact .inr (.inr (.inr (.inl ⟨v, _, _, hm, ‹_›, by injection h with h; exact h.symm⟩)))
        · exact .inr (.inr (.inr (.inr ⟨v, hm, ‹_›, by injection h with h; exact h.symm⟩)))

/-- A word that may fire and does. -/
theorem seqOp_fires {s s' : State} {v : SeqView} {i : Instr} {f : SeqView → Fired} {b : Block}
    (h : MayFire s v i) (hf : f v = some (s', b)) : s.seqOp i f = .next (s'.setBlock b.advance) := by
  obtain ⟨h1, h2, h3⟩ := h
  simp [State.seqOp, h1, h2, h3, hf]

/-- A word that may fire and has to wait. -/
theorem seqOp_waits {s : State} {v : SeqView} {i : Instr} {f : SeqView → Fired}
    (h : MayFire s v i) (hf : f v = none) : s.seqOp i f = .next (s.setBlock (waiting s v.blk)) := by
  obtain ⟨h1, h2, h3⟩ := h
  simp [State.seqOp, h1, h2, h3, hf, waiting]

/-- A word that a reason stands against. -/
theorem seqOp_refused {s : State} {v : SeqView} {i : Instr} {f : SeqView → Fired} {k : Nat}
    (h : s.seqView = some v) (hr : v.reason i = some k) :
    s.seqOp i f = .next (s.setBlock ((v.blk.illegal k).poison i).advance) := by
  simp [State.seqOp, h, hr]

/-- A word that reads poison. -/
theorem seqOp_poisoned {s : State} {v : SeqView} {i : Instr} {f : SeqView → Fired}
    (h : s.seqView = some v) (hr : v.reason i = none) (hp : v.poisoned i = true) :
    s.seqOp i f = .next (s.setBlock (v.blk.poison i).advance) := by
  simp [State.seqOp, h, hr, hp]

theorem seqFn_fires {s : State} {v : SeqView} {i : Instr} (d : GReg) (f : SeqView → DWord) (h : MayFire s v i) :
    s.seqFn i d f = .next (s.setBlock (v.blk.put d (f v)).advance) :=
  seqOp_fires h rfl

theorem seqPred_fires {s : State} {v : SeqView} {i : Instr} (p : PReg) (f : SeqView → Bool) (h : MayFire s v i) :
    s.seqPred i p f = .next (s.setBlock (v.blk.setP p (f v, false)).advance) :=
  seqOp_fires h rfl

theorem seqAct_fires {s : State} {v : SeqView} {i : Instr} (f : SeqView → Act) (h : MayFire s v i) :
    s.seqAct i f = .next (s.setBlock (v.blk.act (f v)).advance) :=
  seqOp_fires h rfl

/-- A word whose firing leaves the state itself alone changes nothing but the block in flight. -/
theorem seqOp_block_only {s t : State} {i : Instr} {f : SeqView → Fired}
    (hf : ∀ v s' b, f v = some (s', b) → s' = s) (h : s.seqOp i f = .next t) : t = s ∨ ∃ b, t = s.setBlock b := by
  rcases seqOp_cases h with ⟨-, rfl⟩ | ⟨v, k, -, -, rfl⟩ | ⟨v, -, -, -, rfl⟩ | ⟨v, s', b, -, he, rfl⟩ | ⟨v, -, -, rfl⟩
  · exact .inl rfl
  · exact .inr ⟨_, rfl⟩
  · exact .inr ⟨_, rfl⟩
  · exact .inr ⟨_, by rw [hf v s' b he]⟩
  · exact .inr ⟨_, rfl⟩

/-! ### Registers of a block in flight (R121, R136) -/

@[simp] theorem setG_zero (b : Block) (x : SVal) : b.setG 0 x = b := by simp [Block.setG]
@[simp] theorem setP_zero (b : Block) (x : Bool × Bool) : b.setP 0 x = b := by simp [Block.setP]
@[simp] theorem put_zero (b : Block) (x : DWord) : b.put 0 x = b := by simp [Block.put]

@[simp] theorem setG_gw {d : GReg} (h : d ≠ 0) (b : Block) (x : SVal) : (b.setG d x).gw = b.gw.put d.val x := by
  simp [Block.setG, h]

@[simp] theorem setG_pw (b : Block) (d : GReg) (x : SVal) : (b.setG d x).pw = b.pw := by
  unfold Block.setG; split <;> rfl
@[simp] theorem setG_idx (b : Block) (d : GReg) (x : SVal) : (b.setG d x).idx = b.idx := by
  unfold Block.setG; split <;> rfl
@[simp] theorem setG_acts (b : Block) (d : GReg) (x : SVal) : (b.setG d x).acts = b.acts := by
  unfold Block.setG; split <;> rfl
@[simp] theorem setG_exc (b : Block) (d : GReg) (x : SVal) : (b.setG d x).exc = b.exc := by
  unfold Block.setG; split <;> rfl
@[simp] theorem setG_csrs (b : Block) (d : GReg) (x : SVal) : (b.setG d x).csrs = b.csrs := by
  unfold Block.setG; split <;> rfl
@[simp] theorem setP_gw (b : Block) (p : PReg) (x : Bool × Bool) : (b.setP p x).gw = b.gw := by
  unfold Block.setP; split <;> rfl
@[simp] theorem setP_idx (b : Block) (p : PReg) (x : Bool × Bool) : (b.setP p x).idx = b.idx := by
  unfold Block.setP; split <;> rfl
@[simp] theorem setP_acts (b : Block) (p : PReg) (x : Bool × Bool) : (b.setP p x).acts = b.acts := by
  unfold Block.setP; split <;> rfl
@[simp] theorem setP_exc (b : Block) (p : PReg) (x : Bool × Bool) : (b.setP p x).exc = b.exc := by
  unfold Block.setP; split <;> rfl
@[simp] theorem advance_idx (b : Block) : b.advance.idx = b.idx + 1 := rfl
@[simp] theorem advance_gw (b : Block) : b.advance.gw = b.gw := rfl
@[simp] theorem advance_pw (b : Block) : b.advance.pw = b.pw := rfl
@[simp] theorem advance_acts (b : Block) : b.advance.acts = b.acts := rfl
@[simp] theorem advance_exc (b : Block) : b.advance.exc = b.exc := rfl
@[simp] theorem advance_csrs (b : Block) : b.advance.csrs = b.csrs := rfl
@[simp] theorem act_acts (b : Block) (a : Act) : (b.act a).acts = insertAct b.idx a b.acts := rfl

/-- An act behind all others stands last. -/
theorem insertAct_last {p : Nat} {l : List (Nat × Act)} (h : ∀ x ∈ l, x.1 ≤ p) (a : Act) : insertAct p a l = l ++ [(p, a)] := by
  induction l with
  | nil => rfl
  | cons x l ih =>
    have hx : ¬ p < x.1 := by have := h x (by simp); omega
    simp only [insertAct, hx, if_false, List.cons_append]
    rw [ih (fun y hy => h y (by simp [hy]))]

@[simp] theorem act_gw (b : Block) (a : Act) : (b.act a).gw = b.gw := rfl
@[simp] theorem act_exc (b : Block) (a : Act) : (b.act a).exc = b.exc := rfl

/-- A cause of a word behind the one that has raised changes nothing: the lowest in block order stands (R96). -/
theorem raise_of_raised {b : Block} {e : Nat × TrapRec} (h : b.exc = some e) (hp : e.1 ≤ b.idx) (c : Nat) (x y z w : DWord) :
    b.raise c x y z w = b := by
  obtain ⟨⟨⟩⟩ := b
  simp_all [Block.raise, Nat.not_lt.2 hp]

end Sys2Proof.Laws
end

