-- ==== Sys2Proof/Tests/Slice0.lean ====
section
/-! SUPPORT. The model's own tests: words laid out from the encodings of the manual, an ill-formed term for each check of
WellFormed, and for each statement with hypotheses a state and operands that meet them. -/

namespace Sys2Proof.Tests

open Sys2Proof.Machine Sys2Proof.Claims

set_option Elab.async false

/-! ### Words of the manual -/

/-- Words laid out by hand from the fields of R119. -/
theorem test_decode_header :
    ([0x03FFF000#32, 0x00000800#32].map (fun w => (decodeS w).toOption))
      = ([.blk 127 3 31 false, .blk 0 0 0 true] : List Instr).map some := by decide +kernel

/-- Words laid out by hand from the fields of R114. -/
theorem test_decode_alu :
    ([0x07F06800#32, 0x07F0A801#32, 0x07F0E802#32, 0x07F12803#32, 0x07F16804#32, 0x07F1A805#32, 0x07F1E806#32,
      0x07F22807#32, 0x07F26808#32, 0x07F2A809#32, 0x07F2E80A#32, 0x07F3280B#32, 0x07F3680C#32, 0x07F3A80D#32,
      0x07F3E80E#32, 0x045FC00F#32, 0x045FC010#32, 0x045FC011#32, 0x04108312#32, 0x04108313#32, 0x04108314#32,
      0x04108315#32, 0x04108316#32, 0x04108317#32, 0x04108318#32, 0x04108327#32,
      0x04108333#32].map (fun w => (decodeS w).toOption))
      = ([.add 63 1 40, .sub 63 2 40, .and 63 3 40, .or 63 4 40, .xor 63 5 40, .andn 63 6 40, .shl 63 7 40, .shr 63 8 40,
      .sra 63 9 40, .fshl 63 10 40, .fshr 63 11 40, .min 63 12 40, .max 63 13 40, .minn 63 14 40, .maxn 63 15 40,
      .clz 5 63, .ctz 5 63, .popc 5 63, .mul 1 2 3, .mulh 1 2 3, .mulhn 1 2 3, .div 1 2 3, .divn 1 2 3, .rem 1 2 3,
      .remn 1 2 3, .sel 1 2 3 7, .addx 1 2 3 3] : List Instr).map some := by decide +kernel

/-- Words laid out by hand from the fields of R112, R115. -/
theorem test_decode_imm :
    ([0x08987FFF#32, 0x0C987FFF#32, 0x10987FFF#32, 0x14987FFF#32, 0x1898403F#32, 0x1898503F#32, 0x1898603F#32,
      0x268ABCDE#32, 0x2A812345#32].map (fun w => (decodeS w).toOption))
      = ([.addi 9 33 0x3FFF#14, .andi 9 33 0x3FFF#14, .ori 9 33 0x3FFF#14, .xori 9 33 0x3FFF#14, .shli 9 33 63,
      .shri 9 33 63, .srai 9 33 63, .limm 40 0xABCDE#20, .limh 40 0x12345#20] : List Instr).map some := by decide +kernel

/-- Words laid out by hand from the fields of R115. -/
theorem test_decode_compare :
    ([0x1C72B200#32, 0x2052A001#32, 0x1C72B201#32, 0x20D2A001#32, 0x1C72B202#32, 0x2152A001#32, 0x1C72B203#32,
      0x21D2A001#32, 0x1C72B204#32, 0x2252A001#32, 0x1C72B205#32, 0x22D2A001#32].map (fun w => (decodeS w).toOption))
      = ([.cmpeq 7 10 50, .cmpeqImm 5 10 0x2001#14, .cmpne 7 10 50, .cmpneImm 5 10 0x2001#14, .cmplt 7 10 50,
      .cmpltImm 5 10 0x2001#14, .cmpltn 7 10 50, .cmpltnImm 5 10 0x2001#14, .cmple 7 10 50, .cmpleImm 5 10 0x2001#14,
      .cmplen 7 10 50, .cmplenImm 5 10 0x2001#14] : List Instr).map some := by decide +kernel

/-- Words laid out by hand from the fields of R115. -/
theorem test_decode_predicate :
    ([0x2C614400#32, 0x2C614401#32, 0x2C614402#32, 0x2C614003#32, 0x2C600104#32,
      0x2C600004#32].map (fun w => (decodeS w).toOption))
      = ([.pand 6 5 4, .por 6 5 4, .pxor 6 5 4, .pnot 6 5, .pset 6 true,
      .pset 6 false] : List Instr).map some := by decide +kernel

/-- Words laid out by hand from the fields of R111, R112. -/
theorem test_decode_exit :
    ([0x43FFFFFF#32, 0x449FC000#32, 0x4827FFFF#32, 0x4ECFC000#32].map (fun w => (decodeS w).toOption))
      = ([.exit true 7 3 0xFFFFF#20, .exitr false 2 1 63, .call false 0 2 0x7FFFF#20,
      .ret true 3 0 63] : List Instr).map some := by decide +kernel

/-- Words laid out by hand from the fields of R112, R115. -/
theorem test_decode_memory :
    ([0x6010B7FF#32, 0x60109805#32, 0x64108005#32, 0x68108306#32, 0x6C10B007#32,
      0x70008300#32].map (fun w => (decodeS w).toOption))
      = ([.ld 1 2 .d 0x7FF#11, .ldSigned 1 2 .h 5#11, .st 1 2 .b 5#11, .ldver 1 2 3 true .w, .stver 1 2 .d 7#11,
      .reclaim 2 3] : List Instr).map some := by decide +kernel

/-- Words laid out by hand from the fields of R116. -/
theorem test_decode_atomic :
    ([0x7410830D#32, 0x7410831D#32, 0x7410832D#32, 0x7410833D#32, 0x7410834D#32, 0x7410835D#32, 0x7410836D#32,
      0x7410837D#32, 0x7410838D#32, 0x74108396#32, 0x78000010#32, 0x7800001C#32].map (fun w => (decodeS w).toOption))
      = ([.aadd 1 2 3 true .package true, .aadds 1 2 3 true .package true, .amin 1 2 3 true .package true,
      .amax 1 2 3 true .package true, .aand 1 2 3 true .package true, .aor 1 2 3 true .package true,
      .axor 1 2 3 true .package true, .axch 1 2 3 true .package true, .acas 1 2 3 true .package true,
      .afadd 1 2 3 .system false, .fence .acqRel .element,
      .fence .seqCst .system] : List Instr).map some := by decide +kernel

/-- Words laid out by hand from the fields of R117. -/
theorem test_decode_engine :
    ([0x80108301#32, 0x80108302#32, 0x80108303#32, 0x80108304#32, 0x80108305#32, 0x80108306#32, 0x80108307#32,
      0x80108308#32, 0x80108009#32].map (fun w => (decodeS w).toOption))
      = ([.scopy 1 2 3, .sload 1 2 3, .sstore 1 2 3, .sgath 1 2 3, .sscat 1 2 3, .sprobe 1 2 3, .speer 1 2 3, .scoll 1 2 3,
      .squery 1 2] : List Instr).map some := by decide +kernel

/-- Words laid out by hand from the fields of R117. -/
theorem test_decode_fabric :
    ([0x90008301#32, 0x90000002#32, 0x90008003#32, 0x90000004#32, 0x90000005#32, 0x90000006#32, 0x90100307#32,
      0x90108008#32, 0x90008309#32, 0x9010800A#32, 0xA0008001#32, 0xA0008302#32, 0xA0108003#32,
      0xA0008004#32].map (fun w => (decodeS w).toOption))
      = ([.fload 2 3, .fswitch, .fshrink 2, .fgrow, .frun, .fstop, .fdrain 1 3, .fstat 1 2, .finj 2 3, .fext 1 2, .vgo 2,
      .vmap 2 3, .vstat 1 2, .vquiesce 2] : List Instr).map some := by decide +kernel

/-- Words laid out by hand from the fields of R117. -/
theorem test_decode_sync :
    ([0xB0008001#32, 0xB0108302#32, 0xB0008303#32, 0xB0108304#32, 0xB0108005#32, 0xB0008306#32,
      0xB0108307#32].map (fun w => (decodeS w).toOption))
      = ([.rndend 2, .rndwait 1 2 3, .bararr 2 3, .barwait 1 2 3, .barstat 1 2, .notify 2 3,
      .flagwait 1 2 3] : List Instr).map some := by decide +kernel

/-- Words laid out by hand from the fields of R112, R117. -/
theorem test_decode_system :
    ([0xC3F10701#32, 0xC3F10702#32, 0xC3F10703#32, 0xC3F10704#32, 0xC0108308#32, 0xC0100009#32, 0xC01ABC10#32,
      0xC01ABC11#32, 0xC01ABC13#32, 0xC01ABC19#32, 0xC0000012#32, 0xC0000018#32,
      0xC000001A#32].map (fun w => (decodeS w).toOption))
      = ([.csrr 63 0x107#12, .csrw 63 0x107#12, .csrs 63 0x107#12, .csrc 63 0x107#12, .caprd 1 2 3, .bmaprd 1,
      .svc 1 0xABC#12, .trap 1 0xABC#12, .brk 1 0xABC#12, .hint 1 0xABC#12, .tret, .yield,
      .nop] : List Instr).map some := by decide +kernel

/-- Words laid out by hand from the fields of R122 to R124, R187. -/
theorem test_decode_float :
    ([0x007E10B800#40, 0x017E10B800#40, 0x027E10B800#40, 0x037E10B800#40, 0x047E10B800#40, 0x057E10B800#40,
      0x06FC103800#40, 0x07FC103800#40, 0x08FC103800#40, 0x09FC103800#40, 0x0AFC103800#40, 0x0BFC103800#40,
      0x0C1C414011#40].map (fun w => (decodeE w).toOption))
      = ([.fadd (.v 31) (.ch 1) (.v 2) 7, .fsub (.v 31) (.ch 1) (.v 2) 7, .fmul (.v 31) (.ch 1) (.v 2) 7,
      .fma (.v 31) (.ch 1) (.v 2) 7, .fmax (.v 31) (.ch 1) (.v 2) 7, .fmin (.v 31) (.ch 1) (.v 2) 7,
      .fabs (.ch 31) (.v 1) 7, .fneg (.ch 31) (.v 1) 7, .frcp (.ch 31) (.v 1) 7, .frsq (.ch 31) (.v 1) 7,
      .fexp2 (.ch 31) (.v 1) 7, .flog2 (.ch 31) (.v 1) 7,
      .fcmp .ne .n 7 (.v 4) (.v 5) 0] : List Instr).map some := by decide +kernel

/-- Words laid out by hand from the fields of R123, R124, R189. -/
theorem test_decode_integer :
    ([0x40042005FF#40, 0x41042005FF#40, 0x44042005FF#40, 0x49042005FF#40, 0x4A042005FF#40, 0x4B042005FF#40,
      0x4C042005FF#40, 0x4D0428C000#40, 0x4E0428C000#40, 0x4F0428C000#40, 0x420420C200#40, 0x430420C200#40,
      0x450420C200#40, 0x460420C200#40, 0x470420C200#40, 0x4804202000#40, 0x5104202000#40, 0x5204202000#40,
      0x500420C61F#40, 0x500420C000#40, 0x53042004E4#40, 0x540420C000#40].map (fun w => (decodeE w).toOption))
      = ([.iadd (.v 1) (.v 2) (.imm 0x1FF#9) 0, .isub (.v 1) (.v 2) (.imm 0x1FF#9) 0, .imul (.v 1) (.v 2) (.imm 0x1FF#9) 0,
      .eAnd (.v 1) (.v 2) (.imm 0x1FF#9) 0, .eOr (.v 1) (.v 2) (.imm 0x1FF#9) 0, .eXor (.v 1) (.v 2) (.imm 0x1FF#9) 0,
      .eAndn (.v 1) (.v 2) (.imm 0x1FF#9) 0, .eShl (.v 1) (.v 2) (.opnd (.ch 3)) 0, .eShr (.v 1) (.v 2) (.opnd (.ch 3)) 0,
      .eSra (.v 1) (.v 2) (.opnd (.ch 3)) 0, .iadds true (.v 1) (.v 2) (.opnd (.v 3)) 0,
      .isubs true (.v 1) (.v 2) (.opnd (.v 3)) 0, .imulh true (.v 1) (.v 2) (.opnd (.v 3)) 0,
      .imin true (.v 1) (.v 2) (.opnd (.v 3)) 0, .imax true (.v 1) (.v 2) (.opnd (.v 3)) 0, .iabs (.v 1) (.v 2) 4,
      .eClz (.v 1) (.v 2) 4, .ePopc (.v 1) (.v 2) 4, .eFshl (.v 1) (.v 2) (.v 3) (some 31) 0,
      .eFshr (.v 1) (.v 2) (.v 3) none 0, .bext (.v 1) (.v 2) (.imm 7 4) 0,
      .bdep (.v 1) (.v 2) (.opnd (.v 3)) 0] : List Instr).map some := by decide +kernel

/-- Words laid out by hand from the fields of R190 to R194. -/
theorem test_decode_convert :
    ([0x801850081F#40, 0x8018500E01#40, 0x812010847A#40, 0x822480052F#40, 0x8324801800#40, 0x842480180B#40,
      0x852480180B#40, 0x8624801816#40, 0x8724801816#40].map (fun w => (decodeE w).toOption))
      = ([.cvt .f32 .e4m3 true .rup (.v 6) (.v 5) 1, .cvt .e8m0 .f32 false .rtz (.v 6) (.v 5) 1,
      .qnt .i8 15 false .rdn (.v 8) (.v 1) (.v 2) 0, .dqnt .i4 5 7 (.v 9) (.v 8) 0, .outl (.v 9) (.v 8) 3,
      .gmax 3 .n (.v 9) (.v 8) 3, .gmin 3 .n (.v 9) (.v 8) 3, .gsum 2 .i true (.v 9) (.v 8) 3,
      .gscan 2 .i true (.v 9) (.v 8) 3] : List Instr).map some := by decide +kernel

/-- Words laid out by hand from the fields of R195, R196. -/
theorem test_decode_move :
    ([0x880420C01C#40, 0x880420C100#40, 0x880420C200#40, 0x880420C300#40, 0x880420C400#40, 0x880420C500#40,
      0x890420000F#40, 0x89040007FF#40, 0x8A0420E005#40].map (fun w => (decodeE w).toOption))
      = ([.shuf (.rot 28) (.v 1) (.v 2) (.v 3) 0, .shuf .perm (.v 1) (.v 2) (.v 3) 0, .shuf .zlo (.v 1) (.v 2) (.v 3) 0,
      .shuf .zhi (.v 1) (.v 2) (.v 3) 0, .shuf .uze (.v 1) (.v 2) (.v 3) 0, .shuf .uzo (.v 1) (.v 2) (.v 3) 0,
      .splat (.v 1) (.lane (.v 2) 15) 0, .splat (.v 1) (.imm 0x3FF#10) 0,
      .eSel 5 (.v 1) (.v 2) (.v 3) 4] : List Instr).map some := by decide +kernel

/-- Words laid out by hand from the fields of R197. -/
theorem test_decode_token :
    ([0xA08628C01F#40, 0xA18628C000#40, 0xA18628C024#40, 0xA28628C001#40, 0xA384200009#40, 0xA48628C000#40,
      0xA58428C000#40, 0xA604003800#40, 0xA70420F005#40, 0xA884200000#40,
      0xA906203000#40].map (fun w => (decodeE w).toOption))
      = ([.steer (.ch 1) 31 (.ch 2) (.ch 3), .mergeT (.ch 1) (.ch 2) (.ch 3), .mergeC (.ch 1) (.ch 2) (.ch 3) 4,
      .join true (.ch 1) (.ch 2) (.ch 3), .fork (.ch 1) 9 (.v 2), .gate false (.ch 1) (.ch 2) (.ch 3),
      .mark (.ch 1) (.v 2) (.ch 3), .taggen (.v 1) 7, .cnt 5 (.v 1) (.v 2) (.v 3) 6, .ctltok (.ch 1) (.v 2),
      .mov (.v 1) (.ch 2) 6] : List Instr).map some := by decide +kernel

/-- Words laid out by hand from the fields of R240. -/
theorem test_decode_generator :
    ([0xC090000003#40, 0xC190000001#40, 0xC200400002#40, 0xC300400002#40, 0xC3000007FD#40,
      0xC400400003#40].map (fun w => (decodeE w).toOption))
      = ([.agen (.ch 4) 3, .agwin (.ch 4) 1, .agpad 2 (.v 4), .agstep 2 (.opnd (.v 4)), .agstep 1 (.imm 255),
      .agrw 3 false (.v 4)] : List Instr).map some := by decide +kernel

/-- Words laid out by hand from the fields of R243 to R248. -/
theorem test_decode_port :
    ([0xC50210000F#40, 0xC5021000F2#40, 0xC600109804#40, 0xC700109804#40, 0xC800109964#40, 0xC914109894#40,
      0xCA8620000F#40, 0xCA00000000#40, 0xCB14109900#40, 0xCC14101FFF#40, 0xCD00109809#40,
      0xCE00109809#40].map (fun w => (decodeE w).toOption))
      = ([.mld 15 (.ch 1) none, .mld 2 (.ch 1) (some 7), .mst 4 (.v 1) (.v 2) 3, .mstm 4 (.v 1) (.v 2) 3,
      .mgath 4 .w .skip true (.v 1) (.v 2) 3, .mscat 4 .h .zero false (.v 5) (.v 1) (.v 2) 3,
      .mord .system (some (.ch 1)) (some (.ch 2)), .mord .region none none, .mprobe .b true (.v 5) (.v 1) (.v 2) 3,
      .lld true 0x3FF#10 (.v 5) (.v 1) 3, .lst 9#10 (.v 1) (.v 2) 3,
      .lstm 9#10 (.v 1) (.v 2) 3] : List Instr).map some := by decide +kernel

/-- Words laid out by hand from the fields of R249 to R257. -/
theorem test_decode_node :
    ([0xE086200001#40, 0xE186200000#40, 0xE28628C039#40, 0xE20220000C#40, 0xE38628C01E#40, 0xE48628C003#40,
      0xE506201806#40, 0xE68628D810#40, 0xE68628D80E#40, 0xE78620001F#40,
      0xE702200004#40].map (fun w => (decodeE w).toOption))
      = ([.sphdr true (.ch 1) (.ch 2), .sptree false (.ch 1) (.ch 2), .rmw .addsn true (some (.ch 1)) (.ch 2) (.ch 3),
      .rmw .csadd false none (.ch 2) (.v 0), .vote (.ch 1) (.ch 2) (.ch 3) 30, .csacc 3 (.ch 1) (.ch 2) (.ch 3),
      .csnorm true .rdn (.v 1) (.ch 2) 3, .red .sum .cs (.ch 1) (.ch 2) (.ch 3) 3, .red .min .ns (.ch 1) (.ch 2) (.ch 3) 3,
      .rtag 15 (some (.ch 1)) (.ch 2), .rtag 4 none (.ch 2)] : List Instr).map some := by decide +kernel

/-- Words laid out by hand from the fields of R127, R128. -/
theorem test_decode_schedule :
    ([0x07E0000000#40, 0x0FFFFF017F#40, 0x102080FE05#40, 0x1820831085#40, 0x2020830385#40, 0x282080003B#40,
      0x3020800000#40, 0x38208001FE#40, 0x402000001F#40, 0x4820000000#40,
      0x5020800081#40].map (fun w => (decodeV w).toOption))
      = ([.vnop 63, .vlda 63 127 63 .reset 127, .vldb 1 2 63 true .keep 5, .vmac 1 2 3 4 false .advance 5,
      .vspmeta 1 2 3 3 true 5, .vdrain 1 2 3 true false 3, .vzero 1 2, .vchain 1 2 127 .west, .vwait 1 31, .vend 1,
      .vscale 1 2 64 true] : List Instr).map some := by decide +kernel
/-! ### Ill-formed terms -/

theorem test_wf_refuses_header_flag : Instr.wf (.blk 0 0 1 true) = false := by decide
theorem test_wf_refuses_exit_sense : Instr.wf (.exit true 0 0 0#20) = false ∧ Instr.wf (.ret true 0 0 1) = false := by decide
theorem test_wf_refuses_signed_double :
    Instr.wf (.ldSigned 1 2 .d 0#11) = false ∧ Instr.wf (.ldver 1 2 3 true .d) = false := by decide
theorem test_wf_refuses_element_scope :
    Instr.wf (.aadd 1 2 3 false .element false) = false ∧ Instr.wf (.mord .element none none) = false := by decide
theorem test_wf_refuses_compare :
    Instr.wf (.fcmp .un .i 1 (.v 0) (.v 0) 0) = false ∧ Instr.wf (.fcmp .eq .f 0 (.v 0) (.v 0) 0) = false := by decide
theorem test_wf_refuses_shift : Instr.wf (.eShl (.v 0) (.v 0) (.imm 32#9) 0) = false := by decide
theorem test_wf_refuses_formats : Instr.wf (.cvt .i4 .f32 false .rne (.v 0) (.v 0) 0) = false
    ∧ Instr.wf (.cvt .e8m0 .f16 false .rne (.v 0) (.v 0) 0) = false ∧ Instr.wf (.cvt .i8 .e8m0 false .rne (.v 0) (.v 0) 0) = false
    ∧ Instr.wf (.qnt .f32 0 true .rne (.v 0) (.v 0) (.v 0) 0) = false ∧ Instr.wf (.dqnt .e4m3 0 4 (.v 0) (.v 0) 0) = false
    ∧ Instr.wf (.dqnt .i4 1 0 (.v 0) (.ch 0) 0) = false := by decide
theorem test_wf_refuses_nodes : Instr.wf (.gsum 0 .f true (.v 0) (.v 0) 0) = false
    ∧ Instr.wf (.rmw .fadd true none (.ch 0) (.v 0)) = false ∧ Instr.wf (.red .max .cs (.ch 0) (.ch 1) (.ch 2) 0) = false := by
  decide

/-! ### Small states -/

/-- The word of an instruction. -/
def wordOf (i : Instr) : Nat :=
  match encode i with
  | .s w => w.toNat
  | .e w | .v w => w.toNat
  | .step => 0

/-- A page table of one leaf of 1 GiB at address 0 with every permission, resident, and behind it, at 2^30, one versioned
page of 4 KiB at frame 0x100000. -/
def tables : Memory :=
  [(0x10000, 0x11001), (0x11000, 0x12001), (0x12000, 0x7F), (0x12008, 0x13001), (0x13000, 0x14001), (0x14000, 0x10026F)].foldl
    (fun m e => m.writeBytes e.1 (leBytes e.2 8)) []

/-- One job whose address space those tables are, running in one region; graph 0 holds it. -/
def base : State :=
  { State.reset with
    mem := tables
    jobs := [(0, { Job.init with root := 0x10000, state := 2 })]
    graphs := [(0, { Graph.init with regions := [0] })] }

/-- One word in turn, with general registers as given. -/
def sAt (i : Instr) (g : FMap DWord) : State :=
  (base.withFetchWord 32 (wordOf i)).updSeq 0 (fun q => { q with g := g })

/-- What the sequencer in focus sees. -/
def sv (s : State) : SeqView := ⟨0, s.reg 0, (s.reg 0).seq.block.getD (.probe [] 0)⟩

/-! ### Sequencer words: states that meet the hypotheses of the statements -/

/-- Registers for most of the words below. -/
def gs : FMap DWord := [(1, 5#64), (2, 7#64), (3, 0x100#64), (4, 0x40000000#64), (5, 0x2000000000000000#64)]

/-- A sum; a division by 7 and one by zero; an immediate form; a compare. -/
theorem wit_integer_words :
    (let s := sAt (.add 3 1 2) gs; InTurn s (sv s) (.add 3 1 2) ∧ aluResult (sv s).g (sv s).p (.add 3 1 2) = some (3, 12#64))
    ∧ (let s := sAt (.div 3 1 2) gs; InTurn s (sv s) (.div 3 1 2) ∧ divResult (sv s).g (.div 3 1 2) = some (3, 5#64, 7#64, 0#64))
    ∧ (let s := sAt (.divn 3 1 0) gs
       InTurn s (sv s) (.divn 3 1 0) ∧ (divResult (sv s).g (.divn 3 1 0)).map (fun x => (x.1, x.2.2.1)) = some (3, 0#64))
    ∧ (let s := sAt (.addi 3 1 (-1)) gs; InTurn s (sv s) (.addi 3 1 (-1)) ∧ immResult (sv s).g (.addi 3 1 (-1)) = some (3, 4#64))
    ∧ (let s := sAt (.cmplt 3 1 2) gs
       InTurn s (sv s) (.cmplt 3 1 2) ∧ predResult (sv s).g (sv s).p (.cmplt 3 1 2) = some (3, true)) :=
  ⟨⟨⟨rfl, rfl, rfl⟩, rfl⟩, ⟨⟨rfl, rfl, rfl⟩, rfl⟩, ⟨⟨rfl, rfl, rfl⟩, rfl⟩, ⟨⟨rfl, rfl, rfl⟩, rfl⟩, ⟨⟨rfl, rfl, rfl⟩, rfl⟩⟩

/-- An exit that holds (p0) and one that does not (p1, false at reset). -/
theorem wit_exits :
    (let s := sAt (.exit false 0 0 3#20) gs
     InTurn s (sv s) (.exit false 0 0 3#20) ∧ exitForm (sv s) (.exit false 0 0 3#20) = some (false, 0, 0, 12#64, false)
       ∧ (sv s).p 0 = true)
    ∧ (let s := sAt (.ret false 1 0 3) gs
       InTurn s (sv s) (.ret false 1 0 3) ∧ exitForm (sv s) (.ret false 1 0 3) = some (false, 1, 0, 0x100#64, false)
         ∧ (sv s).p 1 = false) :=
  ⟨⟨⟨rfl, rfl, rfl⟩, rfl, rfl⟩, ⟨⟨rfl, rfl, rfl⟩, rfl, rfl⟩⟩

/-- A block of three words with its header in turn: one exit, one store. -/
def block3 (x : Fin 4) (n : Fin 32) : State :=
  let ws := [wordOf (.blk 1 x n false), wordOf (.st 1 3 .d 0#11), wordOf (.exit false 0 0 3#20)]
  (base.withFetchWord 32 0).updSeq 0 (fun q => { q with block := some (.probe (ws.map (BitVec.ofNat 32)) 0) })

/-- Headers that agree with their block, that count an exit too many, and that count a store too few. -/
theorem wit_headers :
    (∀ c ∈ [(0, 1), (1, 1), (0, 0)], let s := block3 c.1 c.2; InTurn s (sv s) (.blk 1 c.1 c.2 false) ∧ (sv s).blk.idx = 0)
    ∧ (sv (block3 0 1)).blk.words.drop 1 = [BitVec.ofNat 32 (wordOf (.st 1 3 .d 0#11)), BitVec.ofNat 32 (wordOf (.exit false 0 0 3#20))]
    ∧ ((sv (block3 0 1)).blk.words.drop 1).filterMap exitIndex = [0]
    ∧ (((sv (block3 0 1)).blk.words.drop 1).filter countsAsStore).length = 1 := by
  refine ⟨fun c h => ?_, rfl, rfl, rfl⟩
  simp only [List.mem_cons, List.not_mem_nil, or_false] at h
  rcases h with rfl | rfl | rfl <;> exact ⟨⟨rfl, rfl, rfl⟩, rfl⟩

/-- Registers: a write of g3 after nothing, with g4 not yet written by the block. -/
theorem wit_registers : (3 : GReg) ≠ 0 ∧ (4 : GReg) ≠ 3 ∧ (sv (sAt .nop gs)).blk.gw.find? 4 = none := by decide +kernel

/-- Bytes can be read when each of a list can. -/
theorem readable_of (s : State) (v : SeqView) (as : List (Option Nat))
    (h : ∀ a ∈ as, ∀ pa ∈ a, s.vatLocked pa = false ∧ (s.badBytes pa 1 = false ∨ storedByte v.blk.acts pa ≠ none)) :
    readable s v as := fun pa hp => h _ hp _ rfl

set_option maxRecDepth 10000 in
/-- A load of mapped memory, and a versioned one of a line with no slot for the round. -/
theorem wit_loads :
    let s := sAt (.ld 6 3 .d 1#11) gs
    let i : Instr := .ld 6 3 .d 1#11
    InTurn s (sv s) i ∧ loadForm (sv s) i = some (6, 0x108, 8, false, none)
      ∧ (∃ parts as, loadChecked s (sv s) i 0x108 8 parts ∧ s.addrs (sv s).reg.writer none parts = .ok as false
          ∧ as = (List.range 8).map (fun k => some (0x108 + k)) ∧ readable s (sv s) as) :=
  ⟨⟨rfl, rfl, rfl⟩, rfl, _, _, rfl, rfl, rfl, readable_of _ _ _ (by decide +kernel)⟩

/-- A versioned load of round 0xFFFFFF, which a committed slot answers. -/
def versioned : State :=
  let s := sAt (.ldver 6 4 2 false .w) gs
  { s with mem := writeSlot s.mem 0x104000 0 ⟨true, true, 1, 7#24⟩ }

set_option maxRecDepth 10000 in
theorem wit_ldver :
    let i : Instr := .ldver 6 4 2 false .w
    InTurn versioned (sv versioned) i ∧ loadForm (sv versioned) i = some (6, 0x40000000, 4, false, some 7#24)
      ∧ (∃ parts as, loadChecked versioned (sv versioned) i 0x40000000 4 parts
          ∧ versioned.addrs (sv versioned).reg.writer (some 7#24) parts = .ok as false ∧ as.length = 4
          ∧ readable versioned (sv versioned) as) :=
  ⟨⟨rfl, rfl, rfl⟩, rfl, _, _, ⟨rfl, rfl⟩, rfl, rfl, readable_of _ _ _ (by decide +kernel)⟩

/-- Accesses that fail check 1, or check 3 of the page's kind. -/
theorem wit_failedAccesses :
    (let s := sAt (.ld 6 5 .d 0#11) gs; InTurn s (sv s) (.ld 6 5 .d 0#11)
      ∧ (s.tlb 0).seqCheck 0 0 none (smAddress ((sv s).g 5) .d 0#11) 8 = .fail 1 0x2000000000000000)
    ∧ (let s := sAt (.ldSigned 6 5 .w 0#11) gs; InTurn s (sv s) (.ldSigned 6 5 .w 0#11)
      ∧ (s.tlb 0).seqCheck 0 0 none (smAddress ((sv s).g 5) .w 0#11) 4 = .fail 1 0x2000000000000000)
    ∧ (let s := sAt (.ldver 6 3 1 false .d) gs; InTurn s (sv s) (.ldver 6 3 1 false .d)
      ∧ (s.tlb 0).seqCheck 0 0 (some true) ((sv s).g 3).toNat 8 = .fail 3 0x100)
    ∧ (let s := sAt (.st 6 4 .d 0#11) gs; InTurn s (sv s) (.st 6 4 .d 0#11)
      ∧ (s.tlb 0).seqCheck 0 1 (some false) (smAddress ((sv s).g 4) .d 0#11) 8 = .fail 3 0x40000000)
    ∧ (let s := sAt (.stver 6 3 .d 0#11) gs; InTurn s (sv s) (.stver 6 3 .d 0#11)
      ∧ (s.tlb 0).seqCheck 0 1 (some true) (smAddress ((sv s).g 3) .d 0#11) 8 = .fail 3 0x100)
    ∧ (let s := sAt (.reclaim 3 1) gs; InTurn s (sv s) (.reclaim 3 1)
      ∧ (s.tlb 0).seqCheck 0 1 (some true) ((sv s).g 3).toNat 1 = .fail 3 0x100) :=
  ⟨⟨⟨rfl, rfl, rfl⟩, rfl⟩, ⟨⟨rfl, rfl, rfl⟩, rfl⟩, ⟨⟨rfl, rfl, rfl⟩, rfl⟩, ⟨⟨rfl, rfl, rfl⟩, rfl⟩, ⟨⟨rfl, rfl, rfl⟩, rfl⟩,
    ⟨⟨rfl, rfl, rfl⟩, rfl⟩⟩

set_option maxRecDepth 10000 in
/-- A store; a versioned store that takes slot 0 of its line; a reclaim; aligned and misaligned atomics. -/
theorem wit_stores :
    (let s := sAt (.st 1 3 .w 1#11) gs
     InTurn s (sv s) (.st 1 3 .w 1#11) ∧ ∃ ps, (s.tlb 0).seqCheck 0 1 (some false) (smAddress ((sv s).g 3) .w 1#11) 4 = .ok ps)
    ∧ (let s := sAt (.stver 1 4 .w 1#11) gs
       InTurn s (sv s) (.stver 1 4 .w 1#11)
         ∧ ∃ p ps, (s.tlb 0).seqCheck 0 1 (some true) (smAddress ((sv s).g 4) .w 1#11) 4 = .ok (p :: ps) ∧ p.leaf.vline.dir = 0x104000
           ∧ s.badBytes 0x104000 32 = false ∧ versStoreSlot s.mem 0x104000 (sv s).reg.writer 0#24 = (.slot 0, true))
    ∧ (let s := sAt (.reclaim 4 1) gs
       InTurn s (sv s) (.reclaim 4 1) ∧ ∃ p ps, (s.tlb 0).seqCheck 0 1 (some true) ((sv s).g 4).toNat 1 = .ok (p :: ps))
    ∧ (∀ a ∈ [(3 : GReg), 1], let s := sAt (.aadd 6 a 2 true .die false) gs
        InTurn s (sv s) (.aadd 6 a 2 true .die false) ∧ ∃ p ps, (s.tlb 0).seqCheck 0 2 (some false) ((sv s).g a).toNat 8 = .ok (p :: ps))
    ∧ ((sv (sAt .nop gs)).g 3).toNat % 8 = 0 ∧ ((sv (sAt .nop gs)).g 1).toNat % 8 ≠ 0 := by
  refine ⟨⟨⟨rfl, rfl, rfl⟩, _, rfl⟩, ⟨⟨rfl, rfl, rfl⟩, _, _, rfl, rfl, rfl, rfl⟩, ⟨⟨rfl, rfl, rfl⟩, _, _, rfl⟩, fun a h => ?_, by decide +kernel⟩
  simp only [List.mem_cons, List.not_mem_nil, or_false] at h
  rcases h with rfl | rfl <;> exact ⟨⟨rfl, rfl, rfl⟩, _, _, rfl⟩

/-- A sum that an atomic leaves, and a clamped one. -/
theorem wit_atomics : atomicResult 0 32 0xFFFFFFFF 2 0 = some 1 ∧ atomicResult 1 32 0x7FFFFFFF 1 0 = some 0x7FFFFFFF := by decide

set_option maxRecDepth 10000 in
/-- An engine command with its descriptor in memory and no barrier object. -/
theorem wit_engine :
    let s := sAt (.scopy 6 3 0) gs
    InTurn s (sv s) (.scopy 6 3 0) ∧ ((sv s).g 3).toNat % 64 = 0 ∧ (sv s).g 0 = 0#64
      ∧ ∃ parts as, (s.tlb 0).seqCheck 0 0 none ((sv s).g 3).toNat 64 = .ok parts ∧ s.addrs (sv s).reg.writer none parts = .ok as false :=
  ⟨⟨rfl, rfl, rfl⟩, rfl, rfl, _, _, rfl, rfl⟩
/-! ### Control, round, synchronization and system words -/

/-- The region's bench is a matrix node. -/
def vat (s : State) : State := s.updBench 0 0 (fun y => { y with plane := { y.plane with ven := true } })

/-- A word that acts at commit. -/
theorem wit_plainAct : let s := sAt (.trap 3 9#12) gs
    InTurn s (sv s) (.trap 3 9#12) ∧ plainAct (sv s) (.trap 3 9#12) = some (.raise 5 9 0x100#64) := ⟨⟨rfl, rfl, rfl⟩, rfl⟩

/-- FINJ on line 5 and on line 256, VGO of the node of bench 0 and of a bench that is none. -/
theorem wit_checkedAct :
    (let s := sAt (.finj 1 2) gs
     InTurn s (sv s) (.finj 1 2) ∧ (∃ ok a c x, checkedAct s (sv s) (.finj 1 2) = some (ok, a, c, x)) ∧ ((sv s).g 1).toNat < 8)
    ∧ (let s := sAt (.finj 3 2) gs
       InTurn s (sv s) (.finj 3 2) ∧ (∃ ok a c x, checkedAct s (sv s) (.finj 3 2) = some (ok, a, c, x)) ∧ ¬((sv s).g 3).toNat < 8
         ∧ (sv s).blk.exc = none)
    ∧ (let s := vat (sAt (.vgo 0) gs)
       InTurn s (sv s) (.vgo 0) ∧ ((sv s).g 0).toNat < 512 ∧ ((sv s).g 0).toNat ∈ (sv s).reg.nodes)
    ∧ (let s := vat (sAt (.vgo 1) gs); InTurn s (sv s) (.vgo 1) ∧ ¬(256 ≤ ((sv s).g 1).toNat ∨ ((sv s).g 1).toNat ∈ (sv s).reg.nodes)) := by
  refine ⟨⟨⟨rfl, rfl, rfl⟩, ⟨_, _, _, _, rfl⟩, by decide +kernel⟩, ⟨⟨rfl, rfl, rfl⟩, ⟨_, _, _, _, rfl⟩, by decide +kernel, rfl⟩,
    ⟨⟨rfl, rfl, rfl⟩, by decide +kernel⟩, ⟨⟨rfl, rfl, rfl⟩, by decide +kernel⟩⟩

/-- FEXT with the fabric stopped since the block's entry, and running. -/
def stopped (i : Instr) (g : FMap DWord) : State :=
  (sAt i g).updReg 0 (fun x => { x with
    fab := { x.fab with stop := true }
    seq := { x.seq with block := x.seq.block.map (fun b => { b with stopAtEntry := true }) } })

theorem wit_fext :
    (let s := stopped (.fext 6 0) gs
     InTurn s (sv s) (.fext 6 0) ∧ (sv s).blk.stopAtEntry = true ∧ (sv s).reg.fab.stop = true
       ∧ (sv s).reg.fext ((sv s).g 0).toNat = some 0#64)
    ∧ (let s := sAt (.fext 6 0) gs; InTurn s (sv s) (.fext 6 0) ∧ (sv s).reg.fab.stop = false)
    ∧ (let s := stopped (.fext 6 1) gs; InTurn s (sv s) (.fext 6 1) ∧ (sv s).reg.fext ((sv s).g 1).toNat = none) :=
  ⟨⟨⟨rfl, rfl, rfl⟩, rfl, rfl, by decide +kernel⟩, ⟨⟨rfl, rfl, rfl⟩, rfl⟩, ⟨⟨rfl, rfl, rfl⟩, by decide +kernel⟩⟩

/-- The words that do nothing. -/
theorem wit_nops : InTurn (sAt .nop gs) (sv (sAt .nop gs)) .nop
    ∧ InTurn (sAt (.hint 3 1#12) gs) (sv (sAt (.hint 3 1#12) gs)) (.hint 3 1#12)
    ∧ InTurn (sAt (.hint 3 2#12) gs) (sv (sAt (.hint 3 2#12) gs)) (.hint 3 2#12)
    ∧ InTurn (sAt (.fence .seqCst .system) gs) (sv (sAt (.fence .seqCst .system) gs)) (.fence .seqCst .system) :=
  ⟨⟨rfl, rfl, rfl⟩, ⟨rfl, rfl, rfl⟩, ⟨rfl, rfl, rfl⟩, ⟨rfl, rfl, rfl⟩⟩

/-- The block's ROUND is n; the last committed round is 0xFFFFFF. -/
def inRound (n : BitVec 24) (s : State) : State :=
  s.updSeq 0 (fun q => { q with block := q.block.map (fun b => { b with csrs := { b.csrs with round := n } }) })

/-- RNDEND in the first round, and two rounds ahead; RNDWAIT for a committed, a coming and an unordered round; FDRAIN with
everything committed, and behind. -/
theorem wit_rounds :
    (∀ n ∈ [0#24, 1#24], let s := inRound n (sAt (.rndend 1) gs); InTurn s (sv s) (.rndend 1) ∧ (sv s).blk.csrs.round = n)
    ∧ (sv (sAt (.rndend 1) gs)).reg.lastRnd + 1 = 0#24
    ∧ (∀ n ∈ [0xFFFFFF#64, 5#64, 0x7FFFFF#64], let s := sAt (.rndwait 6 1 2) [(1, n)]
        InTurn s (sv s) (.rndwait 6 1 2) ∧ (sv s).g 1 = n)
    ∧ (∀ n ∈ [0#24, 1#24], let s := inRound n (sAt (.fdrain 6 2) gs); InTurn s (sv s) (.fdrain 6 2) ∧ s.buffered 0 false = []) := by
  refine ⟨fun n h => ?_, rfl, fun n h => ?_, fun n h => ?_⟩ <;> simp only [List.mem_cons, List.not_mem_nil, or_false] at h
  · rcases h with rfl | rfl <;> exact ⟨⟨rfl, rfl, rfl⟩, rfl⟩
  · rcases h with rfl | rfl | rfl <;> exact ⟨⟨rfl, rfl, rfl⟩, rfl⟩
  · rcases h with rfl | rfl <;> exact ⟨⟨rfl, rfl, rfl⟩, rfl⟩

/-- The word in turn has waited since package time 0 in cycle 0, and the present time is t in cycle c. -/
def waited (t c : Nat) (s : State) : State :=
  { s.updSeq 0 (fun q => { q with block := q.block.map (fun b => { b with waits := [(b.idx, (0, 0))] }) }) with time := t, cycle := c }

/-- Waits whose limit of 7 microseconds has passed; an LDVER that has waited 50 microseconds. -/
theorem wit_timeouts :
    (let s := waited (7 * 130900) 0 (sAt (.rndwait 6 1 2) gs)
     InTurn (focused s 0) (sv s) (.rndwait 6 1 2) ∧ (sv s).blk.word = .instr (.rndwait 6 1 2)
       ∧ (sv s).blk.waits.find? (sv s).blk.idx = some (0, 0) ∧ (sv s).g 2 ≠ 0#64 ∧ ((sv s).g 2).toNat * 130900 ≤ s.time)
    ∧ (let s := waited (7 * 130900) 0 (inRound 1#24 (sAt (.fdrain 6 2) gs))
       InTurn (focused s 0) (sv s) (.fdrain 6 2) ∧ (sv s).blk.word = .instr (.fdrain 6 2)
         ∧ (sv s).blk.waits.find? (sv s).blk.idx = some (0, 0) ∧ (sv s).blk.csrs.round ≠ (sv s).reg.lastRnd + 1)
    ∧ (let s := waited 0 42500 (sAt (.ldver 6 4 2 false .w) gs)
       (focused s 0).seqView = some (sv s) ∧ (sv s).blk.word = .instr (.ldver 6 4 2 false .w)
         ∧ (sv s).blk.waits.find? (sv s).blk.idx = some (0, 0) ∧ (s.rnode (sv s).r).eff.freeze = 0) :=
  ⟨⟨⟨rfl, rfl, rfl⟩, rfl, rfl, by decide +kernel, by decide +kernel⟩, ⟨⟨rfl, rfl, rfl⟩, rfl, rfl, by decide +kernel⟩,
    ⟨rfl, rfl, rfl, rfl⟩⟩

set_option maxRecDepth 10000 in
/-- BARWAIT whose phase differs, and one whose phase does not (memory there is zero); an arrival on an object that expects
one; a notification. -/
theorem wit_synchronization :
    (∀ a ∈ [(3 : GReg), 7], let s := sAt (.barwait 6 a 2) ((gs).put 7 0x101#64)
      ∃ parts as, InTurn s (sv s) (.barwait 6 a 2)
        ∧ observeForm (sv s) 0 (.barwait 6 a 2) = some (6, 0x100, 16, decide (0 ≠ ((sv s).g a).toNat % 2), 0#64)
        ∧ (s.tlb 0).seqCheck 0 0 none 0x100 16 = .ok parts ∧ s.addrs (sv s).reg.writer none parts = .ok as false
        ∧ readable s (sv s) as ∧ littleEndian (as.map ((sv s).loadByte s.mem)) = 0)
    ∧ (let s := sAt (.bararr 3 1) gs
       InTurn s (sv s) (.bararr 3 1) ∧ (s.tlb 0).arrivalCheck 0 ((sv s).g 3).toNat = none)
    ∧ (let s := sAt (.notify 3 1) gs
       InTurn s (sv s) (.notify 3 1) ∧ (∃ p ps, (s.tlb 0).seqCheck 0 2 (some false) ((sv s).g 3).toNat 8 = .ok (p :: ps))
         ∧ ((sv s).g 3).toNat % 8 = 0) := by
  refine ⟨fun a h => ?_, ⟨⟨rfl, rfl, rfl⟩, rfl⟩, ⟨⟨rfl, rfl, rfl⟩, ⟨_, _, rfl⟩, rfl⟩⟩
  simp only [List.mem_cons, List.not_mem_nil, or_false] at h
  rcases h with rfl | rfl <;> exact ⟨_, _, ⟨rfl, rfl, rfl⟩, rfl, rfl, rfl, readable_of _ _ _ (by decide +kernel), rfl⟩

/-- Reads and writes of control registers, at J and, for HANDLER, at T. -/
theorem wit_controlRegisters :
    (let s := sAt (.csrr 6 1#12) gs; InTurn s (sv s) (.csrr 6 1#12) ∧ controlRegister (sv s) 1 = some 0#64)
    ∧ (let s := sAt (.csrw 1 6#12) gs
       InTurn s (sv s) (.csrw 1 6#12) ∧ controlRegister (sv s) 6 = some 0#64 ∧ writableWidth 6 = some 64)
    ∧ (let s := (sAt (.csrs 1 0x100#12) gs).updSeq 0 (fun q =>
          { q with block := q.block.map (fun b => { b with csrs := { b.csrs with priv := true } }) })
       InTurn s (sv s) (.csrs 1 0x100#12) ∧ controlRegister (sv s) 0x100 = some 0#64 ∧ writableWidth 0x100 = some 57)
    ∧ (let s := sAt (.csrc 1 5#12) gs; InTurn s (sv s) (.csrc 1 5#12) ∧ controlRegister (sv s) 5 = some 0#64)
    ∧ (let s := sAt (.caprd 6 1 2) gs; InTurn s (sv s) (.caprd 6 1 2))
    ∧ (let s := sAt (.bmaprd 6) gs; InTurn s (sv s) (.bmaprd 6)) :=
  ⟨⟨⟨rfl, rfl, rfl⟩, rfl⟩, ⟨⟨rfl, rfl, rfl⟩, rfl, rfl⟩, ⟨⟨rfl, rfl, rfl⟩, rfl, rfl⟩, ⟨⟨rfl, rfl, rfl⟩, rfl⟩, ⟨rfl, rfl, rfl⟩,
    ⟨rfl, rfl, rfl⟩⟩

/-- A word that reads what an atomic before it will write, one that reads a poisoned register, a block at J with no cause
and one with a cause. -/
theorem wit_refused :
    (let s := (sAt (.add 3 1 2) gs).updSeq 0 (fun q => { q with block := q.block.map (fun b =>
        { b with words := [0x00080000#32, BitVec.ofNat 32 (wordOf (.aadd 1 3 2 true .die false)), 0x04304200#32], idx := 2 }) })
     s.seqView = some (sv s) ∧ aluResult (sv s).g (sv s).p (.add 3 1 2) = some (3, 12#64) ∧ (sv s).reason (.add 3 1 2) = some 12)
    ∧ (let s := (sAt (.add 3 1 2) gs).updSeq 0 (fun q => { q with block := q.block.map (fun b => { b with gw := [(1, ⟨0#64, true⟩)] }) })
       s.seqView = some (sv s) ∧ aluResult (sv s).g (sv s).p (.add 3 1 2) = some (3, 7#64) ∧ (sv s).reason (.add 3 1 2) = none
         ∧ (sv s).poisoned (.add 3 1 2) = true)
    ∧ (sv (sAt .nop gs)).blk.csrs.priv = false
    ∧ (Block.probe [] 0).exc = none ∧ ((Block.probe [] 0).raise 1 0#64 0#64 0#64 0#64).exc ≠ none :=
  ⟨⟨rfl, rfl, rfl⟩, ⟨rfl, rfl, rfl, rfl⟩, rfl, rfl, by decide +kernel⟩
/-! ### Element operations -/

/-- One element operation in focus, in an element as given. -/
def eAt (i : Instr) (f : Element → Element) : State := (base.withFetchWord 40 (wordOf i)).updElem 0 0 0 f

/-- What its slot sees. -/
def ev (s : State) (i : Instr) : View := (s.view i).getD ⟨s.focus, .init, .init, .init, .empty, i, []⟩

/-- A payload of 16 equal lanes. -/
def fill (w : Word) : Payload := ofLanes (fun _ => w)

/-- v1 holds 5 in every lane, v2 holds 1.0, v3 holds 0x40 with 0 above; ch1 holds a data token of round 0 and tag 4, ch2 one of
tag 5, ch3 the marker of round 0, ch4 a control token of tag 4 with value 0, ch5 two like ch1's. -/
def full (el : Element) : Element :=
  { el with
    regs := [(1, ⟨fill 5#32, false⟩), (2, ⟨fill 0x3F800000#32, false⟩), (3, ⟨0x40#512, false⟩)]
    bufs := [(1, [⟨.data, false, 0#24, 4#24, 0#8, fill 7#32⟩]), (2, [⟨.data, false, 0#24, 5#24, 0#8, fill 9#32⟩]),
      (3, [⟨.marker, false, 0#24, 0#24, 0#8, 0#512⟩]), (4, [⟨.control, false, 0#24, 4#24, 0#8, 0#512⟩]),
      (5, [⟨.data, true, 0#24, 4#24, 0#8, fill 8#32⟩])] }

/-- The tokens at the heads. -/
def tk1 : Token := ⟨.data, false, 0#24, 4#24, 0#8, fill 7#32⟩
def tk2 : Token := ⟨.data, false, 0#24, 5#24, 0#8, fill 9#32⟩
def tk3 : Token := ⟨.marker, false, 0#24, 0#24, 0#8, 0#512⟩
def tk4 : Token := ⟨.control, false, 0#24, 4#24, 0#8, 0#512⟩
def tk5 : Token := ⟨.data, true, 0#24, 4#24, 0#8, fill 8#32⟩

/-- One computing operation of each kind, on registers and on channels. -/
theorem wit_computing :
    (let i : Instr := .iadd (.v 6) (.ch 1) (.opnd (.v 1)) 0
     let s := eAt i full
     s.view i = some (ev s i) ∧ (∃ r, integerOp i = some r) ∧ dataReady (ev s i) [.ch 1, .v 1])
    ∧ (let i : Instr := .fadd (.v 6) (.v 2) (.v 2) 0
       let s := eAt i full
       s.view i = some (ev s i) ∧ (∃ r, floatOp i = some r) ∧ dataReady (ev s i) [.v 2, .v 2])
    ∧ (let i : Instr := .fcmp .lt .f 1 (.v 1) (.v 2) 0
       let s := eAt i full
       s.view i = some (ev s i) ∧ dataReady (ev s i) [.v 1, .v 2])
    ∧ (let i : Instr := .gsum 1 .i false (.v 6) (.ch 1) 0
       let s := eAt i full
       s.view i = some (ev s i) ∧ (∃ r, moveOp (ev s i) i = some r) ∧ dataReady (ev s i) [.ch 1])
    ∧ (let i : Instr := .eSel 1 (.v 6) (.ch 1) (.v 1) 0
       let s := eAt i full
       s.view i = some (ev s i) ∧ dataReady (ev s i) [.ch 1, .v 1])
    ∧ (let i : Instr := .ctltok (.ch 6) (.v 1)
       let s := eAt i full
       s.view i = some (ev s i) ∧ dataReady (ev s i) [.v 1]) :=
  ⟨⟨rfl, ⟨_, rfl⟩, by decide +kernel, by decide +kernel⟩, ⟨rfl, ⟨_, rfl⟩, by decide +kernel, by decide +kernel⟩,
    ⟨rfl, by decide +kernel, by decide +kernel⟩, ⟨rfl, ⟨_, rfl⟩, by decide +kernel, by decide +kernel⟩,
    ⟨rfl, by decide +kernel, by decide +kernel⟩, ⟨rfl, by decide +kernel, by decide +kernel⟩⟩

/-- Conversions. A quantisation to I8 with its scale, of elements that take part. -/
theorem test_least_scale : greatest (fill 0x3F800000#32) (fill 0x3F800000#32) 0xFFFF#16 = 2 ^ 149 ∧ greatest 0#512 0#512 0xFFFF#16 = 0 := by
  decide +kernel

theorem wit_conversions :
    (let i : Instr := .cvt .f32 .e4m3 true .rne (.v 6) (.v 2) 0
     let s := eAt i full
     s.view i = some (ev s i) ∧ dataReady (ev s i) [.v 2])
    ∧ (let i : Instr := .qnt .i4x 5 true .rne (.v 6) (.v 2) (.v 2) 0
       let s := eAt i full
       s.view i = some (ev s i) ∧ dataReady (ev s i) [.v 2, .v 2])
    ∧ (let i : Instr := .dqnt .i8 5 0 (.v 6) (.v 1) 0
       let s := eAt i full
       s.view i = some (ev s i) ∧ dataReady (ev s i) [.v 1]) :=
  ⟨⟨rfl, by decide +kernel, by decide +kernel⟩, ⟨rfl, by decide +kernel, by decide +kernel⟩,
    ⟨rfl, by decide +kernel, by decide +kernel⟩⟩

/-- A NaN. -/
theorem wit_nan : 0x7F800000 < (0xFFC00001#32 : Word).toNat % 2 ^ 31 := by decide

/-- More tokens: of round 1, data and a marker; a switch, a pass and a done token of round 0; a marker with ERR. -/
def tkL : Token := ⟨.data, false, 1#24, 4#24, 0#8, fill 7#32⟩
def tkM : Token := ⟨.marker, false, 1#24, 0#24, 0#8, 0#512⟩
def tkS : Token := ⟨.switch, false, 0#24, 0#24, 0#8, 0#512⟩
def tkP : Token := ⟨.pass, false, 0#24, 0#24, 0#8, 0#512⟩
def tkD : Token := ⟨.done, false, 0#24, 0#24, 0#8, 0#512⟩
def tkE : Token := ⟨.marker, true, 0#24, 0#24, 0#8, 0#512⟩

theorem test_kinds_of_tokens : (∀ t ∈ [tk1, tk2, tk4, tk5, tkL], t.kind = .data ∨ t.kind = .control)
    ∧ (∀ t ∈ [tk3, tkM, tkS, tkP, tkD, tkE], t.kind ≠ .data ∧ t.kind ≠ .control) := by decide

/-- ch1, ch2 and ch3 hold three tokens. -/
def heads3 (t u w : Token) (el : Element) : Element := { full el with bufs := [(1, [t]), (2, [u]), (3, [w])] }

/-- The operations of two and three inputs, with the tokens at their heads as they see them; every input is in round 0. -/
theorem heads3_seen (t u w : Token) :
    ∀ i ∈ [(.steer (.ch 6) 7 (.ch 1) (.ch 2) : Instr), .gate false (.ch 6) (.ch 1) (.ch 2), .gate true (.ch 6) (.ch 1) (.ch 2),
        .join false (.ch 6) (.ch 1) (.ch 2), .join true (.ch 6) (.ch 1) (.ch 2), .fork (.ch 6) 7 (.ch 1),
        .mergeT (.ch 6) (.ch 1) (.ch 2), .mergeC (.ch 6) (.ch 1) (.ch 2) 3, .vote (.ch 6) (.ch 1) (.ch 2) 3,
        .red .max .i (.v 6) (.ch 1) (.ch 2) 0, .rtag 3 none (.ch 1), .csacc 1 (.ch 6) (.ch 1) (.v 0), .csnorm true .rne (.v 6) (.ch 1) 0,
        .fadd (.ch 6) (.ch 1) (.ch 2) 0, .agrw 1 false (.ch 1), .agpad 1 (.ch 1), .agstep 1 (.opnd (.ch 1)),
        .mark (.ch 6) (.v 1) (.ch 1), .sphdr true (.ch 6) (.ch 1), .mst 3 (.ch 1) (.ch 2) 0],
      let s := eAt i (heads3 t u w)
      let v := ev s i
      s.view i = some v ∧ holds v (.ch 1) 1 t ∧ holds v (.ch 2) 2 u ∧ holds v (.ch 3) 3 w ∧ v.starved (.ch 1) = false
        ∧ v.starved (.ch 2) = false ∧ v.starved (.ch 3) = false ∧ tokenOf v (.ch 1) = t ∧ tokenOf v (.ch 2) = u
        ∧ tokenOf v (.ch 3) = w ∧ heads v [.ch 1, .ch 2] = [(1, t), (2, u)] ∧ v.el.inRound = [] ∧ v.el.round0 = 0#24
        ∧ v.el.voter.consumed = [v.el.voter.forwarded, v.el.voter.forwarded, v.el.voter.forwarded] := by
  intro i h
  simp only [List.mem_cons, List.not_mem_nil, or_false] at h
  rcases h with rfl | rfl | rfl | rfl | rfl | rfl | rfl | rfl | rfl | rfl | rfl | rfl | rfl | rfl | rfl | rfl | rfl | rfl | rfl | rfl <;>
    exact ⟨rfl, rfl, rfl, rfl, rfl, rfl, rfl, rfl, rfl, rfl, rfl, rfl, rfl, rfl⟩

/-- What the statements ask of the tokens of their inputs holds of some: alike, of another tag, of another round, data beside
punctuation, two of a kind, a switch beside a marker, two kinds; tags in order, either way round, and equal. -/
theorem wit_pairs :
    (tk1.round = tk4.round ∧ tk1.tag = tk4.tag) ∧ tk1.tag ≠ tk2.tag ∧ tkL.round ≠ 0#24 ∧ tk1.round = 0#24
    ∧ tk3.kind = tkE.kind ∧ tk3.round = tkE.round ∧ tk3.tag = tkE.tag ∧ tkS.kind = .switch ∧ tk3.kind = .marker ∧ tk3.round = tkS.round
    ∧ tk3.kind ≠ tkD.kind ∧ tk3.round ≠ tkM.round ∧ tk1.round = tk3.round
    ∧ 0 < (tk2.tag - tk1.tag).toNat ∧ (tk2.tag - tk1.tag).toNat < 2 ^ 23 ∧ 2 ^ 23 < (tk1.tag - tk2.tag).toNat
    ∧ (tk5.tag - tk1.tag).toNat = 0 ∧ ¬Claims.isTrue tk4 ∧ Claims.isTrue tk5 := by
  unfold Claims.isTrue
  decide +kernel

/-- An operation that computes: a marker alone, data beside a marker, an empty input. -/
theorem wit_punctuation :
    (let i : Instr := .fadd (.ch 6) (.ch 3) (.v 2) 0
     let s := eAt i full
     s.view i = some (ev s i) ∧ (∀ o ∈ [Opnd.ch 3, .v 2], (ev s i).starved o = false) ∧ heads (ev s i) [.ch 3, .v 2] = [(3, tk3)])
    ∧ (let i : Instr := .fadd (.ch 6) (.ch 1) (.ch 3) 0
       let s := eAt i full
       s.view i = some (ev s i) ∧ (∀ o ∈ [Opnd.ch 1, .ch 3], (ev s i).starved o = false)
         ∧ heads (ev s i) [.ch 1, .ch 3] = [(1, tk1), (3, tk3)])
    ∧ (let i : Instr := .fadd (.ch 6) (.ch 1) (.ch 9) 0
       let s := eAt i full
       s.view i = some (ev s i) ∧ (ev s i).starved (.ch 9) = true)
    ∧ encode (.fadd (.ch 6) (.ch 1) (.ch 3) 0) = .e 0x009A18C000#40 :=
  ⟨⟨rfl, by decide +kernel, by decide +kernel⟩, ⟨rfl, by decide +kernel, by decide +kernel⟩, ⟨rfl, by decide +kernel⟩, by decide +kernel⟩

/-- Register operands of STEER and JOIN: a data token of the kernel's round. -/
theorem wit_registers_as_tokens :
    let i : Instr := .join true (.ch 6) (.v 1) (.v 2)
    let v := ev (eAt i full) i
    (eAt i full).view i = some v ∧ v.starved (.v 1) = false ∧ isData (tokenOf v (.v 1)) ∧ heads v [.v 1, .v 2] = [] :=
  ⟨rfl, rfl, .inl rfl, rfl⟩

/-- A third copy that lags by one behind two that have forwarded tk1; the others' inputs are empty. -/
theorem wit_lagging :
    let i : Instr := .vote (.ch 6) (.ch 1) (.ch 2) 3
    let s := eAt i (fun el => { el with
      bufs := [(3, [tk2])], voter := { el.voter with window := [tk1], forwarded := 1, consumed := [1, 1, 0] } })
    let v := ev s i
    s.view i = some v ∧ (v.read (.ch 1)).tok = none ∧ (v.read (.ch 2)).tok = none ∧ holds v (.ch 3) 3 tk2
      ∧ v.el.voter.consumed = [1, 1, 0] ∧ v.el.voter.window[v.el.voter.window.length - (1 - 0)]? = some tk1 :=
  ⟨rfl, rfl, rfl, rfl, rfl, rfl⟩

/-- MARK without and with punctuation to pass; TAGGEN in a round with room and in a full one; CNT. -/
theorem wit_marks :
    (let i : Instr := .mark (.ch 6) (.v 1) (.ch 9)
     let s := eAt i full
     s.view i = some (ev s i) ∧ ((ev s i).read (.ch 9)).tok = none ∧ dataReady (ev s i) [.v 1])
    ∧ (let i : Instr := .mark (.ch 6) (.v 1) (.ch 3)
       let s := eAt i full
       s.view i = some (ev s i) ∧ holds (ev s i) (.ch 3) 3 tk3 ∧ ¬isData tk3)
    ∧ (let i : Instr := .taggen (.v 6) 0
       let s := eAt i full
       s.view i = some (ev s i) ∧ (ev s i).full = false)
    ∧ (let i : Instr := .taggen (.v 6) 0
       let s := (eAt i full).updReg 0 (fun x => { x with kernels := [(255, ⟨0, 0, 0, [(0, 1)], false⟩)] })
       s.view i = some (ev s i) ∧ (ev s i).full = true)
    ∧ (let i : Instr := .cnt 1 (.v 6) (.v 1) (.v 3) 0
       let s := eAt i full
       s.view i = some (ev s i) ∧ dataReady (ev s i) [.v 1, .v 3, .v 6]) :=
  ⟨⟨rfl, rfl, by decide +kernel, by decide +kernel⟩, ⟨rfl, rfl, by unfold isData; decide⟩, ⟨rfl, by decide +kernel⟩,
    ⟨rfl, by decide +kernel⟩, ⟨rfl, by decide +kernel, by decide +kernel⟩⟩

/-! ### Generators, requests and special nodes -/

/-- Descriptors and requests by numbers. -/
theorem descriptor_ok (win : Bool) (p : Payload) (h : (lane p 1).toNat < 2 ^ 25 ∧ 1 ≤ (lane p 2).toNat ∧ (lane p 2).toNat ≤ 64
    ∧ (∀ i < 16, 9 ≤ i → (lane p i).toNat = 0)
    ∧ (win = true → (lane p 3).toNat % 2 ^ 16 ≠ 0 ∧ (lane p 3).toNat / 2 ^ 16 ≠ 0
      ∧ (∀ j < 4, (lane p 4).toNat / 2 ^ (8 * j) % 2 ^ 8 ≠ 0) ∧ (lane p 5).toNat % 2 ^ 8 ≠ 0
      ∧ (lane p 5).toNat / 2 ^ 8 % 2 ^ 8 ≠ 0 ∧ (lane p 6).toNat < 2 ^ 16)) : descriptorOk win p :=
  ⟨h.1, h.2.1, h.2.2.1, fun i a b => h.2.2.2.1 i b a, h.2.2.2.2⟩

theorem request_ok (p : Payload) (bm : Bool) (h : 1 ≤ (lane p 2).toNat ∧ (lane p 2).toNat ≤ 64
    ∧ (bm = false → (lane p 4).toNat = 0 ∧ (lane p 5).toNat = 0) ∧ ∀ i < 16, 6 ≤ i → (lane p i).toNat = 0) : requestOk p bm :=
  ⟨h.1, h.2.1, h.2.2.1, fun i a b => h.2.2.2 i b a⟩

theorem request_legal (p : Payload) (bm : Bool) (h : (lane p 2).toNat % 2 ^ 7 ≤ 64 ∧ (lane p 2).toNat < 2 ^ 8
    ∧ (bm = false → (lane p 4).toNat = 0 ∧ (lane p 5).toNat = 0) ∧ ∀ i < 16, 6 ≤ i → (lane p i).toNat = 0) : requestLegal p bm :=
  ⟨h.1, h.2.1, h.2.2.1, fun i a b => h.2.2.2 i b a⟩

/-- A bench with one range of 64 KiB at 0x8000 that permits reads and writes, and one of 4 KiB above it that permits none. -/
def mAt (i : Instr) (f : Element → Element) : State :=
  (eAt i f).updBench 0 0 (fun y => { y with plane := { y.plane with men := true, ranges := [⟨0x8000, 0x10000, 3, true⟩, ⟨0x18000, 0x1000, 0, false⟩] } })

/-- A descriptor of an affine stream of 2 × 3 × 1 requests of 32 bytes at 0x9000; a window descriptor; one with a word too much. -/
def affineDescr : Payload := ofLanes (fun i => [0x9000#32, 0#32, 32#32, 2#32, 3#32, 1#32, 32#32, 256#32, 0#32].getD i 0#32)
def windowDescr : Payload := ofLanes (fun i => [0x9000#32, 0#32, 32#32, 0x20002#32, 0x01010101#32, 0x0101#32, 0#32].getD i 0#32)

/-- v1 holds the affine descriptor, v2 the window one, v3 neither; generator 1 has the affine one, generator 2 is exhausted. -/
def genRegs (el : Element) : Element :=
  { el with
    regs := [(1, ⟨affineDescr, false⟩), (2, ⟨windowDescr, false⟩), (3, ⟨fill 0#32, false⟩)]
    gens := [(1, { Gen.init with descr := affineDescr, win := false, pos := 5, exh := false }),
      (2, { Gen.init with descr := affineDescr, win := false, exh := true })] }

/-- The descriptors, as AGRW reads them; AGPAD, AGSTEP; AGEN from the middle of a stream, at its end, and on a window. -/
theorem wit_generators :
    descriptorOk false affineDescr ∧ descriptorOk true windowDescr ∧ ¬descriptorOk false (fill 0#32)
    ∧ (∀ c ∈ [(false, (1 : Fin 32)), (true, 2), (false, 3)], let i : Instr := .agrw 0 c.1 (.v c.2)
      (eAt i genRegs).view i = some (ev (eAt i genRegs) i))
    ∧ (let i : Instr := .agpad 1 (.v 3)
       (eAt i genRegs).view i = some (ev (eAt i genRegs) i))
    ∧ (let i : Instr := .agstep 1 (.imm 1)
       (eAt i genRegs).view i = some (ev (eAt i genRegs) i))
    ∧ (∀ g ∈ [(1 : Fin 4), 2], ∀ w : Bool, let i : Instr := if w then .agwin (.ch 6) g else .agen (.ch 6) g
      let v := ev (eAt i genRegs) i
      (eAt i genRegs).view i = some v ∧ (v.el.gens.getD g.val .init).exh = decide (g = 2)
        ∧ (v.el.gens.getD g.val .init).win = false) := by
  refine ⟨descriptor_ok _ _ (by decide +kernel), descriptor_ok _ _ (by decide +kernel),
    fun h => absurd h.2.1 (by decide +kernel),
    fun c h => ?_, rfl, rfl, fun g h w => ?_⟩ <;> simp only [List.mem_cons, List.not_mem_nil, or_false] at h
  · rcases h with rfl | rfl | rfl <;> rfl
  · rcases h with rfl | rfl <;> cases w <;> exact ⟨rfl, rfl, rfl⟩

/-- A request of n bytes at a, with the word that would hold a byte mask. -/
def ask (a n mask : Word) : Token :=
  ⟨.data, false, 0#24, 4#24, 0#8, ofLanes (fun i => [a, 0#32, n, 0#32, mask, 0#32].getD i 0#32)⟩

/-- ch1 holds such a request, ch2 the data. -/
def asks (t : Token) (el : Element) : Element := { el with bufs := [(1, [t]), (2, [tk2])] }

/-- Loads: in a range with the permission, in a range without it, in none, of no byte, of a pad word; one that is not allowed. -/
theorem wit_loadRequests :
    (∀ c ∈ [(0x9000#32, 32#32), (0x18000#32, 32#32), (0x30000#32, 32#32), (0x9000#32, 0#32), (0x9000#32, 128#32), (0x9000#32, 65#32)],
      let i : Instr := .mld 3 (.ch 1) none
      let s := mAt i (asks (ask c.1 c.2 0#32))
      let v := ev s i
      s.view i = some v ∧ v.starved (.ch 1) = false ∧ tokenOf v (.ch 1) = ask c.1 c.2 0#32 ∧ isData (ask c.1 c.2 0#32)
        ∧ (v.read (.ch 1)).val = (ask c.1 c.2 0#32).data
        ∧ inRange v 0x9000 32 ⟨0x8000, 0x10000, 3, true⟩ ∧ inRange v 0x18000 32 ⟨0x18000, 0x1000, 0, false⟩ ∧ outside v 0x30000 32)
    ∧ (∀ c ∈ [(0x9000#32, 32#32), (0x18000#32, 32#32), (0x30000#32, 32#32), (0x9000#32, 0#32), (0x9000#32, 128#32)],
        requestLegal (ask c.1 c.2 0#32).data false)
    ∧ requestLen (ask 0x9000#32 0#32 0#32).data = 0 ∧ 2 ^ 7 ≤ requestLen (ask 0x9000#32 128#32 0#32).data
    ∧ ¬requestLegal (ask 0x9000#32 65#32 0#32).data false := by
  refine ⟨fun c h => ?_, fun c h => ?_, by decide +kernel, by decide +kernel, fun h => absurd h.1 (by decide +kernel)⟩ <;>
    simp only [List.mem_cons, List.not_mem_nil, or_false] at h
  · rcases h with rfl | rfl | rfl | rfl | rfl | rfl <;>
      exact ⟨rfl, rfl, rfl, .inl rfl, rfl, by unfold inRange; decide +kernel, by unfold inRange; decide +kernel,
        by unfold outside; decide +kernel⟩
  · rcases h with rfl | rfl | rfl | rfl | rfl <;> exact request_legal _ _ (by decide +kernel)

/-- Stores with and without a byte mask, in a range, in one without the permission, and in none. -/
theorem wit_storeRequests :
    ∀ bm : Bool, ∀ a ∈ [0x9000#32, 0x18000#32, 0x30000#32],
      let i : Instr := if bm then .mstm 3 (.ch 1) (.ch 2) 0 else .mst 3 (.ch 1) (.ch 2) 0
      let t := ask a 32#32 (if bm then 0xFF#32 else 0#32)
      let s := mAt i (asks t)
      let v := ev s i
      s.view i = some v ∧ requestLegal t.data bm ∧ v.starved (.ch 1) = false ∧ v.starved (.ch 2) = false ∧ tokenOf v (.ch 1) = t
        ∧ tokenOf v (.ch 2) = tk2 ∧ isData t ∧ isData tk2 ∧ heads v [.ch 1, .ch 2] = [(1, t), (2, tk2)]
        ∧ inRange v 0x9000 32 ⟨0x8000, 0x10000, 3, true⟩ ∧ inRange v 0x18000 32 ⟨0x18000, 0x1000, 0, false⟩ ∧ outside v 0x30000 32 := by
  intro bm a h
  simp only [List.mem_cons, List.not_mem_nil, or_false] at h
  cases bm <;> rcases h with rfl | rfl | rfl <;>
    exact ⟨rfl, request_legal _ _ (by decide +kernel), rfl, rfl, rfl, rfl, .inl rfl, .inl rfl, rfl, by unfold inRange; decide +kernel,
      by unfold inRange; decide +kernel, by unfold outside; decide +kernel⟩

/-- An index token 7 in every lane with base 0x9000 in v1: MGATH, MSCAT, MPROBE; and MORD. Every lane lies in a range that
permits it; with base 0x30000 none does. -/
theorem wit_indexed :
    (∀ b ∈ [0x9000#512, 0x30000#512], ∀ i ∈ [(.mgath 3 .w .skip false (.ch 1) (.v 1) 0 : Instr), .mgath 3 .w .trap false (.ch 1) (.v 1) 0,
        .mscat 3 .w .skip false (.v 1) (.ch 1) (.v 2) 0,
        .mprobe .w false (.v 6) (.ch 1) (.v 1) 0, .mord .die none none, .mord .die none (some (.ch 1))],
      let s := mAt i (fun el => { full el with regs := [(1, ⟨b, false⟩), (2, ⟨fill 9#32, false⟩)] })
      let v := ev s i
      s.view i = some v ∧ v.starved (.ch 1) = false ∧ tokenOf v (.ch 1) = tk1
        ∧ ∀ x ∈ laneAccesses v.bench.plane (requestAddr (v.regv 1).val) .w false tk1.data (v.mask 0).val,
            (b = 0x9000#512 → ∃ r, inRange v x.addr x.len r ∧ r.perm % 2 = 1 ∧ r.perm / 2 % 2 = 1)
            ∧ (b = 0x30000#512 → rangeOf v.bench.plane x.addr x.len = none)) := by
  intro b hb i h
  simp only [List.mem_cons, List.not_mem_nil, or_false] at hb h
  rcases hb with rfl | rfl <;> rcases h with rfl | rfl | rfl | rfl | rfl | rfl <;>
    refine ⟨rfl, rfl, rfl, fun x h => ⟨fun e => ?_, fun e => ?_⟩⟩ <;>
    first
      | exact absurd e (by decide +kernel)
      | exact ⟨⟨0x8000, 0x10000, 3, true⟩, by unfold inRange; revert x; decide +kernel, rfl, rfl⟩
      | (revert x; decide +kernel)

/-- Local words from base 4, one base or one per lane. -/
theorem wit_local :
    (∀ g, let i : Instr := .lld g 1#10 (.v 6) (.v 1) 0
      (eAt i full).view i = some (ev (eAt i full) i) ∧ (ev (eAt i full) i).el.localErr = []
        ∧ (ev (eAt i full) i).lostLocal = [])
    ∧ (let i : Instr := .lst 1#10 (.v 1) (.v 2) 0
       (eAt i full).view i = some (ev (eAt i full) i))
    ∧ (let i : Instr := .lstm 1#10 (.v 1) (.v 2) 0
       let v := ev (eAt i full) i
       (eAt i full).view i = some v ∧ (v.mask 0).err = false ∧ (v.regv 1).err = false ∧ (v.regv 2).err = false)
    ∧ (let i : Instr := .lst 1#10 (.v 1) (.v 2) 0
       let f (el : Element) : Element := { full el with regs := [(2, ⟨fill 9#32, true⟩)] }
       (eAt i f).view i = some (ev (eAt i f) i) ∧ ((ev (eAt i f) i).regv 2).err = true) :=
  ⟨fun g => by cases g <;> exact ⟨rfl, rfl, by decide +kernel⟩, rfl, ⟨rfl, by decide +kernel⟩, rfl, by decide +kernel⟩

/-- Carry-save tokens of zero, with good parity. -/
def zeroTokens (k : TokKind) : Token := ⟨k, false, 0#24, 4#24, 0#8, csPayload (fun _ => csTok (Acc.init).toks 0)⟩

/-- RMW, RTAG with and without a copy, RED, CSACC and CSNORM. -/
theorem wit_special :
    (let i : Instr := .rmw .add false none (.ch 1) (.ch 2)
     (eAt i full).view i = some (ev (eAt i full) i))
    ∧ (∀ i ∈ [(.rtag 3 none (.ch 1) : Instr), .rtag 3 (some (.v 6)) (.ch 1), .red .max .i (.v 6) (.ch 1) (.ch 5) 0],
        (eAt i full).view i = some (ev (eAt i full) i) ∧ holds (ev (eAt i full) i) (.ch 1) 1 tk1 ∧ holds (ev (eAt i full) i) (.ch 5) 5 tk5)
    ∧ tk1.round = tk5.round ∧ tk1.tag = tk5.tag
    ∧ (∀ i ∈ [(.csacc 1 (.ch 6) (.ch 1) (.v 0) : Instr), .csnorm true .rne (.v 6) (.ch 1) 0],
        let s := eAt i (fun el => { el with bufs := [(1, [zeroTokens .data])] })
        s.view i = some (ev s i) ∧ holds (ev s i) (.ch 1) 1 (zeroTokens .data) ∧ ((ev s i).mask 0).err = false
          ∧ ((ev s i).el.accs.getD 1 .init).emit = false ∧ ((ev s i).el.accs.getD 1 .init).last = none)
    ∧ (∀ j < 4, (csDecode (csTok (zeroTokens .data).data j)).parOk = true) := by
  refine ⟨rfl, fun i h => ?_, rfl, rfl, fun i h => ?_, by decide +kernel⟩ <;>
    simp only [List.mem_cons, List.not_mem_nil, or_false] at h
  · rcases h with rfl | rfl | rfl <;> exact ⟨rfl, rfl, rfl⟩
  · rcases h with rfl | rfl <;> exact ⟨rfl, rfl, by decide +kernel, by decide +kernel, by decide +kernel⟩

/-- Headers of 3 indices from 5 on, and of 20 of a tree, of which the first issue lists 15. -/
def spHeader (p : Payload) (el : Element) : Element := { el with bufs := [(1, [⟨.data, false, 0#24, 4#24, 0#8, p⟩])] }

theorem wit_sparse :
    (let i : Instr := .sphdr false (.ch 6) (.ch 1)
     let s := eAt i (spHeader (ofLanes (fun k => if k = 0 then 5#32 else if k = 1 then 8#32 else 0#32)))
     s.view i = some (ev s i) ∧ ∃ t, holds (ev s i) (.ch 1) 1 t ∧ isData t)
    ∧ (let i : Instr := .sptree false (.ch 6) (.ch 1)
       let s := eAt i (spHeader 0xFFFFF#512)
       s.view i = some (ev s i) ∧ ∃ t, holds (ev s i) (.ch 1) 1 t ∧ isData t) :=
  ⟨⟨rfl, _, rfl, .inl rfl⟩, ⟨rfl, _, rfl, .inl rfl⟩⟩

/-! ### Schedule words -/

/-- A versioned page of bank group 0 at address 0: 32 lines of a committed slot of round 0, the first with four masks of ones. -/
def metaPage : Memory :=
  [(0x10000, 0x11001), (0x11000, 0x12001), (0x12000, 0x13001), (0x13000, 0x14001), (0x14000, 2 ^ 49 + 0x26F)].foldl
      (fun m e => Memory.writeBytes m e.1 (leBytes e.2 8)) []
    ++ (List.range 8).map (fun k => (2 ^ 49 + k, 0xFF#8))
    ++ (List.range 32).map (fun k => (2 ^ 49 + 0x4000 + 32 * k + 7, 0xC0#8))

/-- The bench in focus is a matrix node: sheet 3 of 64 I8 lanes, sheet 5 beside it, sheet 7 with metadata; sheet 3 takes what
group 2 reads; row pointers of group 2 at the end of rows 4 to 6; a scale token; a marker and a data token to wait for. -/
def vatAt (t : Token) : State :=
  ((State.updElem { base with
      regions := [(0, .probe)]
      mem := metaPage } 0 0 0 full).updBench 0 0 (fun y => { y with
    plane := { y.plane with
      ven := true
      sheets := [(3, ⟨.i8, 0, 8, 0, false, 0, 0⟩), (5, ⟨.i8, 8, 8, 0, false, 0, 0⟩), (7, ⟨.i8, 16, 8, 0, true, 1, 1⟩)]
      mcast := [(2, 8)] }
    node := { y.node with rows := [(2, ⟨4, 6, 6⟩)], mbase := 0, scaleBufs := [(3, [tk2, tk1])] } })).updElem 0 0 15 (fun el =>
      { el with bufs := [(1, [t, tk1])] })

/-- The region and the bench that a state holds. -/
def reg0 (s : State) : Region := s.reg 0
def bench0 (s : State) : Bench := (s.reg 0).bench 0

/-- Words on a matrix node: the bench and the sheets they name, one receiver of group 2 and none of group 0. -/
theorem wit_schedule :
    (let s := vatAt tk3
     s.regions.find? s.focus.region = some (reg0 s) ∧ (reg0 s).benches.find? s.focus.bench = some (bench0 s)
       ∧ (bench0 s).plane.sheets.find? 3 = some ⟨.i8, 0, 8, 0, false, 0, 0⟩ ∧ (bench0 s).plane.sheets.find? 5 ≠ none
        ∧ (bench0 s).plane.sheets.find? 7 = some ⟨.i8, 16, 8, 0, true, 1, 1⟩
        ∧ (reg0 s).receivers 2 = [((reg0 s).sheetKey 0 ⟨.i8, 0, 8, 0, false, 0, 0⟩, ⟨.i8, 0, 8, 0, false, 0, 0⟩)]
        ∧ (reg0 s).receivers 0 = []
        ∧ (bench0 s).node.scaleBufs.getD 3 [] = [tk2, tk1]) :=
  ⟨rfl, rfl, rfl, by decide +kernel, rfl, rfl, rfl, rfl⟩

set_option maxRecDepth 10000 in
/-- VSPMETA: the masks it reads, zero everywhere, are well formed for sheet 8; bytes of a chunk at both ends of a vector. -/
theorem wit_metadata :
    (let s := vatAt tk3
     ∃ bs, s.metaRead 0 0 2 0 = .bytes bs false
       ∧ badBlock ⟨.i8, 0, 8, 0, false, 0, 0⟩ 0 ((List.range 4).map (fun k =>
           (bs.getD (2 * k) 0#8).toNat + 256 * (bs.getD (2 * k + 1) 0#8).toNat)) = none
       ∧ min 512 ((⟨.i8, 0, 8, 0, false, 0, 0⟩ : SheetMap).dense false / 16 - 512 * 0) = 4)
    ∧ (List.replicate 1024 (0#8 : Byte)).length = 1024 := by
  exact ⟨⟨List.replicate 8 0xFF#8 ++ List.replicate 1016 0#8, by decide +kernel, by decide +kernel, rfl⟩, by simp⟩

/-- VWAIT of a data token, of one with ERR, of the node's marker, of another round's, of a DONE token. -/
theorem wit_vwait :
    ∀ t ∈ [tk1, { tk1 with err := true }, tk3, { tk3 with round := 9#24 }, { tk3 with kind := .done }],
      ((reg0 (vatAt t)).bench 0 |>.elem 15).bufs.getD 1 [] = [t, tk1]
        ∧ (bench0 (vatAt t)).node.mround = 0#24 := by
  intro t h
  simp only [List.mem_cons, List.not_mem_nil, or_false] at h
  rcases h with rfl | rfl | rfl | rfl | rfl <;> decide +kernel

/-! ### Channels, blocks and traps -/

/-- One region of one bench in graph 0, no word in flight; inputs 7 and 8 of element 0 are bound to elastic channel 4 and to
control line 2, with room for one and two tokens. -/
def dev (f : Region → Region) : State :=
  { base with regions := [(0, f (Region.probe.updBench 0 (fun y =>
      { y with plane := { y.plane with elems := [(0, { ElemRec.empty with chans := [(7, ⟨2, false, 0, 0, 1, 0, 4⟩), (8, ⟨5, false, 0, 0, 2, 0, 2⟩)] })] } })))] }

/-- Elastic channel 4 towards input 7, with what is in flight and in queue memory; one credit is back, one is not. -/
def elastic (flight : List (Nat × Token)) (q : List Token) (f : Region → Region) : State :=
  { dev f with graphs := [(0, { Graph.init with regions := [0], chans := [(4, ⟨(0, 0, 1, 3), (0, 0, 0, 7), 8, 2, 1, flight, q, [0, 9]⟩)] })] }

/-- Tokens that land in a buffer with room, behind queue memory, in a full buffer, and out of queue memory. -/
theorem wit_elastic :
    (let s := elastic [(0, tk1), (5, tk2)] [] id
     s.graphs.find? 0 = some (s.graph 0) ∧ (s.graph 0).chans.find? 4 = some ⟨(0, 0, 1, 3), (0, 0, 0, 7), 8, 2, 1, [(0, tk1), (5, tk2)], [], [0, 9]⟩
       ∧ hasElem s 0 0 0 (reg0 s) (bench0 s) ((bench0 s).elem 0)
       ∧ s.elasticRoom 4 ((s.graph 0).chans.getD 4 ⟨(0, 0, 0, 0), (0, 0, 0, 0), 0, 0, 0, [], [], []⟩) = true)
    ∧ (let s := elastic [(0, tk1)] [] (fun x => x.updElem 0 0 (fun el => { el with bufs := [(7, [tk2])] }))
       hasElem s 0 0 0 (reg0 s) (bench0 s) ((bench0 s).elem 0)
       ∧ s.elasticRoom 4 ((s.graph 0).chans.getD 4 ⟨(0, 0, 0, 0), (0, 0, 0, 0), 0, 0, 0, [], [], []⟩) = false)
    ∧ (let s := elastic [(0, tk1)] [tk2] id
       (s.graph 0).chans.find? 4 = some ⟨(0, 0, 1, 3), (0, 0, 0, 7), 8, 2, 1, [(0, tk1)], [tk2], [0, 9]⟩) :=
  ⟨⟨rfl, rfl, ⟨rfl, rfl, rfl⟩, by decide +kernel⟩, ⟨⟨rfl, rfl, rfl⟩, by decide +kernel⟩, rfl⟩

/-- Tokens on control line 2: on the line, and injected. -/
theorem wit_lines :
    (let s := dev (fun x => { x with fab := { x.fab with lines := [(2, 0, tk4)] } })
     hasElem s 0 0 0 (reg0 s) (bench0 s) ((bench0 s).elem 0) ∧ (reg0 s).lineInputs 2 = [(0, 0, 8)]
       ∧ (reg0 s).fab.lines.find? (fun l => l.1 == 2 && decide (l.2.1 ≤ (reg0 s).fab.ucycle)) = some (2, 0, tk4))
    ∧ (let s := dev (fun x => { x with seq := { x.seq with ctlq := [(2, [(0, tk4)])] } })
       hasElem s 0 0 0 (reg0 s) (bench0 s) ((bench0 s).elem 0) ∧ (reg0 s).fab.lines = []
         ∧ (reg0 s).seq.ctlq.getD 2 [] = [(0, tk4)] ∧ (reg0 s).lineRoom 2 = true) :=
  ⟨⟨⟨rfl, rfl, rfl⟩, by decide +kernel, by decide +kernel⟩, ⟨⟨rfl, rfl, rfl⟩, rfl, rfl, by decide +kernel⟩⟩

/-- A block that has fired whole, as given. -/
def ended (f : Block → Block) : State :=
  dev (fun x => { x with seq := { x.seq with g := gs, block := some (f { Block.probe [0#32, 0#32] 2 with addr := 0x400 }) } })

/-- A record. -/
def rec5 : TrapRec := ⟨0x05#8, .async, 7#57, 3#24, 11#64, 12#64, 13#64, 14#64, 0⟩

/-- Blocks that commit, by a jump and by a call, and ones that are discarded, with a cause and without an exit. -/
theorem wit_blocks :
    (∀ c : Bool, let s := ended (fun b => { b with exits := [⟨0, 0x800#64, c, 1⟩], gw := [(3, ⟨9#64, false⟩)] })
      ∃ b, s.regions.find? 0 = some (reg0 s) ∧ (reg0 s).seq.block = some b ∧ b.words.length ≤ b.idx ∧ b.exc = none
        ∧ b.exits = [⟨0, 0x800#64, c, 1⟩] ∧ b.acts = [] ∧ (reg0 s).seq.outstanding.length ≤ 64
        ∧ b.csrs.round = (reg0 s).seq.csrs.round)
    ∧ (let s := ended (fun b => { b with exc := some (1, rec5) })
       ∃ b, (reg0 s).seq.block = some b ∧ b.words.length ≤ b.idx ∧ b.slots = [] ∧ b.exc = some (1, rec5))
    ∧ (let s := ended id
       ∃ b, (reg0 s).seq.block = some b ∧ b.words.length ≤ b.idx ∧ b.slots = [] ∧ b.exc = none ∧ b.exits = []) := by
  refine ⟨fun c => ?_, ⟨_, rfl, by decide, rfl, rfl⟩, ⟨_, rfl, by decide, rfl, rfl, rfl⟩⟩
  exact ⟨_, rfl, rfl, (by decide : 2 ≤ 2), rfl, rfl, rfl, (by decide : 0 ≤ 64), rfl⟩

/-- A region at J whose acts take effect, with a matrix node. -/
theorem wit_acts : (reg0 (dev id)).seq.csrs.priv = false ∧ (reg0 (dev id)).seq.pending = []
    ∧ ((vatAt tk3).regions.find? 0).isSome = true ∧ (bench0 (vatAt tk3)).plane.ven = true := ⟨rfl, rfl, rfl, rfl⟩

/-- A trap that waits at a boundary, at J or at T, of a graph with a handler or without one. -/
def trapped (t : TrapRec) (p : Bool) (handler : Nat) : State :=
  { dev (fun x => { x with seq := { x.seq with pending := [t], csrs := { x.seq.csrs with priv := p, handler := 0x900#57 } } }) with
    sup := { State.reset.sup with activeDie := some 0 }
    jobs := [(0, { Job.init with tree := [(0, { TNode.init with eff := { NodeEff.init with handler := handler } })] })] }

theorem wit_traps :
    (let s := trapped { rec5 with kind := .block, cause := 0x01#8 } false 0x900
     ∃ t, s.regions.find? 0 = some (reg0 s) ∧ (reg0 s).seq.atBoundary = true ∧ (reg0 s).seq.nextTrap = some (t, false)
       ∧ s.nextDest 0 (t, false) = 0)
    ∧ (∀ p, let s := trapped { rec5 with kind := .block, cause := 0x42#8 } p 0
       ∃ t, s.regions.find? 0 = some (reg0 s) ∧ (reg0 s).seq.atBoundary = true ∧ (reg0 s).seq.nextTrap = some (t, false)
         ∧ 0 < s.nextDest 0 (t, false) ∧ s.sup.activeDie ≠ none ∧ (reg0 s).seq.csrs.priv = p)
    ∧ (let s := { dev (fun x => { x with seq := { x.seq with hold := { x.seq.hold with atS := some (rec5, false) } } }) with
         sup := { State.reset.sup with activeDie := some 0 } }
       (reg0 s).seq.hold.atS = some (rec5, false) ∧ (reg0 s).seq.hold.atSPriv = false ∧ s.sup.activeDie ≠ none) := by
  refine ⟨⟨_, rfl, rfl, rfl, by decide +kernel⟩, fun p => ?_, ⟨rfl, rfl, by decide +kernel⟩⟩
  cases p <;> exact ⟨_, rfl, by decide +kernel, rfl, by decide +kernel, by decide +kernel, rfl⟩

/-- A sequencer with a round to void when its handler returns, and one without. -/
theorem wit_trapReturn : Seq.init.deferred = none
    ∧ (let q : Seq := { Seq.init with
        deferred := some 5#24, checkpoints := [(5, ⟨gs, [], 0x40#64, 5#24, 0#4, 0#57, false, false, none⟩)] }
       ∃ c, q.deferred = some 5#24 ∧ q.checkpoints.find? (5#24 : BitVec 24).toNat = some c) := ⟨rfl, _, rfl, rfl⟩

set_option maxRecDepth 10000 in
/-- A line of mapped memory whose time has come. -/
theorem wit_lineFill :
    let s := dev (fun x => { x with seq := { x.seq with filling := some (0x12000, 0) } })
    ∃ parts bs err, s.regions.find? 0 = some (reg0 s) ∧ (reg0 s).seq.filling = some (0x12000, 0)
      ∧ s.seqCheck (reg0 s).job 3 none 0x12000 64 = .ok parts ∧ s.readParts (reg0 s).writer none parts = .bytes bs err :=
  ⟨_, _, _, rfl, rfl, rfl, rfl⟩

/-! ### Memory port, owner, results, sheets, rounds and planes -/

/-- One request of stream 3 for 32 bytes at a, in a state. -/
def req (k : ReqKind) (a : Nat) (st : ReqState) : Request :=
  ⟨3, k, 0#24, 4#24, false, 32, none, [⟨a, 32, 0, if a = 2 ^ 31 then 1 else if a = 2 ^ 30 then 2 else 0, false⟩], 0xFFFF#16,
    BitVec.allOnes 64, fill 5#32, st, 0, 9, 0x77#64, 4#24, []⟩

/-- A bench with the ranges of `mAt`, a range at 2^31 with no page behind it, input 9 of element 0 bound to stream 3, and requests. -/
def port (qs : List Request) : State :=
  (dev id).updBench 0 0 (fun y => { y with
    port := { y.port with reqs := qs }
    plane := { y.plane with
      men := true
      ranges := [⟨0x8000, 0x10000, 7, false⟩, ⟨2 ^ 31, 0x1000, 3, false⟩, ⟨2 ^ 30, 0x1000, 3, false⟩]
      elems := [(0, { ElemRec.empty with chans := [(9, ⟨3, false, 0, 0, 2, 0, 3⟩)] })] } })

set_option maxRecDepth 10000 in
/-- Walks that translate, that park (a page that is not there) and that fail (a versioned page in a range without VER). -/
theorem wit_walks :
    (let s := port [req (.load none) 0x9000 .waiting]
     hasBench s 0 0 (reg0 s) (bench0 s)
       ∧ (bench0 s).port.reqs.find? (fun q => q.stream == 3 && (bench0 s).port.walking s.cycle q) = some (req (.load none) 0x9000 .waiting)
       ∧ ∃ parts, s.reqWalk 0 0 (req (.load none) 0x9000 .waiting) = .ok parts)
    ∧ (let s := port [req (.load none) (2 ^ 31) .waiting]
       ∃ va reason, s.reqWalk 0 0 (req (.load none) (2 ^ 31) .waiting) = .park va reason ∧ (s.die (reg0 s).place.die).freeParked = some 0)
    ∧ (let s := port [req (.load none) (2 ^ 30) .waiting]
       (∃ c i0 i2 i3, s.reqWalk 0 0 (req (.load none) (2 ^ 30) .waiting) = .fail c i0 i2 i3) ∧ s.graphs.find? (reg0 s).graph ≠ none) :=
  ⟨⟨⟨rfl, rfl⟩, rfl, _, rfl⟩, ⟨_, _, rfl, by decide +kernel⟩, ⟨⟨_, _, _, _, rfl⟩, by decide +kernel⟩⟩

/-- A probe of the register file, whose pages fit the pin set or would be the 65th. -/
def probe : Request := { req (.probe (.reg 6)) 0x9000 .waiting with stream := probeStream }

def probing (pins : List Pin) : State :=
  (port [probe]).updBench 0 0 (fun y => { y with port := { y.port with pins := [(0, pins)] } })

set_option maxRecDepth 10000 in
theorem wit_probes :
    ∀ n ∈ [0, 64], let s := probing ((List.range n).map (fun k => ⟨2 ^ 32 + k * 4096, 4096, k, 0⟩))
      ∃ parts, hasBench s 0 0 (reg0 s) (bench0 s)
        ∧ (bench0 s).port.reqs.find? (fun q => q.stream == probeStream && (bench0 s).port.walking s.cycle q) = some probe
        ∧ s.reqWalk 0 0 probe = .ok parts ∧ (bench0 s).elems.find? 0 ≠ none ∧ s.graphs.find? (reg0 s).graph ≠ none
        ∧ (if n = 0 then ∃ pins, addPins ((bench0 s).port.pinned 0#24) parts = .ok pins
           else ∃ page, addPins ((bench0 s).port.pinned 0#24) parts = .error page) := by
  intro n h
  simp only [List.mem_cons, List.not_mem_nil, or_false] at h
  rcases h with rfl | rfl
  · exact ⟨_, ⟨rfl, rfl⟩, rfl, rfl, by decide +kernel, by decide +kernel, _, rfl⟩
  · exact ⟨_, ⟨rfl, rfl⟩, rfl, rfl, by decide +kernel, by decide +kernel, _, rfl⟩

/-- An entry of the parked-access table for that request, on the page of va; its retry is due. -/
def parkedRec (va : Nat) : Parked := ⟨0, 0, 3, 9, 0x77#64, va, 0, 1, 1, 0#24, false, 0, 9, false, 0⟩

/-- A parked access whose retry is due, on a page that is still away or is there; one that waits; a spent budget. -/
def parkedAt (a va : Nat) (f : Die → Die) : State :=
  { port [req (.load none) a .parked] with dies := [(0, f { Die.init with parked := [(0, parkedRec va)] })] }

set_option maxRecDepth 10000 in
theorem wit_parked :
    (∀ a ∈ [2 ^ 31, 0x9000], let s := parkedAt a a id
      ∃ p, (s.die 0).parked.find? 0 = some p ∧ p.retryAt ≤ s.cycle ∧ p.probe = false
        ∧ (s.port p.region p.bench).reqs.find? (fun q => q.seq == p.seq && q.stream == p.stream && q.state == .parked)
          = some (req (.load none) a .parked)
        ∧ hasBench s p.region p.bench (reg0 s) (bench0 s) ∧ (s.reg p.region).place.die = 0)
    ∧ (∃ reason, (parkedAt (2 ^ 31) (2 ^ 31) id).reqWalk 0 0 (req (.load none) (2 ^ 31) .parked) = .park (2 ^ 31) reason)
    ∧ (∃ reason, (parkedAt (2 ^ 31) 0x9000 id).reqWalk 0 0 (req (.load none) (2 ^ 31) .parked) = .park (2 ^ 31) reason ∧ 2 ^ 31 ≠ (parkedRec 0x9000).va)
    ∧ (∃ parts, (parkedAt 0x9000 0x9000 id).reqWalk 0 0 (req (.load none) 0x9000 .parked) = .ok parts)
    ∧ (let s := parkedAt 0x9000 0x9000 (fun d => { d with parkWait := [parkedRec 0] })
       ∃ p, (s.die 0).parkWait = [p] ∧ (s.die 0).freeParked = some 1 ∧ (s.reg p.region).place.die = 0)
    ∧ (∀ q, let s := (dev id).updReg 0 (fun x => { x with fab := { x.fab with budget := 42500, budgetParked := q } })
       s.regions.find? 0 = some (reg0 s) ∧ s.graphs.find? (reg0 s).graph ≠ none ∧ s.freezeBudget 0 ≤ (reg0 s).fab.budget
         ∧ (reg0 s).fab.budgetParked = q) := by
  refine ⟨fun a h => ?_, ⟨_, rfl⟩, ⟨_, rfl, by decide⟩, ⟨_, rfl⟩, ⟨_, rfl, by decide +kernel, rfl⟩, fun q => ?_⟩
  · simp only [List.mem_cons, List.not_mem_nil, or_false] at h
    rcases h with rfl | rfl <;> exact ⟨_, rfl, by decide, rfl, rfl, ⟨rfl, rfl⟩, rfl⟩
  · cases q <;> exact ⟨rfl, by decide +kernel, by decide +kernel, rfl⟩

set_option maxRecDepth 10000 in
/-- A load and a store whose turn has come, and a reply with room to land. -/
theorem wit_performed :
    (let q := req (.load none) 0x9000 .translated
     let s := port [q]
     ∃ p bs, hasBench s 0 0 (reg0 s) (bench0 s) ∧ (bench0 s).port.next 3 = some q ∧ (bench0 s).port.released q = true
       ∧ s.reqWalk 0 0 q = .ok [p] ∧ s.reqHeld (s.reqTouched 0 q [p]) = false ∧ s.readReq 0 0 q = .bytes bs false ∧ bs.length ≤ 64)
    ∧ (let q := req .store 0x9000 .translated
       let s := port [q]
       ∃ p, hasBench s 0 0 (reg0 s) (bench0 s) ∧ (bench0 s).port.next 3 = some q ∧ (bench0 s).port.released q = true
         ∧ s.reqWalk 0 0 q = .ok [p] ∧ s.reqHeld (s.reqTouched 0 q [p]) = false
         ∧ peVerp p.leaf.entry = false ∧ p.len = 32)
    ∧ (let q := req (.load none) 0x9000 .performed
       let s := port [q]
       (bench0 s).port.reqs.find? (fun q => q.stream == 3) = some q ∧ (bench0 s).streamInput 3 = some (0, 9)
         ∧ (reg0 s).bufFull 0 0 9 = false ∧ (bench0 s).elems.find? 0 = some ((bench0 s).elem 0)) :=
  ⟨⟨_, List.replicate 32 0#8, ⟨rfl, rfl⟩, rfl, rfl, rfl, by decide +kernel, by decide +kernel, by decide⟩, ⟨_, ⟨rfl, rfl⟩, rfl, rfl, rfl, by decide +kernel, rfl, rfl⟩,
    ⟨rfl, rfl, by decide +kernel, rfl⟩⟩

/-- An owner with one update in its window: 7 for the word at 0x9000. -/
def update : Token := ⟨.data, false, 0#24, 4#24, 0#8, ofLanes (fun i => [0x9000#32, 0#32, 7#32].getD i 0#32)⟩
def owning (op : RmwOp) : State :=
  (port []).updBench 0 0 (fun y => { y with
    port := { y.port with owner := { y.port.owner with cfg := some (.rmw op false none (.ch 1) (.v 0)), window := [⟨1, update⟩] } } })

set_option maxRecDepth 10000 in
theorem wit_owner :
    ∀ op ∈ [RmwOp.add, .and, .or, .xor, .minn, .maxn, .xch],
      let s := owning op
      let o := (bench0 s).port.owner
      ∃ p, hasBench s 0 0 (reg0 s) (bench0 s) ∧ o.cfg = some (.rmw op false none (.ch 1) (.v 0)) ∧ o.out = none
        ∧ o.window = [⟨1, update⟩] ∧ update.round = o.round ∧ ((bench0 s).elem 0).bufs.getD 1 [] = []
        ∧ (bench0 s).plane.ranges.find? (fun r => decide (r.base ≤ 0x9000 ∧ 0x9000 + 4 ≤ r.base + r.len)) = some ⟨0x8000, 0x10000, 7, false⟩
        ∧ (bench0 s).plane.men = true ∧ s.portWalk 0 2 false 0x9000 4 (s.port 0 0).pinSet = .ok [p] ∧ s.reqHeld [p.leaf.pa] = false ∧ s.badBytes p.leaf.pa 4 = false ∧ (o.undo.getD 0 []).length < 64 := by
  intro op h
  simp only [List.mem_cons, List.not_mem_nil, or_false] at h
  rcases h with rfl | rfl | rfl | rfl | rfl | rfl | rfl <;> exact ⟨_, ⟨rfl, rfl⟩, rfl, rfl, rfl, rfl, rfl, rfl, rfl, rfl, by decide +kernel, by decide +kernel, by decide⟩

theorem wit_update : opndChan (.ch 1) = some 1 ∧ opndChan (.v 0) = none ∧ isData update ∧ update.err = false
    ∧ requestAddr update.data = 0x9000 ∧ ∀ i < 16, 3 ≤ i → lane update.data i = 0#32 := by
  refine ⟨rfl, rfl, .inl rfl, rfl, by decide +kernel, by decide +kernel⟩

/-- Results for a register, for m3 and m0, due and not due. -/
theorem wit_results :
    ∀ d ∈ [Dst.reg 4, .mask 3, .mask 0], ∀ t ∈ [0, 5],
      let p : Pending := ⟨t, 1, d, tk1, 0x00FF#16, 0#64⟩
      let s := dev (fun x => x.updElem 0 0 (fun el => { full el with pipe := [p] }))
      hasElem s 0 0 0 (reg0 s) (bench0 s) ((bench0 s).elem 0) ∧ ((bench0 s).elem 0).pipe = [p] ∧ (reg0 s).fab.ucycle = 0 := by
  intro d h t h'
  simp only [List.mem_cons, List.not_mem_nil, or_false] at h h'
  rcases h with rfl | rfl | rfl <;> rcases h' with rfl | rfl <;> exact ⟨⟨rfl, rfl, rfl⟩, rfl, rfl⟩

/-- A sheet whose queue begins with a merge, with a clear and with a drain to channel 6 of element 15. -/
def sheetQ (op : SheetOp) : State :=
  dev (fun x => (x.updBench 0 (fun y => { y with plane := { y.plane with elems := [(15, { ElemRec.empty with chans := [(6, ⟨4, false, 0, 0, 1, 0, 3⟩)] })] } })).updSheet
    0 (fun sh => { sh with queue := [op] }))

theorem wit_sheets :
    ∀ op ∈ [SheetOp.fire 5#128 true false 0, .zero 0, .mark 0, .drain 0 3 2 true true 0 0 0#24 4#24 0, .drain 0 3 3 false true 0 7 0#24 4#24 0],
      let s := sheetQ op
      hasElem s 0 0 15 (reg0 s) (bench0 s) ((bench0 s).elem 15) ∧ ((reg0 s).sheet 0).queue = [op] ∧ (reg0 s).fab.ucycle = 0
        ∧ (reg0 s).vatChan 0 3 false = some 6 := by
  intro op h
  simp only [List.mem_cons, List.not_mem_nil, or_false] at h
  rcases h with rfl | rfl | rfl | rfl | rfl <;> exact ⟨⟨rfl, rfl, rfl⟩, rfl, rfl, by decide +kernel⟩

/-- A graph that is held and may replay; one whose round is complete and one whose round is not; a finished region. -/
def graphOf (f : Graph → Graph) (g : Region → Region) : State :=
  { dev g with graphs := [(0, f { Graph.init with regions := [0] })] }

theorem wit_rounds_of_graphs :
    (let s := graphOf (fun x => { x with held := true }) id
     hasGraph s 0 (s.graph 0) ∧ s.mayReplay 0 = true ∧ 0 ∈ (s.graph 0).regions ∧ s.regions.find? 0 = some (reg0 s))
    ∧ (let s := graphOf id id; s.mayReplay 0 = false ∧ ¬commits s 0 (s.graph 0).next)
    ∧ (let s := graphOf id (fun x => { x with seq := { x.seq with csrs := { x.seq.csrs with round := 1#24 } } })
       commits s 0 (s.graph 0).next)
    ∧ (let s := graphOf id (fun x => { x with life := .finished }); (reg0 s).life = .finished) := by
  refine ⟨⟨rfl, by decide +kernel, by decide +kernel, rfl⟩, ⟨by decide +kernel, by unfold commits; decide +kernel⟩, ?_, rfl⟩
  unfold commits
  decide +kernel

/-- The supervisor copy of an image has no error, or one in the record of context 0 and bench 0. -/
def switching (w : Option Switching) (sh : Nat) (bad : List Nat) (el : Element → Element) : State :=
  { (dev (fun x => { (x.updElem 0 0 el) with switching := w })).updBench 0 0 (fun y =>
      { y with shadow := { y.shadow with state := sh, img := 1 } }) with
    jobs := [(0, { Job.init with images := [(1, { Image.empty with bad := bad })] })] }

/-- A switch that may begin, one with a token left, one that has begun, one that is over; a fill without and with an error. -/
theorem wit_switches :
    (∀ p, let s := switching (some ⟨0#24, none, p, false⟩) 2 [] id
     hasBench s 0 0 (reg0 s) (bench0 s) ∧ s.drained 0 ⟨0#24, none, p, false⟩ = true ∧ (reg0 s).filling = false ∧ (reg0 s).spoiled = false
       ∧ (reg0 s).shape = none ∧ s.unmatched 0 ⟨0#24, none, p, false⟩ = none)
    ∧ (let s := switching (some ⟨0#24, none, false, false⟩) 2 [] (fun el => { el with bufs := [(7, [tk1])] })
       s.drained 0 ⟨0#24, none, false, false⟩ = true ∧ (reg0 s).filling = false ∧ (reg0 s).spoiled = false
         ∧ (reg0 s).shape = none ∧ s.unmatched 0 ⟨0#24, none, false, false⟩ = some tk1 ∧ s.graphs.find? (reg0 s).graph ≠ none)
    ∧ (let s := { switching (some ⟨0#24, some 4, false, false⟩) 2 [] id with cycle := 5 }
       (reg0 s).switching = some ⟨0#24, some 4, false, false⟩ ∧ s.cycle = 4 + 1 ∧ (reg0 s).refill ≠ 3 ∧ (reg0 s).owed = [])
    ∧ (∀ e ∈ [[], [Image.recOff (Image.empty) 0 0]], let s := switching none 1 e id
       (bench0 s).shadow.state = 1 ∧ (bench0 s).shadow.doneAt ≤ s.cycle ∧ (bench0 s).shadow.queue = [] ∧ (reg0 s).life ≠ .filling ∧ (reg0 s).refill = 0
         ∧ ((s.image 0 (bench0 s).shadow.img).badUnit (bench0 s).shadow.ctx 0).isSome = (e != []) ∧ (reg0 s).seq.pending = []) := by
  refine ⟨fun p => ?_, ⟨by decide +kernel, rfl, by decide +kernel, rfl, by decide +kernel, by decide +kernel⟩, ⟨rfl, rfl, by decide +kernel, rfl⟩, fun e h => ?_⟩
  · cases p <;> exact ⟨⟨rfl, rfl⟩, by decide +kernel, by decide +kernel, by decide +kernel, rfl, by decide +kernel⟩
  · simp only [List.mem_cons, List.not_mem_nil, or_false] at h
    rcases h with rfl | rfl <;> exact ⟨rfl, by decide +kernel, rfl, by decide +kernel, rfl, by decide +kernel, rfl⟩

set_option maxRecDepth 10000 in
/-- Arrivals at a well-formed object that expects two, at its last, at a malformed one; a flag add. -/
theorem wit_arrivals :
    ∀ n ∈ [0x2000000, 0x2000001, 0x2000002], let s : State := { dev id with mem := tables.writeBytes 0x9000 (leBytes n 8) }
      ∃ p, objectAt s 0 0x9000 p ∧ s.mem.readNat p.leaf.pa 16 = n ∧ s.regions.find? 0 = some (reg0 s) ∧ (reg0 s).seq.pending = []
        ∧ s.seqCheck 0 2 (some false) 0x9000 8 ≠ .ok [] := by
  intro n h
  simp only [List.mem_cons, List.not_mem_nil, or_false] at h
  rcases h with rfl | rfl | rfl <;> exact ⟨_, ⟨rfl, rfl, by decide +kernel⟩, by decide +kernel, rfl, rfl, by decide +kernel⟩

/-! ### Launches, gangs, pre-emption and capacity -/

/-- Effective values of every node of the launch below. -/
def eff1 : NodeEff := { NodeEff.init with benches := 4, segs := 4, mem := 2 ^ 40, share := 1 }

/-- A launch of one graph of one region whose image, checked, asks for one bench, with a second image at 0x38000. -/
def job1 : Job :=
  { Job.init with
    root := 0x10000
    tree := [(0, { TNode.init with kids := [1], eff := eff1 }), (1, { TNode.init with kids := [2], eff := eff1 }),
      (2, { TNode.init with
        parent := 1, eff := { eff1 with policy := 2 ^ 10 }, words := List.replicate 8 0#64 ++ [0x30000#64]
        alts := [(0x38000, 0, 0, 1)] })]
    images := [(0x30000, { Image.empty with addr := 0x30000, mapped := true, checked := [2] }),
      (0x38000, { Image.empty with addr := 0x38000, mapped := true, checked := [2] })] }

/-- A package that holds the launch, and perhaps its graph with its region. -/
def launched (f : Job → Job) : State := { State.reset with mem := tables, jobs := [(0, f job1)] }
def resident (f : Job → Job) (g : Graph → Graph) (h : Region → Region) : State :=
  { launched (fun j => f { j with state := 2 }) with
    graphs := [(0, g { Graph.init with node := 1, regions := [0] })]
    regions := [(0, h { (dev id).reg 0 with node := 2, place := { Placement.init with img := 0x30000 } })]
    nextId := 1 }

/-- A trap that waits at S in a running region of a launch, whose graph is held or not. -/
theorem wit_supervisorEnds :
    ∀ q : Bool, let s := resident id (fun g => { g with held := q }) (fun x => { x with seq := { x.seq with hold := { x.seq.hold with atS := some (rec5, false) } } })
      s.regions.find? 0 = some (reg0 s) ∧ (reg0 s).seq.hold.atS = some (rec5, false) ∧ active s
        ∧ liveJob s (reg0 s).job (s.job 0) ∧ (reg0 s).life = .running ∧ s.graphs.find? (reg0 s).graph ≠ none
        ∧ s.unit 0 = [0] := by
  intro q
  unfold active liveJob
  cases q <;> exact ⟨rfl, rfl, by decide +kernel, ⟨rfl, by decide +kernel, by decide⟩, rfl, by decide +kernel, by decide +kernel⟩

/-- Work queue 5 with sixteen slots at 0x20000, enabled for the local path and any chip. -/
def queue5 (ms : List (Nat × Nat)) (f : WQueue → WQueue) : State :=
  { launched id with
    mem := ms.foldl (fun m e => Memory.writeBytes m e.1 (leBytes e.2 8)) tables
    sup := { Sup.init with
      queues := [(5, f { WQueue.init with
        words := [0x20000#64, dw (4 * 2 ^ 59 + 2 ^ 58 + 2 ^ 55 + 2 ^ 53), 0#64, 0#64, 0#64, 0#64, 0#64, 0#64]
        key := some 7#256, root := 0x10000 })] } }

/-- A notify of one packet: accepted with its tag, and dropped for its number, its reserved bits, a false tag, a queue with
no key; and with no complex active. -/
def ring (dw0 dw1 : DWord) : NotifyMsg :=
  ⟨.localPath, 0#22, dw0, dw1, kmac128 7#256 "VSQ4 NOTIFY" ((queue5 [] id).notifyBody 0#22 dw0 dw1)⟩

theorem wit_notifies :
    (let s := queue5 [] id
     let n := ring 0x10005#64 0x100000000#64
     s.notifyCheck n.path n.src n.dw0 n.dw1 none n.tag = .accepted ∧ active s ∧ s.sup.queues.find? (n.dw0.toNat % 4096) ≠ none)
    ∧ (let s := queue5 [] id; s.notifyCheck .localPath 0#22 0x5#64 0x100000000#64 none 0#128 = .stale)
    ∧ (let s := queue5 [] id; s.notifyCheck .localPath 0#22 0x11005#64 0x100000000#64 none 0#128 = .malformed)
    ∧ (let s := queue5 [] (fun d => { d with key := none })
       s.notifyCheck .localPath 0#22 0x10005#64 0x100000000#64 none 0#128 = .unroutable)
    ∧ ({ queue5 [] id with sup := { (queue5 [] id).sup with activeDie := none } } : State).sup.activeDie = none := by
  refine ⟨⟨?_, by unfold active; decide +kernel, by decide +kernel⟩, by decide +kernel, by decide +kernel, by decide +kernel, rfl⟩
  have h : ∀ k : BitVec 128, (queue5 [] id).notifyCheck .localPath 0#22 0x10005#64 0x100000000#64 none k
      = if k = kmac128 7#256 "VSQ4 NOTIFY" ((queue5 [] id).notifyBody 0#22 0x10005#64 0x100000000#64) then .accepted else .badTag :=
    fun _ => rfl
  exact (h _).trans (if_pos rfl)

/-- A report message whose tag is the key's. -/
theorem wit_reports :
    let s := queue5 [] id
    let t := reportTag 7#256 0x10005#64 0#64 0#22 (leBytes (9#512 : BitVec 512).toNat 64)
    s.notifyCheck .localPath 0#22 0x10005#64 0#64 (some 9#512) t = .accepted := by
  have h : ∀ k : BitVec 128, (queue5 [] id).notifyCheck .localPath 0#22 0x10005#64 0#64 (some 9#512) k
      = if k = reportTag 7#256 0x10005#64 0#64 0#22 (leBytes (9#512 : BitVec 512).toNat 64) then .accepted else .badTag := fun _ => rfl
  exact (h _).trans (if_pos rfl)

set_option maxRecDepth 10000 in
/-- Packets in turn: a launch of a new LID, of a known one, a cancel and a query of a launch of the queue. -/
theorem wit_packets :
    (∀ c ∈ [(2 ^ 56 + 3, Event.launchPacket 5), (2 ^ 56 + 9, .launchPacket 5), (2 * 2 ^ 56 + 9, .cancelPacket 5), (3 * 2 ^ 56 + 9, .queryPacket 5)],
      let s : State := { queue5 [(0x20000, c.1)] (fun d => { d with words := d.words.set 2 0x100000000#64 }) with
        jobs := [(0, { job1 with lid := 9#32, queue := 5, state := 1 })], nextId := 1 }
      let d := s.sup.queues.getD 5 .init
      s.sup.queues.find? 5 = some d ∧ d.head ≠ d.tail ∧ active s ∧ s.tableFull = false ∧ s.packetEvent 5 = c.2
        ∧ (s.packet 5).bad = false ∧ (s.packet 5).deps = [] ∧ s.nvm.chipOk = true ∧ d.remote = false ∧ d.outcomes = []
        ∧ s.liveJob 5 (s.packet 5).lid = (if (s.packet 5).lid = 9#32 then some 0 else none) ∧ s.nextId ≠ queueSpace) := by
  intro c h
  simp only [List.mem_cons, List.not_mem_nil, or_false] at h
  unfold active
  rcases h with rfl | rfl | rfl | rfl <;>
    exact ⟨rfl, by decide +kernel, by decide +kernel, by decide +kernel, by decide +kernel, by decide +kernel, by decide +kernel, rfl,
      rfl, rfl, by decide +kernel, by decide⟩

/-- A residency report that is due, and one that is not: 85,000 cycles after the last one, and none. -/
theorem wit_residency :
    ∀ t ∈ [0, 85000], let s : State := { queue5 [] id with sup := { (queue5 [] id).sup with schedQ := some 5, resDirty := true }, cycle := t }
      s.sup.schedQ = some 5 ∧ s.residencyDue = decide (t ≠ 0) ∧ s.time < s.sup.resLast + ms 10 := by
  intro t h
  simp only [List.mem_cons, List.not_mem_nil, or_false] at h
  rcases h with rfl | rfl <;> exact ⟨rfl, by decide +kernel, by decide +kernel⟩

/-- Derrick's order of the dies. -/
theorem dieOrder_cases (t : Nat) : dieOrder t ∈ [[0, 1, 2, 3], [1, 2, 3, 0], [2, 3, 0, 1], [3, 0, 1, 2]] := by
  have h : Config.diePreference t % 4 < 4 := Nat.mod_lt _ (by decide)
  have e : ∀ k, (k + Config.diePreference t) % 4 = (k + Config.diePreference t % 4) % 4 := by omega
  simp only [dieOrder, e]
  generalize Config.diePreference t % 4 = n at h
  have : ∀ n < 4, (upTo 4).map (fun k => (k + n) % 4) ∈ [[0, 1, 2, 3], [1, 2, 3, 0], [2, 3, 0, 1], [3, 0, 1, 2]] := by decide
  exact this n h

/-- With a spot free on every die, one region is placed on some die. -/
theorem spread_one (s : State) (tk j n : Nat) (need : Need) (o : Occ) (p : Nat → Spot)
    (h : ∀ d < 4, s.spotOn o need d = some (p d)) (hb : ∀ d < 4, s.budgetFits j [] [(n, need)] [(n, p d)] = true) :
    ∃ d < 4, s.spread tk j [] [(n, need)] o = some [(n, p d)] := by
  have := dieOrder_cases tk
  simp only [List.mem_cons, List.not_mem_nil, or_false] at this
  rcases this with e | e | e | e <;>
    simp [State.spread, State.spreadUnits, setsOf, State.spotsFor, e, h, hb, List.findSome?, List.eraseDups_cons]
  · exact ⟨0, by decide, rfl⟩
  · exact ⟨1, by decide, rfl⟩
  · exact ⟨2, by decide, rfl⟩
  · exact ⟨3, by decide, rfl⟩

/-- What the launch's region asks for. -/
def need1 (img : Nat) : Need := Need.of 0 2 [2] ((job1.images).getD img .empty)
def ask1 : Ask := ⟨1, 2, 0x30000, need1 0x30000⟩

/-- The images need a bench and nothing else. -/
theorem grants_fit : ∀ d < 4, ∀ img ∈ [0x30000, 0x38000], grantsFit (launched id) d (job1.images.getD img .empty) := by
  unfold grantsFit
  decide +kernel

set_option maxRecDepth 100000 in
/-- A launch that fits, and one with a dependence that has failed. -/
theorem wit_placement :
    (let s := launched id
     let s1 := s.makeGraphs 0
     let s2 := s1.markChecked 0 [ask1]
     let s3 := s2.ticket.1
     liveJob s 0 job1 ∧ active s ∧ job1.state = 1 ∧ s.mayPlace 0 = true ∧ job1.grantWait = none ∧ job1.gangs = []
       ∧ s1.unplaced 0 = [(1, 2)] ∧ s1.asksOf 0 [(1, 2)] = .ok [ask1] ∧ s2.withinBudget 0 [ask1] = [ask1]
       ∧ ∃ p, s3.spread s2.tickets 0 [] [(ask1.node, ask1.need)] (s3.occupied []) = some [(ask1.node, p)]
         ∧ grantsFit s p.die ((s2.job 0).images.getD ask1.img .empty))
    ∧ (let s : State := { launched (fun j => { j with deps := [(8#32, false)] }) with
         jobs := [(0, { job1 with deps := [(8#32, false)] }), (1, { job1 with lid := 8#32, state := 5 })] }
       s.depState 0 (8#32, false) = some false) := by
  refine ⟨⟨⟨rfl, by decide, by decide⟩, by unfold active; decide, rfl, by decide +kernel, rfl, rfl, by decide +kernel, rfl,
    by decide +kernel, ?_⟩, by decide +kernel⟩
  obtain ⟨d, hd, h⟩ := spread_one ((((launched id).makeGraphs 0).markChecked 0 [ask1]).ticket.1)
    (((launched id).makeGraphs 0).markChecked 0 [ask1]).tickets 0 2 ask1.need
    (((((launched id).makeGraphs 0).markChecked 0 [ask1]).ticket.1).occupied []) (fun d => ⟨d, 0, 0, [], [], 0⟩)
    (by decide +kernel) (by decide +kernel)
  exact ⟨_, h, grants_fit d hd 0x30000 (by decide)⟩

set_option maxRecDepth 100000 in
/-- A launch that its bench budget turns away, and a graph whose region has just begun to run. -/
theorem wit_placementEnds :
    (let s := launched (fun j => { j with tree := j.tree.modify 2 (fun n => { n with eff := { n.eff with benches := 0 } }) })
     let s1 := s.makeGraphs 0
     liveJob s 0 (s.job 0) ∧ (s.job 0).state = 1 ∧ s.regions = [] ∧ (s.job 0).deps = [] ∧ s.mayPlace 0 = true ∧ s1.unplaced 0 ≠ []
       ∧ s1.asksOf 0 (s1.unplaced 0) = .error (1, 0x9C, [2#64]))
    ∧ (let s := resident id id id
       hasGraph s 0 (s.graph 0) ∧ (s.graph 0).regions = [0] ∧ s.regions.find? 0 = some (reg0 s) ∧ (reg0 s).graph = 0
         ∧ (reg0 s).unrecorded = true) := by
  unfold liveJob
  exact ⟨⟨⟨rfl, by decide, by decide⟩, rfl, rfl, rfl, by decide +kernel, by decide +kernel, rfl⟩, rfl, rfl, rfl, rfl, by decide +kernel⟩

/-- A launch whose job node (0) or graph node (1) is member 1 of a gang of two, coupled, with its seat in a state. -/
def gang (a : Nat) (f : Seat → Seat) (j : Job) : Job :=
  { j with
    gangs := [(a, f .init)]
    tree := j.tree.modify a (fun n => { n with
      eff := { eff1 with policy := 2 ^ 13 }, words := List.replicate 5 0#64 ++ [0x70000000200#64, 0x10001000000#64] }) }

/-- A gang ready to start; deadlines of its start, of a restart and of a lost member that have passed; a member that is lost
here, and reports of others. -/
theorem wit_gangs :
    (let s := resident (gang 0 (fun S => { S with placed := [0], deadline := some 5 })) id
       (fun x => { x with life := .starting, seq := { x.seq with hold := { x.seq.hold with quiet := true } } })
     liveJob s 0 (s.job 0) ∧ (s.job 0).gangs = [(0, (s.job 0).seat 0)] ∧ (s.job 0).seatReady 0 = true
       ∧ ((s.job 0).seat 0).deadline ≠ none ∧ s.memberRegions 0 0 Life.off = [] ∧ hasGraph s 0 (s.graph 0)
       ∧ (s.graph 0).job = 0 ∧ (s.job 0).covers 0 (s.graph 0).node = true ∧ (s.graph 0).regions = [0]
       ∧ s.regions.find? 0 = some (reg0 s) ∧ (reg0 s).life = .starting ∧ (reg0 s).wantOff = none)
    ∧ (let s := launched (gang 0 (fun S => { S with deadline := some 0, restart := some 0 }))
       liveJob s 0 (s.job 0) ∧ active s ∧ (s.job 0).gangs = [(0, (s.job 0).seat 0)] ∧ ((s.job 0).seat 0).deadline = some 0
         ∧ 0 ≤ s.time ∧ (s.job 0).seatReady 0 = false ∧ (s.job 0).rcb = 0 ∧ ((s.job 0).seat 0).restart = some 0
         ∧ ((s.job 0).seat 0).round.find? 0 = none ∧ ((s.job 0).node 0).couples = true ∧ ((s.job 0).node 0).gfail ≠ 1
         ∧ ((s.job 0).node 0).gindex = 1)
    ∧ (let s : State := { launched (gang 1 (fun S => { S with deadline := some 0 })) with graphs := [(0, { Graph.init with node := 1 })] }
       liveJob s 0 (s.job 0) ∧ (s.job 0).gangs = [(1, (s.job 0).seat 1)] ∧ ((s.job 0).seat 1).deadline = some 0
         ∧ (s.job 0).seatReady 1 = false ∧ (s.job 0).rcb ≠ 1 ∧ s.makeGraphs 0 = s
         ∧ List.find? (fun z => z.2.job == 0 && z.2.node == 1 && z.2.final == 0) s.graphs = some (0, s.graph 0))
    ∧ (let s := launched (gang 0 (fun S => { S with lost := some (0, 0) }))
       liveJob s 0 (s.job 0) ∧ ((s.job 0).seat 0).restart = none ∧ ((s.job 0).seat 0).lost = some (0, 0) ∧ 0 ≤ s.time)
    ∧ (let s := resident (gang 0 id) id (fun x => { x with life := .failed })
       s.gangFailed 0 0 = true ∧ active s ∧ ((s.job 0).seat 0).told = false ∧ s.gangMates 0 0 = [] ∧ ((s.job 0).node 0).gfail ≠ 1) := by
  unfold active liveJob
  refine ⟨⟨⟨rfl, by decide +kernel, by decide⟩, rfl, by decide +kernel, by decide +kernel, by decide +kernel, rfl, rfl, rfl, rfl, rfl, rfl, rfl⟩,
    ⟨⟨rfl, by decide +kernel, by decide⟩, by decide +kernel, rfl, rfl, by decide, by decide +kernel, rfl, rfl, rfl, by decide +kernel, by decide +kernel, by decide +kernel⟩,
    ⟨⟨rfl, by decide +kernel, by decide⟩, rfl, rfl, by decide +kernel, by decide, rfl, rfl⟩,
    ⟨⟨rfl, by decide +kernel, by decide⟩, rfl, rfl, by decide⟩,
    by decide +kernel, by decide +kernel, rfl, by decide +kernel, by decide +kernel⟩

/-- A placed region resumes, or takes another image, on some die. -/
theorem spread_again (s : State) (img : Nat) (h : ∀ d < 4, s.spotOn (s.occupied []) (need1 img) d = some ⟨d, 0, 0, [], [], 0⟩)
    (hb : ∀ d < 4, s.budgetFits 0 [] [(2, need1 img)] [(2, ⟨d, 0, 0, [], [], 0⟩)] = true) (tk : Nat) :
    ∃ d < 4, s.spread tk 0 [] [(2, need1 img)] (s.occupied []) = some [(2, ⟨d, 0, 0, [], [], 0⟩)] :=
  spread_one s tk 0 2 (need1 img) _ (fun d => ⟨d, 0, 0, [], [], 0⟩) h hb

/-- A region at its boundary that is wanted off; one whose time is up; one whose swap is over and that may come back; one
that no die can take any more. -/
theorem wit_preemption :
    (let s := resident id (fun g => { g with held := true }) (fun x => { x with wantOff := some 0 })
     s.regions.find? 0 = some (reg0 s) ∧ s.mayPreempt 0 = true ∧ s.graphs.find? (reg0 s).graph ≠ none)
    ∧ (let s := resident id id (fun x => { x with wantOff := some 0 })
       s.mayPreempt 0 = false)
    ∧ (let s : State := { resident id id (fun x => { x with wantOff := some 0 }) with cycle := 10 ^ 9 }
       (reg0 s).wantOff = some 0 ∧ 0 + s.rwait 0 ≤ s.cycle ∧ (reg0 s).life = .running ∧ (reg0 s).seq.hold.atS = none
         ∧ s.atBoundaryOf (reg0 s).graph = false ∧ (s.voidRound (reg0 s).graph (s.graph (reg0 s).graph).next).mayPreempt 0 = true
         ∧ s.graphs.find? (reg0 s).graph ≠ none)
    ∧ (let s := resident id (fun g => { g with held := true }) (fun x => { x with life := .preempted, place := { x.place with act := 0x30000 } })
       let s1 := s.ticket.1
       (reg0 s).life = .preempted ∧ (reg0 s).swapUntil ≤ s.cycle ∧ active s ∧ s.unit 0 = [0] ∧ (s.graph 0).failBy = none
         ∧ (reg0 s).lost = false ∧ (s.job 0).gangs = [] ∧ (s.job 0).grantWait = none ∧ (reg0 s).job ≠ queueSpace
         ∧ (reg0 s).place.act = (reg0 s).place.img ∧ s.check15 (upTo 4) ((s.job 0).images.getD 0x30000 .empty) = none
         ∧ s.unitNeeds [0] (reg0 s).place.img = [(2, need1 0x30000)]
         ∧ ∃ d < 4, s1.spread s.tickets 0 [] [(2, need1 0x30000)] (s1.occupied []) = some [(2, ⟨d, 0, 0, [], [], 0⟩)])
    ∧ (let s : State := { resident id (fun g => { g with held := true }) (fun x => { x with life := .preempted }) with
         dies := (upTo 4).map (fun d => (d, { Die.init with retiredBenches := upTo 256 })) }
       s.check15 (upTo 4) ((s.job 0).images.getD (reg0 s).place.img .empty) ≠ none ∧ s.unit 0 = [0])
    ∧ (let s := resident id (fun g => { g with held := true }) (fun x => { x with life := .preempted, lost := true })
       (reg0 s).lost = true ∧ (reg0 s).swapUntil ≤ s.cycle ∧ active s ∧ s.unit 0 = [0]) := by
  unfold active
  refine ⟨⟨rfl, by decide +kernel, by decide +kernel⟩, by decide +kernel,
    ⟨rfl, by decide +kernel, rfl, rfl, by decide +kernel, by decide +kernel, by decide +kernel⟩,
    ⟨rfl, by decide +kernel, by decide +kernel, by decide +kernel, rfl, rfl, rfl, rfl, by decide +kernel, rfl, by decide +kernel, rfl,
      spread_again _ 0x30000 (by decide +kernel) (by decide +kernel) _⟩, by decide +kernel, by decide +kernel⟩

set_option maxRecDepth 10000 in
/-- A capacity that fell: everything still fits; a retired bench drives its region off; that region relaunched with its own
image, from another, and with the second candidate when the first is not there; and a region no candidate of which fits. -/
theorem wit_capacity :
    (let s := resident id id id
     (∀ k < 1, ({ s with regions := s.regions.mapVal (fun _ x => { x with seq := { x.seq with csrs := { x.seq.csrs with
        capvec := x.seq.csrs.capvec ||| BitVec.ofNat 8 (2 ^ (1 % 8)) } } }), sup := { s.sup with resDirty := true, retest := false } } : State).stillFits k = true)
       ∧ (reg0 s).seq.loaded = none)
    ∧ (let s : State := { resident id id id with dies := (0, { Die.init with retiredBenches := [0] }) :: State.reset.dies.drop 1 }
       s.stillFits 0 = false ∧ (reg0 s).life = .running ∧ (reg0 s).place.die = 0 ∧ s.regions.map Prod.fst = [0] ∧ s.unit 0 = [0])
    ∧ (∀ c ∈ [(0x30000, 0x30000, true), (0x38000, 0x30000, true), (0x30000, 0x38000, false)],
       let s := resident (fun j => { j with images := j.images.modify 0x30000 (fun m => { m with mapped := c.2.2, checked := if c.2.2 then [2] else [] }) })
         (fun g => { g with held := true }) (fun x => { x with life := .waiting, place := { x.place with img := c.1, act := c.1 } })
       let s0 := s.passImage 0 2 c.2.1
       let s1 := s0.ticket.1
       active s ∧ s.unit 0 = [0] ∧ (reg0 s).life = .waiting ∧ (s.graph 0).failBy = none
         ∧ (s.rnode 0).cands = [(0x30000, 0, 0, 1), (0x38000, 0, 0, 1)] ∧ (s.candidateBad 0 2 0x30000 = none ↔ c.2.2 = true)
         ∧ s.candidateBad 0 2 c.2.1 = none ∧ s.check15 [0] ((s.job 0).images.getD c.2.1 .empty) = none
         ∧ s0.unitNeeds [0] c.2.1 = [(2, need1 c.2.1)]
         ∧ ∃ d < 4, s1.spread s.tickets 0 [] [(2, need1 c.2.1)] (s1.occupied []) = some [(2, ⟨d, 0, 0, [], [], 0⟩)])
    ∧ (let s : State := { resident id (fun g => { g with held := true }) (fun x => { x with life := .waiting }) with
         dies := (upTo 4).map (fun d => (d, { Die.init with retiredBenches := upTo 256 })) }
       ∀ c ∈ (s.rnode 0).cands, s.check15 [0] ((s.job 0).images.getD c.1 .empty) ≠ none) := by
  unfold active
  refine ⟨by decide +kernel, ⟨by decide +kernel, rfl, rfl, rfl, by decide +kernel⟩, fun c h => ?_, by decide +kernel⟩
  simp only [List.mem_cons, List.not_mem_nil, or_false] at h
  rcases h with rfl | rfl | rfl <;>
    exact ⟨by decide +kernel, by decide +kernel, rfl, rfl, by decide +kernel, by decide +kernel, by decide +kernel, by decide +kernel,
      by decide +kernel, spread_again _ _ (by decide +kernel) (by decide +kernel) _⟩

/-- A shrink that fits and one that does not, a grow, and a shape whose boundary has come or comes with a void. -/
theorem wit_shapes :
    (∀ k ∈ [0, 5], let s := resident id id (fun x => { x with shreq := some (k, 0) })
      hasBench s 0 0 (reg0 s) (bench0 s) ∧ active s ∧ (reg0 s).shape = none ∧ (reg0 s).shapeFree = true
        ∧ s.shapeOf 0 k = (if k = 0 then some 0x38000 else none) ∧ s.unit 0 = [0] ∧ (reg0 s).place.fold = 0
        ∧ s.mayShrink 0 k = decide (k = 0) ∧ (reg0 s).keeps (s.image 0 0x38000) 0 = true ∧ (bench0 s).shadow.state ≠ 1)
    ∧ (let s := resident id id (fun x => { x with shrunk := true, place := { x.place with img := 0x38000 } })
       s.mayGrow 0 = true ∧ (s.rnode 0).word 8 = 0x30000)
    ∧ (∀ c ∈ [(0, 0x38000, 0x30000), (8, 0x30000, 0x38000)],
       let s := resident id (fun g => { g with held := true }) (fun x =>
         { (x.updBench 0 (fun y => { y with shadow := { y.shadow with state := 2, img := c.2.1, ctx := 0 } })) with
           shape := some (c.1, 0), preq := some 0, place := { x.place with img := c.2.2 } })
       shapeDue s 0 c.1 0 c.2.1 ⟨0, 0, 0, [], [], 0⟩)
    ∧ (let s : State := { resident id id (fun x =>
         { (x.updBench 0 (fun y => { y with shadow := { y.shadow with state := 2, img := 0x38000, ctx := 0 } })) with
           shape := some (0, 0), preq := some 0 }) with cycle := 10 ^ 9 }
       (reg0 s).shape = some (0, 0) ∧ 0 + s.rwait 0 ≤ s.cycle ∧ (s.graph 0).held = false
         ∧ shapeDue (s.voidRound 0 (s.graph 0).next) 0 0 0 0x38000 ⟨0, 0, 0, [], [], 0⟩) := by
  unfold active shapeDue
  refine ⟨fun k h => ?_, by decide +kernel, fun c h => ?_, by decide +kernel⟩ <;>
    simp only [List.mem_cons, List.not_mem_nil, or_false] at h
  · rcases h with rfl | rfl <;> exact ⟨⟨rfl, rfl⟩, by decide +kernel, rfl, rfl, by decide +kernel, by decide +kernel, rfl, by decide +kernel, by decide +kernel, by decide +kernel⟩
  · rcases h with rfl | rfl <;> decide +kernel


/-! ### The supervisor, units, errors, transfers and the package -/

/-- A package whose other complex stands by, with the last beat five milliseconds ago; a takeover that is due; a complex
with one live pair, one with two, and one out of service. -/
theorem wit_failover :
    (let s : State := { State.reset with time := ms 5 }
     active s ∧ s.sup.takeoverAt = none ∧ s.standby ≠ none ∧ s.sup.lastBeat + ms 5 ≤ s.time)
    ∧ (let s := State.reset; active s ∧ s.time < s.sup.lastBeat + ms 5)
    ∧ (let s : State := { State.reset with sup := { Sup.init with activeDie := none, takeoverAt := some 0 } }
       s.sup.takeoverAt = some 0 ∧ 0 ≤ s.time ∧ s.sup.activeDie = none ∧ s.standby = some 0)
    ∧ (∀ c ∈ [(⟨[true, false, false, false], true⟩ : Sys2Proof.Machine.Complex), ⟨[true, true, false, false], true⟩, ⟨[true, true, false, false], false⟩],
       let s : State := { State.reset with sup := { Sup.init with complexes := [(0, c), (1, .init)] } }
       s.sup.complexes.find? 0 = some c ∧ c.pairs.getD 0 false = true ∧ s.sup.activeDie = some 0) := by
  unfold active
  refine ⟨by decide, by decide, by decide, fun c h => ?_⟩
  simp only [List.mem_cons, List.not_mem_nil, or_false] at h
  rcases h with rfl | rfl | rfl <;> exact ⟨rfl, rfl, rfl⟩

/-- What S may write: limits at both ends, memory, a resume address; a level below the floor; an invalidation with a block
in flight and without. -/
theorem wit_supervisor :
    (let s := resident id id (fun x => { x with seq := { x.seq with hold := { x.seq.hold with atS := some (rec5, false) } } })
     active s ∧ s.backed 0x9000 4 = true ∧ s.regions.find? 0 = some (reg0 s) ∧ (reg0 s).seq.hold.atS = some (rec5, false)
       ∧ (reg0 s).seq.hold.atSPriv = false ∧ s.jobs.find? 0 = some (s.job 0) ∧ (s.job 0).inval = none ∧ (s.invalidate 0).translationsOut 0 = false)
    ∧ (((port [req (.load none) 0x9000 .translated]).updBench 0 0 (fun y => { y with port := { y.port with nextSeq := 100 } })).invalidate 0).translationsOut 0 = true
    ∧ (delegFloor 0x05 = 0 ∧ delegFloor 0x42 ≤ 1 ∧ ∃ c : BitVec 8, 0 < delegFloor c.toNat) :=
  ⟨⟨by unfold active; decide +kernel, by decide +kernel, rfl, rfl, rfl, rfl, rfl, by decide +kernel⟩, by decide +kernel,
    by decide +kernel, by decide +kernel, 0xA2#8, by decide +kernel⟩

/-- One page of 4 KiB at address 0 with its frame at 2 MiB; it is moved to 3 MiB. -/
def onePage : Memory :=
  [(0x10000, 0x11001), (0x11000, 0x12001), (0x12000, 0x13001), (0x13000, 0x14001), (0x14000, 0x20006F)].foldl
    (fun m e => Memory.writeBytes m e.1 (leBytes e.2 8)) []
def moving : State :=
  { launched id with mem := onePage, cycle := 1, sup := { Sup.init with migrations := [(0, 0, 0x300000, 1)] } }
def leaf0 : LeafAt := ⟨0x14000, 0, 0, 0x20006F⟩

theorem leaves_onePage : leavesFrom onePage 5 0x10000 0 = [leaf0] := by decide +kernel

/-- A migration whose time has come, and one that has not begun. -/
theorem wit_migration :
    let s := moving
    let l := leaf0
    active s ∧ s.mem.wf = true
      ∧ (leavesFrom s.mem 5 (s.job 0).root 0).find? (fun k => decide (k.va ≤ 0 ∧ 0 < k.va + 2 ^ (12 + 9 * k.level))) = some l
      ∧ s.leaves.filter (fun k => k.page == l.page) = [l] ∧ peC l.entry = false ∧ l.entry < 2 ^ 64 ∧ 0x300000 % 4096 = 0
      ∧ l.epa + 8 ≤ 0x300000
      ∧ s.sup.migrations.find? (fun m => m.1 == 0 && m.2.1 == 0) = some (0, 0, 0x300000, 1) ∧ 1 ≤ s.cycle
      ∧ (let b : State := { s with sup := Sup.init }
         b.sup.migrations.find? (fun m => m.1 == 0 && m.2.1 == 0) = none ∧ peRes l.entry = true ∧ pePin l.entry = false
           ∧ l.size ≤ 2 ^ 21 ∧ 0x300000 % l.span = 0 ∧ b.backed 0x300000 l.span = true ∧ b.pagePinned l.page l.span = false) := by
  unfold active
  decide +kernel

/-- Units that may retire, one that has; a bank with a spare left and with none; a window that ends. -/
theorem wit_retirement :
    (let s := State.reset
     (0, HwUnit.bench 7) ∉ s.nvm.retired ∧ s.nvm.retired.length < 16384 ∧ (0, HwUnit.vatBank 63 15) ∉ s.nvm.retired
       ∧ ((s.die 0).bank (3 * 2 ^ 22 + 16 * 63 + 15)).state < 2 ∧ (s.die 0).vatSpares < 64
       ∧ ((s.die 0).bank (3 * 2 ^ 22 + 16 * 63 + 15)).cecnt + 1 < (s.die 0).cethr.getD 3 65535)
    ∧ (let s : State := { State.reset with dies := [(0, { Die.init with vatSpares := 64, cethr := [(3, 1)] })] }
       64 ≤ (s.die 0).vatSpares ∧ (s.die 0).cethr.getD 3 65535 ≤ 1)
    ∧ (let s : State := { State.reset with nvm := { Nvm.init with retired := [(0, .bench 7)] } }; (0, HwUnit.bench 7) ∈ s.nvm.retired) := by
  decide +kernel

/-- A bank in evacuation: its line to lock, to pass, all lines passed; its old bank held and released. -/
theorem wit_evacuation :
    ∀ c ∈ [(0, 0, true), (2, 0, true), (0, 3072, true), (0, 3072, false)],
      let e : BankEntry := ⟨2, 15, 1024, c.2.1, 0, c.1, some (15, if c.2.2 then [] else [(0, 0#24)])⟩
      let s : State := { resident id id id with dies := [(0, { Die.init with banks := [(3 * 2 ^ 22 + 15, e)], evacs := [3 * 2 ^ 22 + 15] })], cycle := 1 }
      (s.die 0).bank (3 * 2 ^ 22 + 15) = e ∧ s.bankIdle 0 (3 * 2 ^ 22 + 15) = true ∧ s.boundariesPassed e = c.2.2 := by
  decide +kernel

/-- Where errors strike: a register, a token, a saved context; a link whose region has traffic. -/
theorem wit_errors :
    (let s := (dev id).updElem 0 0 0 full
     hasElem s 0 0 0 (reg0 s) (bench0 s) ((bench0 s).elem 0) ∧ ((bench0 s).elem 0).bufs.getD 1 [] = [tk1])
    ∧ (let s := dev (fun x => { x with life := .preempted })
       hasElem s 0 0 0 (reg0 s) (bench0 s) ((bench0 s).elem 0) ∧ (reg0 s).life = .preempted)
    ∧ (let s := port [req (.load none) 0x9000 .translated]
       hasElem s 0 0 0 (reg0 s) (bench0 s) ((bench0 s).elem 0) ∧ (reg0 s).life = .running ∧ (reg0 s).place.die = 0
         ∧ s.hasTraffic 0 = true ∧ s.graphs.find? (reg0 s).graph ≠ none) :=
  ⟨⟨⟨rfl, rfl, rfl⟩, rfl⟩, ⟨⟨rfl, rfl, rfl⟩, rfl⟩, ⟨⟨rfl, rfl, rfl⟩, rfl, rfl, by decide +kernel, by decide +kernel⟩⟩

/-- A grant for reads of bank group 3 and writes of element 2 of bench 0; transfers that it allows and one that it does not. -/
def granted : State :=
  { dev id with dies := [(0, { Die.init with grants :=
      [(0, ⟨true, 0#22, .bankGroup 3, false, true, 0, 64, 0x9000, 0, 0⟩), (1, ⟨true, 0#22, .element 0 2, true, false, 0, 64, 0x9000, 0, 0⟩)] })] }
def xfer (t : PhysTarget) (w : Bool) (off : Nat) : PeerXfer := ⟨1#22, 0, t, off, 4, w, [1#8, 2#8, 3#8, 4#8], [], 8⟩

theorem wit_peers :
    (noLocks (dev id)) ∧ noLocks granted
    ∧ ((granted.die 0).grantFor (xfer (.bankGroup 3) false 60)).isSome = true
    ∧ ((granted.die 0).grantFor (xfer (.element 0 2) true 60)).isSome = true ∧ granted.standsOn 0 0 = some (0, 0)
    ∧ hasElem granted 0 0 2 (reg0 granted) (bench0 granted) ((bench0 granted).elem 2)
    ∧ (granted.die 0).grantFor (xfer (.bankGroup 3) false 61) = none ∧ (granted.die 0).grantDenied < 2 ^ 32 - 1 := by
  have h : ∀ (s : State), (∀ d, (s.die d).banks = []) → noLocks s := by
    intro s h die key line
    simp only [State.lineLocked, Die.bank, h]
    rfl
  refine ⟨h _ (fun d => ?_), h _ (fun d => ?_), by decide +kernel, by decide +kernel, by decide +kernel, ⟨rfl, rfl, rfl⟩,
    by decide +kernel, by decide +kernel⟩
  · match d with
    | 0 | 1 | 2 | 3 | n + 4 => rfl
  · match d with
    | 0 | n + 1 => rfl

/-- Commands of the stream engine: one that may start, a malformed one, one of length 0, one decided, a copy and a load due. -/
def eng (f : EngCmd → EngCmd) : State :=
  { dev (fun x => { x with seq := { x.seq with outstanding := [4] } }) with
    dies := [(0, { Die.init with engines := [(6, f { EngCmd.init with num := 4, cmd := 1, descr := [0x9000#64, 0xA000#64, 16#64] })] })] }

set_option maxRecDepth 10000 in
theorem wit_commands :
    (∀ d ∈ [[0x9000#64, 0xA000#64, 16#64], [0x9000#64, 0xA000#64, 0#64], [0#64, 0#64, 16#64, 1#64]],
      let s := eng (fun e => { e with descr := d })
      ∃ e, (s.die 0).engines.find? 6 = some e ∧ s.mayStart 0 6 = true ∧ e.result = none ∧ s.regions.find? e.region = some (reg0 s)
        ∧ (e.malformed (reg0 s) = true ↔ d.length = 4) ∧ (e.len = 0 ↔ d.getD 2 0#64 = 0#64))
    ∧ (let s := eng (fun e => { e with started := true }); s.mayStart 0 6 = false)
    ∧ (let s := eng (fun e => { e with started := true, result := some (0x00960900#32, 0x96, 0) })
       ∃ e, (s.die 0).engines.find? 6 = some e ∧ e.result = some (0x00960900#32, 0x96, 0) ∧ e.barrier = 0 ∧ (reg0 s).seq.pending = [])
    ∧ (let s := eng (fun e => { e with started := true })
       ∃ e ps pd, engineDue s 0 6 e ∧ e.cmd = 1 ∧ oneUnit s e.region e.job 0 none e.src e.len ps ∧ oneUnit s e.region e.job 1 (some e.round) e.dst e.len pd
         ∧ s.badBytes ps.leaf.pa e.len = false)
    ∧ (let s := eng (fun e => { e with started := true, cmd := 2, descr := [0x9000#64, 32#64, 16#64] })
       ∃ e ps, engineDue s 0 6 e ∧ e.cmd = 2 ∧ oneUnit s e.region e.job 0 none e.src e.len ps ∧ s.badBytes ps.leaf.pa e.len = false
         ∧ (reg0 s).target e.dst e.len = some (.elem 0 0 32) ∧ hasElem s e.region 0 0 (reg0 s) (bench0 s) ((bench0 s).elem 0)
         ∧ (reg0 s).life = .running) := by
  refine ⟨fun d h => ?_, by decide +kernel, ⟨_, rfl, rfl, rfl, rfl⟩, ?_, ?_⟩
  · simp only [List.mem_cons, List.not_mem_nil, or_false] at h
    rcases h with rfl | rfl | rfl <;> exact ⟨_, rfl, by decide +kernel, rfl, rfl, by decide +kernel, by decide +kernel⟩
  · exact ⟨_, _, _, ⟨rfl, rfl, rfl, .inl rfl, by decide, rfl⟩, rfl, ⟨by decide +kernel, by decide +kernel, rfl, rfl⟩,
      ⟨by decide +kernel, by decide +kernel, rfl, rfl⟩, by decide +kernel⟩
  · exact ⟨_, _, ⟨rfl, rfl, rfl, .inl rfl, by decide, rfl⟩, rfl, ⟨by decide +kernel, by decide +kernel, rfl, rfl⟩, by decide +kernel,
      by decide +kernel, ⟨rfl, rfl, rfl⟩, rfl⟩

/-- A message of a collective with other ranks of this package. -/
theorem wit_collective : ∃ q ∈ ([0, 2 ^ 22] : List Nat).zipIdx, q.2 ≠ 0 ∧ q.1 = State.reset.nvm.chip.toNat + 1 * 2 ^ 22 := by decide

/-- A package without power, with no cold start to come; one at the end of its counter. -/
theorem wit_package :
    ({ State.reset with powered := false } : State).powered = false ∧ State.reset.powered = true ∧ active State.reset
      ∧ State.reset.nvm.chipOk = true ∧ State.reset.nvm.xmss < 2 ^ 20 ∧ (∀ c ∈ State.reset.sup.complexes, c.2.pairs.length ≤ 4)
      ∧ 2 ^ 20 ≤ ({ State.reset with nvm := { Nvm.init with xmss := 2 ^ 20 } } : State).nvm.xmss
      ∧ ({ State.reset with sup := { Sup.init with activeDie := none } } : State).sup.activeDie = none := by
  unfold active
  decide

/-- A sequencer that an open debug port finds halted or running, a closed port; a load of 4,000 W for a millisecond. -/
theorem wit_debug :
    (∀ h, let s : State := { dev (fun x => { x with seq := { x.seq with hold := { x.seq.hold with halted := h } } }) with
        sup := { Sup.init with unlocked := true } }
      s.regions.find? 0 = some (reg0 s) ∧ s.sup.unlocked = true ∧ (reg0 s).seq.hold.halted = h)
    ∧ (dev id).sup.unlocked = false
    ∧ (let s : State := { dev id with power := ⟨List.replicate 9 (0, 4 * 10 ^ 9), none, []⟩ }
       s.clk < 2 ∧ ∀ x ∈ s.power.samples, s.time < x.1 + ms 1 ∧ 3200 * 10 ^ 6 < x.2) :=
  ⟨fun _ => ⟨rfl, rfl, rfl⟩, rfl, by decide +kernel⟩

/-! ### Steps and encodings -/

/-- A word of a block in turn, a schedule word in turn, a step of the device in turn, and an empty cycle. -/
theorem wit_step :
    (let s := base.withFetchWord 32 (wordOf (.add 3 1 2))
     s.powered = true ∧ ∃ k l v, s.work = [.word 0 k l] ∧ (({ s with work := [] } : State).turnTo 0 k).seqView = some v ∧ v.blk.fired.length < l
       ∧ decodeS (v.blk.words.getD k 0#32) = .instr (.add 3 1 2) ∧ k ≠ 0 ∧ v.expired s.time = false
       ∧ (({ s with work := [] } : State).turnTo 0 k).ldverExpired v = false)
    ∧ (∀ q : Bool, let s : State := { (base.withFetchWord 32 (wordOf (.add 3 1 2))).updSeq 0 (fun x =>
           { x with block := x.block.map (fun k => { k with fired := if q then [0, 1] else [] }) }) with work := [.seq 0] }
       ∃ u, ({ s with work := [], focus := { s.focus with region := 0 } } : State).seqView = some u ∧ (u.blk.unfired = [] ↔ q = true))
    ∧ ({ base with work := [.slot .none (.vnop 9)] } : State).work = [.slot .none (.vnop 9)]
    ∧ isStep (.roundCommit 0) (.roundCommit 0) ∧ State.reset.work = [] :=
  ⟨⟨rfl, 1, 1, _, by decide +kernel, rfl, by decide +kernel, by decide +kernel, by decide, by decide +kernel, by decide +kernel⟩,
    fun q => ⟨_, rfl, by cases q <;> decide +kernel⟩, rfl, rfl, rfl⟩

/-- Instructions and words that the encoding statements speak of; a memory in its form. -/
theorem wit_encodings : Instr.wf (.fma (.v 4) (.v 5) (.v 6) 2) = true ∧ encode (.fma (.v 4) (.v 5) (.v 6) 2) = .e 0x0310519000#40
    ∧ decodeS 0x04A28A00#32 = .instr (.add 10 10 10) ∧ decodeE 0x0310519000#40 = .instr (.fma (.v 4) (.v 5) (.v 6) 2)
    ∧ decodeV 0x4880000000#40 = .instr (.vend 4) ∧ tables.wf = true := by decide +kernel

end Sys2Proof.Tests
end

section
/-! PROOFS. The package at a cold start: what loss of power and the boot leave, what a package without power does, and the
first cycle after reset (R11, R415; log entries 3 to 5). -/

namespace Sys2Proof.Proofs.Device

open Sys2Proof Sys2Proof.Machine

/-! ### The self-test changes the retirement list alone -/

/-- The flash of the two memories differs in the list of retired units at most. -/
def DiffersInRetired (m m' : Nvm) : Prop := ∃ l, m' = { m with retired := l }

theorem DiffersInRetired.refl (m : Nvm) : DiffersInRetired m m := ⟨m.retired, rfl⟩

theorem DiffersInRetired.trans {a b c : Nvm} : DiffersInRetired a b → DiffersInRetired b c → DiffersInRetired a c := by
  rintro ⟨_, rfl⟩ ⟨l, rfl⟩
  exact ⟨l, rfl⟩

theorem enlist_differsInRetired (m : Nvm) (die : Nat) (u : HwUnit) : DiffersInRetired m (m.enlist die u).1 := by
  unfold Nvm.enlist
  split
  · exact ⟨_, rfl⟩
  · split
    · exact .refl m
    · exact ⟨_, rfl⟩

theorem foldl_differsInRetired {β : Type} (f : Nvm → β → Nvm) (hf : ∀ m x, DiffersInRetired m (f m x)) (l : List β)
    (m : Nvm) : DiffersInRetired m (l.foldl f m) :=
  List.foldlRecOn l f (.refl m) (fun _ ih x _ => ih.trans (hf _ x))

theorem selfTest_differsInRetired (m : Nvm) : DiffersInRetired m m.selfTest := by
  refine foldl_differsInRetired _ (fun m d => foldl_differsInRetired _ (fun m u => ?_) _ m) _ m
  split
  · exact .refl m
  · exact enlist_differsInRetired m d u

/-! ### The boot -/

/-- What a boot leaves of the flash: the count of cold starts rises, the chip number is read from the record again, and the
self-test may retire units. -/
theorem boot_nvm (s : State) : ∃ l, s.boot.nvm = { s.nvm with
    retired := l, coldStarts := s.nvm.coldStarts + 1, chip := BitVec.ofNat 22 s.nvm.record.toNat
    chipOk := s.nvm.record.toNat / 2 ^ 22 == 0 } := by
  obtain ⟨l, hl⟩ := selfTest_differsInRetired { s.nvm with coldStarts := s.nvm.coldStarts + 1 }
  exact ⟨l, by simp [State.boot, State.lostPower, hl]⟩

theorem boot_activeDie (s : State) :
    s.boot.sup.activeDie = if s.nvm.slotA = true ∨ s.nvm.slotB = true then some 0 else none := by
  obtain ⟨l, hl⟩ := boot_nvm s
  have hsup : s.boot.sup.activeDie = if (s.boot.nvm.slotA || s.boot.nvm.slotB) = true then some 0 else none := by
    simp only [State.boot]
    split <;> rfl
  simp [hsup, hl]

theorem boot_queues (s : State) : s.boot.sup.queues = [] := by
  simp only [State.boot]
  split <;> rfl

theorem boot_unlocked (s : State) : s.boot.sup.unlocked = false := by
  simp only [State.boot]
  split <;> rfl

/-- A package after a cold start from `s`: everything launched is gone, memory lists nothing, package time begins again, and
the flash and its counters stand. -/
def StartsAfresh (s s' : State) : Prop :=
  s'.powered = true ∧ s'.mem = [] ∧ s'.regions = [] ∧ s'.jobs = [] ∧ s'.graphs = []
    ∧ s'.uerr = [] ∧ s'.sup.queues = [] ∧ s'.sup.unlocked = false ∧ s'.time = 0 ∧ s'.clk = 0
    ∧ s'.nvm.xmss = s.nvm.xmss ∧ s'.nvm.unlocks = s.nvm.unlocks ∧ s'.nvm.record = s.nvm.record
    ∧ (s'.nvm.chipOk = true ↔ s.nvm.record.toNat < 2 ^ 22) ∧ s'.nvm.chip.toNat = s.nvm.record.toNat % 2 ^ 22
    ∧ s'.sup.activeDie = if s.nvm.slotA = true ∨ s.nvm.slotB = true then some 0 else none

theorem boot_startsAfresh (s : State) : StartsAfresh s s.boot := by
  obtain ⟨l, hnvm⟩ := boot_nvm s
  have hchip : s.boot.nvm.chipOk = true ↔ s.nvm.record.toNat < 2 ^ 22 := by
    simp [hnvm, Nat.div_eq_zero_iff]
  exact ⟨rfl, rfl, rfl, rfl, rfl, rfl, boot_queues s, boot_unlocked s, rfl, rfl, by rw [hnvm], by rw [hnvm], by rw [hnvm],
    hchip, by simp [hnvm], boot_activeDie s⟩

/-! ### With and without power -/

theorem exec_powerLoss (s : State) : exec .powerLoss s = .next s.lostPower := rfl

theorem exec_coldStart_of_unpowered {s : State} (h : s.powered = false) : exec .coldStart s = .next s.boot := by
  simp [exec, execColdStart, h]

theorem exec_coldStart_of_powered {s : State} (h : s.powered = true) : exec .coldStart s = .next s := by
  simp [exec, execColdStart, h]

theorem exec_coldReset_of_powered {s : State} (h : s.powered = true) : exec .coldReset s = .next s.boot := by
  simp [exec, execColdReset, h]

/-- Nothing but a cold start in store runs in a package without power. -/
theorem step_of_unpowered {s : State} (h : s.powered = false) (hin : ∀ i ∈ s.inputs, i.2 ≠ .coldStart) :
    step s = .fault .noPower := by
  have hnone : s.inputs.dropWhile (fun i => i.2 != .coldStart) = [] := by
    refine Decidable.byContradiction fun hne => ?_
    have hmem := (List.dropWhile_sublist _).mem (List.head_mem hne)
    exact hin _ hmem (bne_eq_false_iff_eq.1 (List.head_dropWhile_not _ hne))
  simp [step, State.stepWork, State.unpowered, h, hnone]

/-- Settles O52: both ways to a cold start are one boot, whose self-test changes the retirement list alone. -/
theorem coldStartsBeginAfresh : Obligations.ColdStartsBeginAfresh := fun s =>
  ⟨⟨s.lostPower, exec_powerLoss s, rfl, rfl, rfl, rfl, rfl⟩,
    fun h => ⟨s.boot, exec_coldStart_of_unpowered h, boot_startsAfresh s⟩,
    exec_coldStart_of_powered,
    fun h => ⟨s.boot, exec_coldReset_of_powered h, boot_startsAfresh s⟩,
    step_of_unpowered⟩

/-! ### A cycle in which nothing is launched -/

/-- Nothing is launched: no job, no graph, no region. -/
def Idle (s : State) : Prop := s.jobs = [] ∧ s.graphs = [] ∧ s.regions = []

theorem housekeep_of_idle {s : State} (h : Idle s) : s.housekeep = s := by
  obtain ⟨hjobs, hgraphs, hregions⟩ := h
  simp [State.housekeep, State.recordEnds, FMap.keys, hjobs, hgraphs, hregions]

/-- Derrick's turn in an idle package: the time of the next look is all that may change beside the count of tickets. -/
theorem derrickTurn_of_idle {s : State} (h : Idle s) :
    ∃ n look, s.derrickTurn.1 = { s with tickets := n, sup := { s.sup with look := look } } := by
  unfold State.derrickTurn
  split
  · rw [housekeep_of_idle h]
    exact ⟨_, _, rfl⟩
  · exact ⟨s.tickets, s.sup.look, rfl⟩

theorem tick_of_idle {s : State} (h : Idle s) :
    s.tick.cycle = s.cycle + 1 ∧ s.tick.mem = s.mem ∧ s.tick.regions = s.regions := by
  obtain ⟨n, look, hturn⟩ :=
    derrickTurn_of_idle (s := { s with cycle := s.cycle + 1, time := s.time + cycleUnits s.clk }) h
  simp [State.tick, hturn]

theorem step_of_no_work {s : State} (hp : s.powered = true) (hw : s.work = []) : step s = .next s.tick := by
  simp [step, State.stepWork, hp, hw]

/-! ### Reset -/

theorem die_reset {d : Nat} (h : d < 4) : State.reset.die d = .init := by
  obtain rfl | rfl | rfl | rfl : d = 0 ∨ d = 1 ∨ d = 2 ∨ d = 3 := by omega
  all_goals rfl

theorem idle_reset : Idle .reset := ⟨rfl, rfl, rfl⟩

/-- Settles O60: every die is at its cold start, and with no work left the first step begins an idle cycle. -/
theorem resetIsAColdStart : Obligations.ResetIsAColdStart := by
  obtain ⟨hcycle, hmem, hregions⟩ := tick_of_idle idle_reset
  refine ⟨⟨rfl, Laws.wf_reset, rfl, rfl, rfl, rfl, rfl, rfl, rfl, rfl, rfl, rfl, fun d hd => ?_⟩,
    State.reset.tick, step_of_no_work rfl rfl, hcycle, hmem, hregions⟩
  rw [die_reset hd]
  exact ⟨rfl, rfl, rfl, rfl, rfl, rfl, rfl⟩

end Sys2Proof.Proofs.Device
end

section
/-! PROOFS. Switches and fills of planes: what each cycle of a switch leaves of its region, and what the end of a fill
leaves of the shadow planes (R53 to R55, R85, R86, R388; log entries 21 and 61). -/

namespace Sys2Proof.Proofs.Planes

open Sys2Proof Sys2Proof.Machine Sys2Proof.Claims Sys2Proof.Laws

/-! ### Benches and elements that a region lists -/

theorem bench_of_find {x : Region} {b : Nat} {y : Bench} (h : x.benches.find? b = some y) : x.bench b = y := by
  simp [Region.bench, FMap.getD, h]

theorem elem_of_find {y : Bench} {e : Nat} {el : Element} (h : y.elems.find? e = some el) : y.elem e = el := by
  simp [Bench.elem, FMap.getD, h]

theorem find?_updReg {s : State} {r : Nat} {x : Region} (h : s.regions.find? r = some x) (f : Region → Region) :
    (s.updReg r f).regions.find? r = some (f x) := by
  simp [h]

theorem find?_mapVal_of_some {α : Type} {m : FMap α} {k : Nat} {v : α} (h : m.find? k = some v) (f : Nat → α → α) :
    (m.mapVal f).find? k = some (f k v) := by
  simp [find?_mapVal, h]

theorem mem_of_find? {α : Type} {m : FMap α} {k : Nat} {v : α} (h : m.find? k = some v) : (k, v) ∈ m := by
  induction m with
  | nil => simp at h
  | cons p m ih =>
    obtain ⟨j, u⟩ := p
    simp only [FMap.find?] at h
    split at h
    · obtain rfl : u = v := Option.some.inj h
      exact ‹k = j› ▸ List.mem_cons_self
    · exact List.mem_cons_of_mem _ (ih h)

/-! ### Cycle 0 of a switch -/

theorem exec_switch (r : Nat) (s : State) : exec (.switch r) s = .next (s.switchCycle r) := rfl

theorem exec_passSwitch (r : Nat) (s : State) : exec (.passSwitch r) s = .next (s.switchCycle r) := rfl

/-- Both kinds of switch take the same step. -/
theorem exec_switching (p : Bool) (r : Nat) (s : State) :
    exec (if p then .passSwitch r else .switch r) s = .next (s.switchCycle r) := by
  cases p
  · exact exec_switch r s
  · exact exec_passSwitch r s

section Cycle0

variable {s : State} {r : Nat} {x : Region} {w : Switching}
variable (hx : s.regions.find? r = some x) (hw : x.switching = some w) (hopen : w.done = false) (hstart : w.start = none)
  (hdrained : s.drained r w = true) (hfilled : x.filling = false) (hvalid : x.spoiled = false) (hshape : x.shape = none)

include hx hw hopen hstart hdrained hfilled hvalid hshape

theorem switchCycle_begins (hmatched : s.unmatched r w = none) :
    s.switchCycle r = s.updReg r (fun x => { x with switching := some { w with start := some s.cycle } }) := by
  simp [State.switchCycle, reg_of_find hx, *]

theorem switchCycle_fails {t : Token} (hleft : s.unmatched r w = some t) :
    s.switchCycle r = (s.updReg r (fun x => { x with switching := none, seq := x.seq.disarm })).raiseRound r
      (roundCause 0x97 t.tag (x.holder t) t.header 0#64 0#64) := by
  simp [State.switchCycle, reg_of_find hx, *]

end Cycle0

theorem reg_raiseRound (s : State) (r q : Nat) (t : TrapRec) : (s.raiseRound r t).reg q = s.reg q := rfl

/-- A cause of kind round joins the causes raised in its region's graph. -/
theorem raised_raiseRound {s : State} {r : Nat} {x : Region} (hx : s.regions.find? r = some x)
    (hg : s.graphs.find? x.graph ≠ none) (t : TrapRec) :
    ((s.raiseRound r t).graph x.graph).raised = (s.graph x.graph).raised ++ [⟨r, t⟩] := by
  obtain ⟨g, hg⟩ := Option.ne_none_iff_exists'.1 hg
  rw [State.raiseRound, reg_of_find hx, graph_updGraph hg, graph_of_find hg]

/-! ### Tokens that go back behind their channel -/

/-- The two benches differ in their elements' input buffers at most, as far as their shadow planes and elements go. -/
def SameButBuffers (y y' : Bench) : Prop :=
  y'.shadow = y.shadow ∧ ∀ e el, y.elems.find? e = some el → ∃ q, y'.elems.find? e = some { el with bufs := q }

theorem SameButBuffers.refl (y : Bench) : SameButBuffers y y := ⟨rfl, fun _ el h => ⟨el.bufs, h⟩⟩

theorem SameButBuffers.updElem {y y' : Bench} (h : SameButBuffers y y') (e : Nat) (f : FMap (List Token) → FMap (List Token)) :
    SameButBuffers y (y'.updElem e (fun el => { el with bufs := f el.bufs })) := by
  refine ⟨h.1, fun e' el he => ?_⟩
  obtain ⟨q, hq⟩ := h.2 e' el he
  by_cases heq : e' = e
  · subst heq
    exact ⟨f q, by simp [Bench.updElem, hq]⟩
  · exact ⟨q, by simp [Bench.updElem, find?_modify_ne _ _ heq, hq]⟩

theorem rel_map_right {α : Type} {R : α → α → Prop} {o o' : Option α} (h : Option.Rel R o o') {f : α → α}
    (hf : ∀ a a', R a a' → R a (f a')) : Option.Rel R o (o'.map f) := by
  cases h with
  | none => exact .none
  | some ha => exact .some (hf _ _ ha)

theorem exists_of_rel_some {α : Type} {R : α → α → Prop} {a : α} {o : Option α} (h : Option.Rel R (some a) o) :
    ∃ a', o = some a' ∧ R a a' := by
  cases h with
  | some ha => exact ⟨_, rfl, ha⟩

theorem shadow_getD_of_rel {o o' : Option Bench} (h : Option.Rel SameButBuffers o o') (d : Bench) :
    (o'.getD d).shadow = (o.getD d).shadow := by
  cases h with
  | none => rfl
  | some hy => exact hy.1

/-- In the later state region r is x but for the input buffers of its elements, and memory is the same. -/
def Withdrawn (s : State) (r : Nat) (x : Region) (t : State) : Prop :=
  t.mem = s.mem ∧ ∃ bs, t.regions.find? r = some { x with benches := bs }
    ∧ ∀ b, Option.Rel SameButBuffers (x.benches.find? b) (FMap.find? bs b)

theorem Withdrawn.refl {s : State} {r : Nat} {x : Region} (hx : s.regions.find? r = some x) : Withdrawn s r x s := by
  refine ⟨rfl, x.benches, hx, fun b => ?_⟩
  cases x.benches.find? b with
  | none => exact .none
  | some y => exact .some (.refl y)

theorem Withdrawn.updElem {s t : State} {r : Nat} {x : Region} (h : Withdrawn s r x t) (b e : Nat)
    (f : FMap (List Token) → FMap (List Token)) : Withdrawn s r x (t.updElem r b e (fun el => { el with bufs := f el.bufs })) := by
  obtain ⟨hmem, bs, hbs, hrel⟩ := h
  refine ⟨hmem, _, find?_updReg hbs _, fun b' => ?_⟩
  rw [find?_modify]
  split
  · exact ‹b' = b› ▸ rel_map_right (hrel b) (fun _ _ hy => hy.updElem e f)
  · exact hrel b'

theorem Withdrawn.updGraph {s t : State} {r : Nat} {x : Region} (h : Withdrawn s r x t) (g : Nat) (f : Graph → Graph) :
    Withdrawn s r x (t.updGraph g f) := h

theorem withdrawn_withdraw {s : State} {r : Nat} {x : Region} (hx : s.regions.find? r = some x) :
    Withdrawn s r x (s.withdraw r) := by
  refine List.foldlRecOn _ _ (.refl hx) (fun t ht c _ => ?_)
  dsimp only
  split
  · exact ht
  · exact (ht.updElem _ _ (fun bufs => bufs.set [] _ [])).updGraph _ _

/-! ### Cycle 1: the planes exchange -/

/-- Region x' runs the shadow planes of region x: their plane on every bench, their context from phase 0 with an empty
block cache, and the registers and local memories of x. -/
structure RunsShadowOf (x x' : Region) : Prop where
  ctx : x'.place.ctx = (x.bench 0).shadow.ctx
  phase : x'.fab.phase = 0
  cache : x'.seq.cache = []
  g : x'.seq.g = x.seq.g
  bench : ∀ b y, x.benches.find? b = some y → ∃ y', x'.benches.find? b = some y' ∧ y'.plane = y.shadow.plane
    ∧ ∀ e el, y.elems.find? e = some el → ∃ el', y'.elems.find? e = some el' ∧ el'.regs = el.regs ∧ el'.local_ = el.local_

/-- What keeps the active plane and the elements of every bench keeps what the region runs. -/
theorem RunsShadowOf.mapBenches {x x' : Region} (h : RunsShadowOf x x') (f : Nat → Bench → Bench)
    (hf : ∀ b y, (f b y).plane = y.plane ∧ (f b y).elems = y.elems) :
    RunsShadowOf x { x' with benches := x'.benches.mapVal f } := by
  refine ⟨h.ctx, h.phase, h.cache, h.g, fun b y hy => ?_⟩
  obtain ⟨y', hy', hplane, helems⟩ := h.bench b y hy
  obtain ⟨hp, he⟩ := hf b y'
  exact ⟨f b y', find?_mapVal_of_some hy' f, hp.trans hplane, he ▸ helems⟩

theorem RunsShadowOf.clearStops {x x' : Region} (h : RunsShadowOf x x') : RunsShadowOf x x'.clearStops :=
  h.mapBenches _ (fun _ _ => ⟨rfl, rfl⟩)

theorem RunsShadowOf.setLoaded {x x' : Region} (h : RunsShadowOf x x') (l : Option (Nat × Nat)) :
    RunsShadowOf x { x' with seq := { x'.seq with loaded := l } } :=
  ⟨h.ctx, h.phase, h.cache, h.g, h.bench⟩

theorem startFill_plane_elems (y : Bench) (now img ctx : Nat) :
    (y.startFill now img ctx).plane = y.plane ∧ (y.startFill now img ctx).elems = y.elems := by
  unfold Bench.startFill
  split <;> exact ⟨rfl, rfl⟩

/-- In the later state region r runs the shadow planes of x, and memory is the same. -/
def Exchanged (s : State) (r : Nat) (x : Region) (t : State) : Prop :=
  t.mem = s.mem ∧ ∃ x', t.regions.find? r = some x' ∧ RunsShadowOf x x'

theorem Exchanged.updReg {s t : State} {r : Nat} {x : Region} (h : Exchanged s r x t) {f : Region → Region}
    (hf : ∀ x', RunsShadowOf x x' → RunsShadowOf x (f x')) : Exchanged s r x (t.updReg r f) := by
  obtain ⟨hmem, x', hx', hruns⟩ := h
  exact ⟨hmem, f x', find?_updReg hx' f, hf x' hruns⟩

theorem Exchanged.fillNext {s t : State} {r : Nat} {x : Region} (h : Exchanged s r x t) : Exchanged s r x (t.fillNext r) := by
  unfold State.fillNext
  dsimp only
  split
  · exact h
  · exact h.updReg (fun _ hx' => hx'.mapBenches _ (fun _ y => startFill_plane_elems y _ _ _))

theorem exchanged_exchange {s : State} {r : Nat} {x : Region} (hx : s.regions.find? r = some x) (n : BitVec 24) :
    Exchanged s r x (s.exchange r n) := by
  obtain ⟨hmem, bs, hbs, hrel⟩ := withdrawn_withdraw hx
  refine ⟨hmem, _, find?_updReg hbs _, ?_, rfl, rfl, rfl, fun b y hy => ?_⟩
  · rw [reg_of_find hbs]
    exact congrArg Shadow.ctx (shadow_getD_of_rel (hrel 0) .init)
  · obtain ⟨y', hy', hshadow, helems⟩ := exists_of_rel_some (hy ▸ hrel b)
    refine ⟨y'.exchange x.place.act x.place.ctx n, find?_mapVal_of_some hy' (fun _ y => y.exchange x.place.act x.place.ctx n),
      congrArg Shadow.plane hshadow, fun e el hel => ?_⟩
    obtain ⟨q, hq⟩ := helems e el hel
    exact ⟨_, find?_mapVal_of_some hq (fun e el => el.loadPlane (y'.shadow.plane.elems.getD e .empty) n), rfl, rfl⟩

theorem exchanged_switchCycle {s : State} {r c : Nat} {x : Region} {w : Switching} (hx : s.regions.find? r = some x)
    (hw : x.switching = some w) (hopen : w.done = false) (hstart : w.start = some c) (hcycle : s.cycle = c + 1)
    (hfresh : x.refill ≠ 3) : Exchanged s r x (s.switchCycle r) := by
  simp only [State.switchCycle, reg_of_find hx, hw, hopen, hstart, hcycle, hfresh, Bool.false_eq_true, if_false, if_true]
  refine ((exchanged_exchange hx _).updReg (fun x' hx' => ?_)).fillNext
  split
  · exact hx'.setLoaded _
  · exact hx'.clearStops.setLoaded _

/-! ### Cycle 2: the switch is over -/

theorem switchCycle_ends {s : State} {r c : Nat} {x : Region} {w : Switching} (hx : s.regions.find? r = some x)
    (hw : x.switching = some w) (hopen : w.done = false) (hstart : w.start = some c) (hcycle : c + 2 ≤ s.cycle) :
    s.switchCycle r = s.updReg r (fun x => { x with
      switching := if w.pass || w.round == x.lastRnd then none else some { w with done := true } }.nextSwitch) := by
  have hlate : s.cycle ≠ c + 1 := by omega
  simp [State.switchCycle, reg_of_find hx, hw, hopen, hstart, hcycle, hlate]

theorem nextSwitch_switching {x : Region} (h : x.owed = []) : x.nextSwitch.switching = x.switching := by
  unfold Region.nextSwitch
  rw [h]
  cases hs : x.switching <;> exact hs

/-! ### The end of a fill -/

section EndFill

variable {y : Bench} {now b : Nat} {m : Image} (hfills : y.shadow.state = 1) (hdue : y.shadow.doneAt ≤ now)

theorem endFill_plane (y : Bench) (now b : Nat) (m : Image) : (y.endFill now b m).plane = y.plane := by
  simp only [Bench.endFill]
  split
  · cases m.badUnit y.shadow.ctx b <;> cases y.shadow.queue <;> rfl
  · rfl

include hfills hdue

theorem endFill_of_readable (hgood : m.badUnit y.shadow.ctx b = none) (hlast : y.shadow.queue = []) :
    (y.endFill now b m).shadow = { y.shadow with state := 2, plane := m.plane y.shadow.ctx b } := by
  simp [Bench.endFill, hfills, hdue, hgood, hlast]

theorem endFill_of_bad {o : Nat} (hbad : m.badUnit y.shadow.ctx b = some o) (hlast : y.shadow.queue = []) :
    (y.endFill now b m).shadow = { y.shadow with state := 3, plane := .empty } := by
  simp [Bench.endFill, hfills, hdue, hbad, hlast]

/-- The next fill begins whether or not this one met an error. -/
theorem endFill_of_queued {img ctx : Nat} {rest : List (Nat × Nat)} (hnext : y.shadow.queue = (img, ctx) :: rest) :
    ∃ p, (y.endFill now b m).shadow
      = { state := 1, ctx := ctx, img := img, doneAt := y.shadow.doneAt + 384, plane := p, queue := rest } := by
  simp only [Bench.endFill, hfills, hdue, and_self, if_true]
  cases hunit : m.badUnit y.shadow.ctx b with
  | none => exact ⟨m.plane y.shadow.ctx b, by simp [hnext]⟩
  | some o => exact ⟨.empty, by simp [hnext]⟩

end EndFill

/-! ### The errors that fills meet -/

/-- The causes that wait at a sequencer or, past its queue, for S (R348). -/
def waitingCauses (q : Seq) : List TrapRec := q.pending ++ q.hold.spill

theorem mem_waitingCauses_pend {q : Seq} {t u : TrapRec} : t ∈ waitingCauses (q.pend u) ↔ t ∈ waitingCauses q ∨ t = u := by
  by_cases hroom : q.pending.length < 8 + (if q.csrs.priv then 0 else 1)
  · simp only [waitingCauses, Seq.pend, hroom, if_true, List.mem_append, List.mem_singleton]
    exact or_right_comm
  · simp only [waitingCauses, Seq.pend, hroom, if_false, List.mem_append, List.mem_singleton, or_assoc]

/-- The record of a fill that met an uncorrectable error in its image (R55; log entry 61). -/
def isFillError (e : Nat × Nat) (t : TrapRec) : Prop :=
  t.cause = 0xA0#8 ∧ t.kind = .async ∧ t.info0 = BitVec.ofNat 64 e.1 ∧ t.info1 = BitVec.ofNat 64 e.2

/-- Errors of fills become causes that wait at the region's sequencer. -/
def raiseFillErrors (r : Nat) (errs : List (Nat × Nat)) (s : State) : State :=
  errs.foldl (fun s e => s.asyncRaise r 0xA0 (dw e.1) (dw e.2) 0#64 0#64) s

/-- Every error raised waits at the sequencer, and nothing else of the region changes. -/
theorem region_raiseFillErrors (r : Nat) (errs : List (Nat × Nat)) {s : State} {x : Region}
    (hx : s.regions.find? r = some x) : ∃ q, (raiseFillErrors r errs s).regions.find? r = some { x with seq := q }
      ∧ (∀ t ∈ waitingCauses x.seq, t ∈ waitingCauses q) ∧ ∀ e ∈ errs, ∃ t ∈ waitingCauses q, isFillError e t := by
  induction errs generalizing s x with
  | nil => exact ⟨x.seq, hx, fun _ h => h, by simp⟩
  | cons e errs ih =>
    obtain ⟨q, hq, hkept, hraised⟩ := ih (s := s.asyncRaise r 0xA0 (dw e.1) (dw e.2) 0#64 0#64) (find?_updReg hx _)
    refine ⟨q, hq, fun t ht => hkept t (mem_waitingCauses_pend.2 (.inl ht)), fun e' he' => ?_⟩
    rcases List.mem_cons.1 he' with rfl | he'
    · exact ⟨_, hkept _ (mem_waitingCauses_pend.2 (.inr rfl)), rfl, rfl, rfl, rfl⟩
    · exact hraised e' he'

/-- A due fill of a listed bench whose record carries an error is among the errors met. -/
theorem mem_fillErrors {s : State} {r b o : Nat} {x : Region} {y : Bench} (hb : hasBench s r b x y)
    (hfills : y.shadow.state = 1) (hdue : y.shadow.doneAt ≤ s.cycle)
    (hbad : (s.image r y.shadow.img).badUnit y.shadow.ctx (x.recordOf (s.image r y.shadow.img) b) = some o) :
    (y.shadow.img, o) ∈ s.fillErrors r := by
  obtain ⟨hx, hy⟩ := hb
  unfold State.fillErrors
  rw [reg_of_find hx]
  exact List.mem_filterMap.2 ⟨(b, y), mem_of_find? hy, by simp [hfills, hdue, hbad]⟩

/-- The benches of a region once every due fill has ended. -/
def endedFills (s : State) (r : Nat) (x : Region) : FMap Bench :=
  x.benches.mapVal (fun b y => y.endFill s.cycle (x.recordOf (s.image r y.shadow.img) b) (s.image r y.shadow.img))

theorem find?_endedFills {s : State} {r b : Nat} {x : Region} {y : Bench} (hy : x.benches.find? b = some y) :
    (endedFills s r x).find? b
      = some (y.endFill s.cycle (x.recordOf (s.image r y.shadow.img) b) (s.image r y.shadow.img)) :=
  find?_mapVal_of_some hy _

/-- Every due fill of a region ends. -/
def endFills (r : Nat) (s : State) : State := s.updReg r (fun x => { x with benches := endedFills s r x })

/-- In a region that neither waits for its first context nor refills after a void, the due fills end and their errors are
raised; nothing follows on them. -/
theorem exec_fillComplete {s : State} {r : Nat} {x : Region} (hx : s.regions.find? r = some x) (hlife : x.life ≠ .filling)
    (hrefill : x.refill = 0) : exec (.fillComplete r) s = .next (raiseFillErrors r (s.fillErrors r) (endFills r s)) := by
  obtain ⟨q, hq, -, -⟩ := region_raiseFillErrors r (s.fillErrors r) (s := endFills r s) (find?_updReg hx _)
  change execFillComplete r s = _
  simp only [raiseFillErrors, endFills, endedFills] at hq ⊢
  simp [execFillComplete, reg_of_find hq, hlife, hrefill]

/-- The bench has ended its due fill, and every error met waits at the sequencer. -/
theorem exec_fillComplete_bench {s : State} {r b : Nat} {x : Region} {y : Bench} (hb : hasBench s r b x y)
    (hlife : x.life ≠ .filling) (hrefill : x.refill = 0) : ∃ s', exec (.fillComplete r) s = .next s'
      ∧ (s'.reg r).bench b = y.endFill s.cycle (x.recordOf (s.image r y.shadow.img) b) (s.image r y.shadow.img)
      ∧ ∀ e ∈ s.fillErrors r, ∃ t ∈ waitingCauses (s'.reg r).seq, isFillError e t := by
  obtain ⟨hx, hy⟩ := hb
  obtain ⟨q, hq, -, hraised⟩ := region_raiseFillErrors r (s.fillErrors r) (s := endFills r s) (find?_updReg hx _)
  refine ⟨_, exec_fillComplete hx hlife hrefill, ?_⟩
  rw [reg_of_find hq]
  exact ⟨bench_of_find (find?_endedFills hy), hraised⟩

/-! ### The obligation -/

/-- Settles O39: cycle by cycle of a switch, and fill by fill, from what each leaves of the region. What a switch waits for
and its third cycle are log entry 21, the record of 0xA0 and the fill that waits for the one under way log entry 61. -/
theorem planesSwitchAndFill : Obligations.PlanesSwitchAndFill := by
  unfold Obligations.PlanesSwitchAndFill
  intro s r b x y w c i hb
  have hi : exec i s = .next (s.switchCycle r) := exec_switching w.pass r s
  have ⟨hx, hy⟩ := hb
  refine ⟨fun hw hopen hstart hdrained hfilled hvalid hshape => ⟨fun hmatched => ?_, fun t hleft hg => ?_⟩,
    fun hw hopen hstart hcycle hfresh => ?_, fun hw hopen hstart hcycle howed => ?_, fun hfills hdue hlife hrefill => ?_⟩
  · refine ⟨_, hi, ?_⟩
    rw [switchCycle_begins hx hw hopen hstart hdrained hfilled hvalid hshape hmatched, reg_updReg hx]
    exact ⟨rfl, rfl⟩
  · refine ⟨_, roundCause 0x97 t.tag (x.holder t) t.header 0#64 0#64, hi, ?_⟩
    rw [switchCycle_fails hx hw hopen hstart hdrained hfilled hvalid hshape hleft,
      reg_raiseRound, reg_updReg hx]
    have hx' := find?_updReg hx (fun x => { x with switching := none, seq := x.seq.disarm })
    exact ⟨rfl, rfl, raised_raiseRound hx' hg _, rfl, rfl⟩
  · obtain ⟨hmem, x', hx', hruns⟩ := exchanged_switchCycle hx hw hopen hstart hcycle hfresh
    obtain ⟨y', hy', hplane, helems⟩ := hruns.bench b y hy
    refine ⟨_, hi, ?_⟩
    rw [reg_of_find hx', bench_of_find hy']
    refine ⟨hplane, hruns.ctx, hruns.phase, hruns.cache, hruns.g, fun e el hel => ?_, hmem⟩
    obtain ⟨el', hel', hkept⟩ := helems e el hel
    rwa [elem_of_find hel']
  · refine ⟨_, hi, ?_⟩
    rw [switchCycle_ends hx hw hopen hstart hcycle, reg_updReg hx]
    refine (nextSwitch_switching ?_).trans ?_
    · exact howed
    · simp
  · obtain ⟨s', hstep, hbench, herrs⟩ := exec_fillComplete_bench hb hlife hrefill
    simp only [Region.recordOf] at hbench
    refine ⟨fun hgood hlast => ?_, fun o hbad hlast => ?_, fun img ctx rest hnext => ?_⟩ <;> refine ⟨s', hstep, ?_⟩ <;>
      rw [hbench]
    · rw [endFill_of_readable hfills hdue hgood hlast]
      exact ⟨rfl, rfl, endFill_plane ..⟩
    · rw [endFill_of_bad hfills hdue hbad hlast]
      exact ⟨rfl, endFill_plane .., herrs _ (mem_fillErrors hb hfills hdue hbad)⟩
    · obtain ⟨p, hp⟩ := endFill_of_queued hfills hdue hnext
      rw [hp]
      exact ⟨rfl, rfl, rfl, rfl⟩

end Sys2Proof.Proofs.Planes
end

section
/-! PROOFS. The words of a sequencer at their firing: what each family changes before its block commits, and what becomes of a
word that may not run (R95, R96, R120, R307). -/

namespace Sys2Proof.Proofs.Words

open Sys2Proof Sys2Proof.Machine Sys2Proof.Claims Sys2Proof.Laws

/-! ### Words that leave the state to their block -/

/-- Firing leaves the state itself alone, whatever it makes of the block. -/
def KeepsState (s : State) (f : SeqView → Fired) : Prop := ∀ v s' b, f v = some (s', b) → s' = s

/-- An instruction whose firing changes its block only. -/
def FiresInBlock (s : State) (i : Instr) : Prop := ∃ f, exec i s = s.seqOp i f ∧ KeepsState s f

theorem keepsState_some (s : State) (g : SeqView → Block) : KeepsState s (fun v => some (s, g v)) := by
  rintro v s' b ⟨⟩
  rfl

theorem firesInBlock_seqFn {s : State} {i : Instr} {d : GReg} {f : SeqView → DWord} (h : exec i s = s.seqFn i d f) :
    FiresInBlock s i := ⟨_, h, keepsState_some s _⟩

theorem firesInBlock_seqPred {s : State} {i : Instr} {p : PReg} {f : SeqView → Bool} (h : exec i s = s.seqPred i p f) :
    FiresInBlock s i := ⟨_, h, keepsState_some s _⟩

theorem firesInBlock_seqAct {s : State} {i : Instr} {f : SeqView → Act} (h : exec i s = s.seqAct i f) :
    FiresInBlock s i := ⟨_, h, keepsState_some s _⟩

theorem firesInBlock_seqDiv {s : State} {i : Instr} {d a b : GReg} {f : DWord → DWord → DWord}
    (h : exec i s = s.seqDiv i d a b f) : FiresInBlock s i := by
  refine ⟨_, h, fun v s' q hq => ?_⟩
  split at hq <;> cases hq <;> rfl

theorem firesInBlock_seqExit {s : State} {i : Instr} {sense : Bool} {q : PReg} {x : Fin 4} {call : Bool}
    {target : SeqView → DWord} (h : exec i s = s.seqExit i sense q x call target) : FiresInBlock s i := by
  refine ⟨_, h, fun v s' q hq => ?_⟩
  split at hq <;> cases hq <;> rfl

theorem state_of_seqLoad {s s' : State} {v : SeqView} {i : Instr} {d : GReg} {sgn : Bool} {ea : Nat}
    {named : Option (BitVec 24)} {parts : List Part} {b : Block}
    (h : s.seqLoad v i d sgn ea named parts = some (s', b)) : s' = s := by
  unfold State.seqLoad at h
  split at h
  · cases h
  · cases h
    rfl
  · split at h
    · cases h
    · split at h <;> cases h <;> rfl

theorem firesInBlock_seqLd {s : State} {i : Instr} {d a : GReg} {z : Size} {sgn : Bool} {o : BitVec 11}
    (h : exec i s = s.seqLd i d a z sgn o) : FiresInBlock s i := by
  refine ⟨_, h, fun v s' q hq => ?_⟩
  split at hq
  · cases hq
    rfl
  · exact state_of_seqLoad hq

theorem firesInBlock_ldver (s : State) (d a b : GReg) (g : Bool) (z : Size) : FiresInBlock s (.ldver d a b g z) := by
  refine ⟨_, rfl, fun v s' q hq => ?_⟩
  dsimp only at hq
  split at hq
  · cases hq
    rfl
  · exact state_of_seqLoad hq

theorem firesInBlock_seqAtomic {s : State} {i : Instr} {op : Nat} {d a b : GReg} {dbl : Bool}
    (h : exec i s = s.seqAtomic i op d a b dbl) : FiresInBlock s i := by
  refine ⟨_, h, fun v s' q hq => ?_⟩
  dsimp only at hq
  split at hq <;> cases hq <;> rfl

theorem firesInBlock_seqEngine {s : State} {i : Instr} {cmd : Nat} {d a b : GReg}
    (h : exec i s = s.seqEngine i cmd d a b) : FiresInBlock s i := by
  refine ⟨_, h, fun v s' q hq => ?_⟩
  dsimp only at hq
  split at hq
  · cases hq
    rfl
  · split at hq
    · cases hq
      rfl
    · split at hq
      · split at hq <;> cases hq <;> rfl
      · cases hq
        rfl

theorem firesInBlock_st (s : State) (r a : GReg) (z : Size) (o : BitVec 11) : FiresInBlock s (.st r a z o) := by
  refine ⟨_, rfl, fun v s' q hq => ?_⟩
  split at hq
  all_goals
    cases hq
    rfl

theorem firesInBlock_reclaim (s : State) (a b : GReg) : FiresInBlock s (.reclaim a b) := by
  refine ⟨_, rfl, fun v s' q hq => ?_⟩
  split at hq
  · cases hq
    rfl
  · cases hq
    rfl
  · dsimp only at hq
    split at hq <;> cases hq <;> rfl

theorem firesInBlock_rndend (s : State) (a : GReg) : FiresInBlock s (.rndend a) := by
  refine ⟨_, rfl, fun v s' q hq => ?_⟩
  dsimp only at hq
  split at hq
  · cases hq
    rfl
  · cases hq

/-! ### The families -/

/-- An integer form writes one register, which is also the one that it poisons. -/
theorem exec_of_aluResult {g : GReg → DWord} {p : PReg → Bool} {i : Instr} {d : GReg} {y : DWord}
    (h : aluResult g p i = some (d, y)) (s : State) :
    (∃ f, exec i s = s.seqFn i d f) ∧ ∀ b : Block, b.poison i = b.setG d ⟨0#64, true⟩ := by
  cases i with
  | add | sub | and | or | xor | andn | shl | shr | sra | fshl | fshr | min | max | minn | maxn | clz | ctz | popc
  | mul | mulh | mulhn | sel | addx =>
    cases h
    exact ⟨⟨_, rfl⟩, fun _ => rfl⟩
  | _ => cases h

theorem firesInBlock_of_aluResult {g : GReg → DWord} {p : PReg → Bool} {i : Instr} {x : GReg × DWord}
    (h : aluResult g p i = some x) (s : State) : FiresInBlock s i := by
  obtain ⟨⟨f, hf⟩, -⟩ := exec_of_aluResult h s
  exact firesInBlock_seqFn hf

theorem firesInBlock_of_immResult {g : GReg → DWord} {i : Instr} {x : GReg × DWord}
    (h : immResult g i = some x) (s : State) : FiresInBlock s i := by
  cases i with
  | addi | andi | ori | xori | shli | shri | srai | limm | limh => exact firesInBlock_seqFn rfl
  | _ => cases h

theorem firesInBlock_of_predResult {g : GReg → DWord} {p : PReg → Bool} {i : Instr} {x : PReg × Bool}
    (h : predResult g p i = some x) (s : State) : FiresInBlock s i := by
  cases i with
  | cmpeq | cmpne | cmplt | cmpltn | cmple | cmplen | cmpeqImm | cmpneImm | cmpltImm | cmpltnImm | cmpleImm
  | cmplenImm | pand | por | pxor | pnot | pset => exact firesInBlock_seqPred rfl
  | _ => cases h

theorem firesInBlock_of_divResult {g : GReg → DWord} {i : Instr} (h : (divResult g i).isSome = true) (s : State) :
    FiresInBlock s i := by
  cases i with
  | div | rem | divn | remn => exact firesInBlock_seqDiv rfl
  | _ => cases h

theorem firesInBlock_of_exitForm {v : SeqView} {i : Instr} (h : (exitForm v i).isSome = true) (s : State) :
    FiresInBlock s i := by
  cases i with
  | exit | call | exitr | ret => exact firesInBlock_seqExit rfl
  | _ => cases h

theorem firesInBlock_of_loadForm {v : SeqView} {i : Instr} (h : (loadForm v i).isSome = true) (s : State) :
    FiresInBlock s i := by
  cases i with
  | ld | ldSigned => exact firesInBlock_seqLd rfl
  | ldver => exact firesInBlock_ldver s ..
  | _ => cases h

theorem firesInBlock_of_atomicForm {i : Instr} (h : (Claims.atomicForm i).isSome = true) (s : State) : FiresInBlock s i := by
  cases i with
  | aadd | aadds | amin | amax | aand | aor | axor | axch | acas | afadd => exact firesInBlock_seqAtomic rfl
  | _ => cases h

theorem firesInBlock_of_engineForm {i : Instr} (h : (Claims.engineForm i).isSome = true) (s : State) : FiresInBlock s i := by
  cases i with
  | scopy | sload | sstore | sgath | sscat | sprobe | speer | scoll => exact firesInBlock_seqEngine rfl
  | _ => cases h

theorem firesInBlock_of_plainAct {v : SeqView} {i : Instr} (h : (plainAct v i).isSome = true) (s : State) :
    FiresInBlock s i := by
  cases i with
  | squery | fstop | frun | svc | trap | brk | tret | yield => exact firesInBlock_seqAct rfl
  | _ => cases h

/-! ### What a change of the block leaves -/

/-- A word in turn whose firing keeps the state replaces its block. -/
theorem exists_setBlock_of_firesInBlock {s t : State} {v : SeqView} {i : Instr} (hv : s.seqView = some v)
    (hi : FiresInBlock s i) (h : exec i s = .next t) : ∃ b, t = s.setBlock b := by
  obtain ⟨f, hf, hkeeps⟩ := hi
  rcases seqOp_cases (hf ▸ h) with
    ⟨hnone, -⟩ | ⟨_, _, _, _, rfl⟩ | ⟨_, _, _, _, rfl⟩ | ⟨v, s', b, -, hb, rfl⟩ | ⟨_, _, _, rfl⟩
  · simp [hv] at hnone
  · exact ⟨_, rfl⟩
  · exact ⟨_, rfl⟩
  · exact ⟨_, by rw [hkeeps v s' b hb]⟩
  · exact ⟨_, rfl⟩

/-- A region after its block has changed differs in the block at most. -/
theorem seq_setBlock (s : State) (b : Block) (r : Nat) :
    ∃ q, ((s.setBlock b).reg r).seq = { (s.reg r).seq with block := q } := by
  by_cases hr : r = s.focus.region
  · subst hr
    cases hx : s.regions.find? s.focus.region with
    | none => exact ⟨_, by rw [State.setBlock, State.updSeq, updReg_of_none hx]⟩
    | some x => exact ⟨some b, by rw [State.setBlock, State.updSeq, reg_updReg hx, reg_of_find hx]⟩
  · exact ⟨_, by rw [State.setBlock, State.updSeq, reg_updReg_ne s _ hr]⟩

/-- Settles O13: each family leaves the state to its block, and a change of the block leaves everything else. -/
theorem wordsChangeOnlyTheirBlock : Obligations.WordsChangeOnlyTheirBlock := by
  intro s t v i x y hv hi h
  have hfires : FiresInBlock s i := by
    rcases hi with h | h | h | h | h | h | h | h | h | ⟨r, a, z, o, rfl⟩ | ⟨a, b, rfl⟩ | ⟨a, rfl⟩
    · exact firesInBlock_of_aluResult h s
    · exact firesInBlock_of_immResult h s
    · exact firesInBlock_of_predResult h s
    · exact firesInBlock_of_divResult h s
    · exact firesInBlock_of_exitForm h s
    · exact firesInBlock_of_loadForm h s
    · exact firesInBlock_of_atomicForm h s
    · exact firesInBlock_of_engineForm h s
    · exact firesInBlock_of_plainAct h s
    · exact firesInBlock_st s r a z o
    · exact firesInBlock_reclaim s a b
    · exact firesInBlock_rndend s a
  obtain ⟨b, rfl⟩ := exists_setBlock_of_firesInBlock hv hfires h
  refine ⟨⟨b, rfl⟩, fun _ => rfl, rfl, rfl, fun r => ?_⟩
  obtain ⟨q, hq⟩ := seq_setBlock s b r
  rw [hq]
  exact ⟨rfl, rfl, rfl, rfl⟩

/-! ### Words that may not run -/

/-- At J the trap registers may not be read. -/
theorem reason_csrr_trapRegister {v : SeqView} (hpriv : v.blk.csrs.priv = false) (d : GReg) {k : BitVec 12}
    (hlo : 0x101#12 ≤ k) (hhi : k ≤ 0x107#12) : v.reason (.csrr d k) = some 11 := by
  have hinfo : ∃ w, csrInfo k.toNat = some (w, 0, 3) := by
    have hlo : 0x101 ≤ k.toNat := hlo
    have hhi : k.toNat ≤ 0x107 := hhi
    generalize k.toNat = n at hlo hhi
    obtain rfl | rfl | rfl | rfl | rfl | rfl | rfl : n = 0x101 ∨ n = 0x102 ∨ n = 0x103 ∨ n = 0x104 ∨ n = 0x105 ∨ n = 0x106
        ∨ n = 0x107 := by omega
    all_goals exact ⟨_, rfl⟩
  obtain ⟨w, hw⟩ := hinfo
  simp [SeqView.reason, csrReason, csrNeed, hw, hpriv]

theorem reason_tret {v : SeqView} (hpriv : v.blk.csrs.priv = false) : v.reason .tret = some 11 := by
  simp [SeqView.reason, csrReason, hpriv]

theorem refusedAndPoisonedWords : RefusedAndPoisonedWords := by
  intro s v i d x y poisoned hv
  refine ⟨fun halu hreason => ?_, fun halu hreason hpoison => ?_,
    fun k hpriv => ⟨reason_tret hpriv, reason_csrr_trapRegister hpriv d⟩⟩
  · obtain ⟨⟨f, hf⟩, hpoisons⟩ := exec_of_aluResult halu s
    rw [hf, State.seqFn, seqOp_refused hv hreason, hpoisons]
    rfl
  · obtain ⟨⟨f, hf⟩, hpoisons⟩ := exec_of_aluResult halu s
    rw [hf, State.seqFn, seqOp_poisoned hv hreason hpoison, hpoisons]

theorem lowestCauseStands : LowestCauseStands := by
  intro b c i0 i1 i2 i3
  refine ⟨fun hnone => ?_, fun e he hle => ?_, fun e he hlt => ?_⟩
  · simp [Block.raise, hnone]
  · rw [raise_of_raised he hle, he]
  · simp [Block.raise, he, hlt]

/-- Settles O12: an integer form is refused or poisoned as every word in turn is, and its block keeps the lowest cause. -/
theorem wordsThatCannotRun : Obligations.WordsThatCannotRun := ⟨refusedAndPoisonedWords, lowestCauseStands⟩

end Sys2Proof.Proofs.Words
end

section
/-! PROOFS. The frame of the element operations: each only queues effects for its bundle (R99). -/

namespace Sys2Proof.Proofs.Elems

open Sys2Proof Sys2Proof.Machine Sys2Proof.Claims Sys2Proof.Laws

/-- Every instruction of the element operations' encoding is an element operation of its view. -/
theorem exec_of_encode_e {i : Instr} {w : BitVec 40} (h : encode i = .e w) (s : State) :
    ∃ f, exec i s = .next (s.elemOp i f) := by
  cases i with
  | fadd | fsub | fmul | fma | fmax | fmin | fabs | fneg | frcp | frsq | fexp2 | flog2 | fcmp | iadd | isub | imul
  | eAnd | eOr | eXor | eAndn | eShl | eShr | eSra | iadds | isubs | imulh | imin | imax | iabs | eClz | ePopc
  | eFshr | eFshl | bext | bdep | cvt | qnt | dqnt | outl | gmax | gmin | gsum | gscan | shuf | splat | eSel | steer
  | mergeT | mergeC | join | fork | gate | mark | taggen | cnt | ctltok | mov | agen | agwin | agpad | agstep | agrw
  | mld | mst | mstm | mgath | mscat | mord | mprobe | lld | lst | lstm | sphdr | sptree | rmw | vote | csacc
  | csnorm | red | rtag => exact ⟨_, rfl⟩
  | _ => cases h

/-- Effects entered leave the benches and the sequencer of every region. -/
theorem reg_enter (s : State) (effs : List Eff) (r : Nat) : ∃ q, (s.enter effs).reg r = { s.reg r with fab := q } := by
  by_cases hr : r = s.focus.region
  · subst hr
    cases hx : s.regions.find? s.focus.region with
    | none => exact ⟨_, by rw [State.enter, updReg_of_none hx]⟩
    | some x => exact ⟨_, by rw [enter_reg hx, reg_of_find hx]⟩
  · exact ⟨_, by rw [enter_reg_ne s effs hr]⟩

/-- Settles O19: an element operation in focus enters the effects of its view, which join the issues of its region. -/
theorem elementOperationsOnlyQueueEffects : Obligations.ElementOperationsOnlyQueueEffects := by
  intro s i w v hw hv
  obtain ⟨f, hf⟩ := exec_of_encode_e hw s
  refine ⟨f v, by rw [hf, elemOp_of_view hv], fun _ => rfl, fun r => ?_⟩
  obtain ⟨q, hq⟩ := reg_enter s (f v) r
  rw [hq]
  exact ⟨rfl, rfl⟩

end Sys2Proof.Proofs.Elems
end

section
/-! PROOFS. Elastic channels and control lines: where a token that is due lands, and what is left of the channel or the line
(R106 to R108, R328). -/

namespace Sys2Proof.Proofs.Channels

open Sys2Proof Sys2Proof.Machine Sys2Proof.Claims Sys2Proof.Laws Sys2Proof.Proofs.Planes

/-! ### Tokens put into input buffers -/

@[simp] theorem updElem_graph (s : State) (r b e g : Nat) (f : Element → Element) :
    (s.updElem r b e f).graph g = s.graph g := rfl

theorem hasElem_updGraph {s : State} {r b e g : Nat} {x : Region} {y : Bench} {el : Element} (h : hasElem s r b e x y el)
    (f : Graph → Graph) : hasElem (s.updGraph g f) r b e x y el := h

theorem elem_updElem_of_find {x : Region} {b e : Nat} {y : Bench} {el : Element} (hy : x.benches.find? b = some y)
    (hel : y.elems.find? e = some el) (f : Element → Element) : ((x.updElem b e f).bench b).elem e = f el := by
  rw [Region.updElem, bench_updBench hy, elem_updElem hel]

/-- A token pushed into an element's input stands behind those of its buffer. -/
theorem bufs_push (el : Element) (n : Nat) (t : Token) : (el.push n t).bufs.getD n [] = el.bufs.getD n [] ++ [t] := by
  simp [Element.push]

theorem buffer_of_hasElem {s : State} {r b e : Nat} {x : Region} {y : Bench} {el : Element} (h : hasElem s r b e x y el)
    (n : Nat) : buffer s r b e n = el.bufs.getD n [] := by
  obtain ⟨hx, hy, hel⟩ := h
  simp only [buffer, reg_of_find hx, bench_of_find hy, elem_of_find hel]

theorem buffer_push {s : State} {r b e : Nat} {x : Region} {y : Bench} {el : Element} (h : hasElem s r b e x y el)
    (n : Nat) (t : Token) : buffer (s.updElem r b e (fun el => el.push n t)) r b e n = buffer s r b e n ++ [t] := by
  have hbuf := buffer_of_hasElem h n
  obtain ⟨hx, hy, hel⟩ := h
  rw [hbuf, buffer, State.updElem, reg_updReg hx, elem_updElem_of_find hy hel, bufs_push]

/-! ### Channels of a graph -/

/-- A channel of a graph after it has changed. -/
theorem chan_updGraph {s : State} {g c : Nat} {G : Graph} {ch : Elastic} (hG : s.graphs.find? g = some G)
    (hch : G.chans.find? c = some ch) (f : Elastic → Elastic) (d : Elastic) :
    ((s.updGraph g (fun x => { x with chans := x.chans.modify c f })).graph g).chans.getD c d = f ch := by
  rw [graph_updGraph hG]
  simp [FMap.getD, hch]

/-- A channel changed twice. -/
theorem chan_updGraph_twice {s : State} {g c : Nat} {G : Graph} {ch : Elastic} (hG : s.graphs.find? g = some G)
    (hch : G.chans.find? c = some ch) (f f' : Elastic → Elastic) (d : Elastic) :
    (((s.updGraph g (fun x => { x with chans := x.chans.modify c f })).updGraph g
      (fun x => { x with chans := x.chans.modify c f' })).graph g).chans.getD c d = f' (f ch) :=
  chan_updGraph (G := { G with chans := G.chans.modify c f }) (by simp [hG]) (by simp [hch]) f' d

theorem elasticRoom_updGraph (s : State) (g c : Nat) (f : Graph → Graph) (ch : Elastic) :
    (s.updGraph g f).elasticRoom c ch = s.elasticRoom c ch := rfl

section Elastic

variable {s : State} {g c due r b e n : Nat} {G : Graph} {ch : Elastic} {t : Token}
  {rest : List Token} {flight : List (Nat × Token)}
variable (hG : s.graphs.find? g = some G) (hch : G.chans.find? c = some ch)

include hG hch

theorem exec_elasticTokenArrival_lands (hdst : ch.dst = (r, b, e, n)) (hflight : ch.flight = (due, t) :: flight)
    (hdue : due ≤ s.cycle) (hempty : ch.qmem = []) (hroom : s.elasticRoom c ch = true) :
    exec (.elasticTokenArrival g c) s = .next ((s.updGraph g (fun x =>
      { x with chans := x.chans.modify c (fun y => { y with flight := flight }) })).updElem r b e (fun el => el.push n t)) := by
  simp [exec, execElasticTokenArrival, graph_of_find hG, hch, hflight, Nat.not_lt.2 hdue, hdst, hempty,
    elasticRoom_updGraph, hroom]

theorem exec_elasticTokenArrival_queues (hflight : ch.flight = (due, t) :: flight)
    (hdue : due ≤ s.cycle) (hqueue : ch.qmem ≠ [] ∨ s.elasticRoom c ch = false) :
    exec (.elasticTokenArrival g c) s = .next ((s.updGraph g (fun x =>
      { x with chans := x.chans.modify c (fun y => { y with flight := flight }) })).updGraph g (fun x =>
      { x with chans := x.chans.modify c (fun y => { y with qmem := y.qmem ++ [t] }) })) := by
  have hstays : (ch.qmem.isEmpty && s.elasticRoom c ch) = false := by
    rcases hqueue with h | h <;> simp [h]
  simp [exec, execElasticTokenArrival, graph_of_find hG, hch, hflight, Nat.not_lt.2 hdue, elasticRoom_updGraph, hstays]

theorem exec_queueMemoryTransfer_moves (hdst : ch.dst = (r, b, e, n)) (hqueue : ch.qmem = t :: rest)
    (hroom : s.elasticRoom c ch = true) :
    exec (.queueMemoryTransfer g c) s = .next ((s.updGraph g (fun x =>
      { x with chans := x.chans.modify c (fun y => { y with qmem := rest }) })).updElem r b e (fun el => el.push n t)) := by
  simp [exec, execQueueMemoryTransfer, graph_of_find hG, hch, hqueue, hdst, hroom]

end Elastic

theorem elasticChannelsMoveTokens : ElasticChannelsMoveTokens := by
  intro s g c due r b e n G ch t rest flight x y el hG hch hdst hel
  refine ⟨fun hflight hdue hempty hroom => ?_, fun hflight hdue hqueue => ?_, fun hqueue hroom => ?_, ?_⟩
  · refine ⟨_, exec_elasticTokenArrival_lands hG hch hdst hflight hdue hempty hroom, ?_⟩
    dsimp only
    rw [updElem_graph, chan_updGraph hG hch]
    exact ⟨rfl, hempty, buffer_push (hasElem_updGraph hel _) n t⟩
  · refine ⟨_, exec_elasticTokenArrival_queues hG hch hflight hdue hqueue, ?_⟩
    dsimp only
    rw [chan_updGraph_twice hG hch]
    exact ⟨rfl, rfl, rfl⟩
  · refine ⟨_, exec_queueMemoryTransfer_moves hG hch hdst hqueue hroom, ?_⟩
    dsimp only
    rw [updElem_graph, chan_updGraph hG hch]
    exact ⟨rfl, rfl, buffer_push (hasElem_updGraph hel _) n t⟩
  · refine ⟨_, rfl, ?_⟩
    dsimp only
    rw [chan_updGraph hG hch]
    exact ⟨rfl, rfl, rfl⟩

/-! ### Control lines -/

/-- A token lands in the one buffer that is bound to its line. -/
theorem landLine_of_one {x : Region} {line b e n : Nat} (h : x.lineInputs line = [(b, e, n)]) (t : Token) :
    x.landLine line t = x.updElem b e (fun el => el.push n t) := by
  simp [Region.landLine, h]

theorem buffer_landLine {s : State} {r b e n line : Nat} {x : Region} {y : Bench} {el : Element} (h : hasElem s r b e x y el)
    {f : Region → Region} (hf : (f x).benches = x.benches) (hline : x.lineInputs line = [(b, e, n)]) (t : Token) :
    buffer (s.updReg r (fun x => (f x).landLine line t)) r b e n = buffer s r b e n ++ [t] := by
  have hbuf := buffer_of_hasElem h n
  obtain ⟨hx, hy, hel⟩ := h
  have hline' : (f x).lineInputs line = [(b, e, n)] := by simpa only [Region.lineInputs, hf] using hline
  rw [hbuf, buffer, reg_updReg hx, landLine_of_one hline', elem_updElem_of_find (hf ▸ hy) hel, bufs_push]

@[simp] theorem landLine_fab (x : Region) (line : Nat) (t : Token) : (x.landLine line t).fab = x.fab :=
  List.foldlRecOn (motive := fun y : Region => y.fab = x.fab) _ _ rfl (fun _ h _ _ => h)

@[simp] theorem landLine_seq (x : Region) (line : Nat) (t : Token) : (x.landLine line t).seq = x.seq :=
  List.foldlRecOn (motive := fun y : Region => y.seq = x.seq) _ _ rfl (fun _ h _ _ => h)

theorem exec_controlTokenArrival_written {s : State} {r line : Nat} {x : Region} {l : Nat × Nat × Token}
    (hx : s.regions.find? r = some x)
    (hl : x.fab.lines.find? (fun l => l.1 == line && decide (l.2.1 ≤ x.fab.ucycle)) = some l) :
    exec (.controlTokenArrival r line) s = .next (s.updReg r (fun x =>
      ({ x with fab := { x.fab with lines := x.fab.lines.erase l } }).landLine line l.2.2)) := by
  simp [exec, execControlTokenArrival, reg_of_find hx, hl]

theorem exec_controlTokenArrival_injected {s : State} {r line due : Nat} {x : Region} {t : Token}
    {rest : List (Nat × Token)} (hx : s.regions.find? r = some x) (hl : x.fab.lines = [])
    (hq : x.seq.ctlq.getD line [] = (due, t) :: rest) (hdue : due ≤ s.cycle) (hroom : x.lineRoom line = true) :
    exec (.controlTokenArrival r line) s = .next (s.updReg r (fun x =>
      ({ x with seq := { x.seq with ctlq := x.seq.ctlq.set [] line rest } }).landLine line t)) := by
  simp [exec, execControlTokenArrival, reg_of_find hx, hl, hq, hdue, hroom]

theorem controlTokensReachTheirReaders : ControlTokensReachTheirReaders := by
  intro s r line b e n due x y el l t rest hel hline
  have hx := hel.1
  refine ⟨fun hl => ?_, fun hl hq hdue hroom => ?_⟩
  · refine ⟨_, exec_controlTokenArrival_written hx hl, buffer_landLine hel rfl hline _, ?_, rfl⟩
    rw [reg_updReg hx, landLine_fab]
  · refine ⟨_, exec_controlTokenArrival_injected hx hl hq hdue hroom, buffer_landLine hel rfl hline _, ?_, rfl⟩
    rw [reg_updReg hx, landLine_seq, getD_set_self]

/-- Settles O29: each arrival is one update of its channel or line and one push into the reader's buffer. -/
theorem channelsDeliverTokens : Obligations.ChannelsDeliverTokens :=
  ⟨elasticChannelsMoveTokens, controlTokensReachTheirReaders⟩

end Sys2Proof.Proofs.Channels
end

section
/-! PROOFS. The end of a block: what a commit leaves of registers, predicates and memory, what a discard leaves, and what the
fill of a line of the block cache leaves (R92, R95, R96, R121, R150, R154, R287, R289). That a read behind an act of its block
is checked at the commit is the model's choice (log entries 7, 10 and 51), as is no-exit where no word raised a cause (log entry
52). -/

namespace Sys2Proof.Proofs.Blocks

open Sys2Proof Sys2Proof.Machine Sys2Proof.Claims Sys2Proof.Laws Sys2Proof.Proofs.Planes

/-! ### Runs of writes -/

/-- Of the bytes written one by one, each address holds the last; every other address stays. -/
theorem read_foldl_write (bs : List (Nat × Byte)) (m : Memory) (a : Nat) :
    (bs.foldl (fun m b => m.write b.1 b.2) m).read a
      = (((bs.filter (fun b => b.1 == a)).getLast?).map Prod.snd).getD (m.read a) := by
  induction bs generalizing m with
  | nil => rfl
  | cons b bs ih =>
    rw [List.foldl_cons, ih, List.filter_cons]
    by_cases hb : b.1 = a
    · subst hb
      rw [read_write_self, if_pos (beq_self_eq_true b.1), List.getLast?_cons]
      cases (bs.filter (fun c => c.1 == b.1)).getLast? <;> rfl
    · rw [read_write_ne _ _ (Ne.symm hb), if_neg (by simpa using hb)]

/-- Of the writes of a list into a map, each key holds the first; every other key stays. -/
theorem find?_foldr_put {α β : Type} (w : FMap β) (f : β → α) (m : FMap α) (k : Nat) :
    (w.foldr (fun w m => FMap.put m w.1 (f w.2)) m).find? k = ((w.find? k).map f).or (m.find? k) := by
  induction w with
  | nil => rfl
  | cons p w ih =>
    obtain ⟨j, y⟩ := p
    rw [List.foldr_cons, FMap.find?]
    split
    · subst k
      simp
    · rw [find?_put_ne _ _ ‹_›, ih]

theorem getD_foldr_put {α β : Type} (w : FMap β) (f : β → α) (m : FMap α) (k : Nat) (d : α) :
    (w.foldr (fun w m => FMap.put m w.1 (f w.2)) m).getD k d = ((w.find? k).map f).getD (m.getD k d) := by
  rw [FMap.getD, find?_foldr_put]
  cases w.find? k <;> rfl

/-! ### Stores at the commit -/

theorem writeAt_mem (s : State) (bs : List (Nat × Byte)) :
    (s.writeAt bs).mem = bs.foldl (fun m b => m.write b.1 b.2) s.mem := rfl

theorem storesReachMemoryAtCommit : StoresReachMemoryAtCommit := fun s _ _ _ bs a =>
  ⟨read_foldl_write bs s.mem a, rfl, rfl⟩

/-- The acts of a block that leaves plain stores: position and bytes of each. -/
def storeActs (stores : List (Nat × List (Nat × Byte))) : List (Nat × Act) := stores.map (fun a => (a.1, .store a.2))

/-- The stores of a block write their bytes one after another and change no region and nothing of the block. -/
theorem foldl_doAct_stores (stores : List (Nat × List (Nat × Byte))) (s : State) (r : Nat) (b : Block) :
    ∃ t, (storeActs stores).foldl (fun (sb : State × Block) a => sb.1.doAct r sb.2 a.1 a.2) (s, b) = (t, b)
      ∧ t.mem = (stores.flatMap Prod.snd).foldl (fun m b => m.write b.1 b.2) s.mem ∧ t.regions = s.regions := by
  induction stores generalizing s with
  | nil => exact ⟨s, rfl, rfl, rfl⟩
  | cons a stores ih =>
    obtain ⟨t, ht, hmem, hregions⟩ := ih (s.writeAt a.2)
    refine ⟨t, ht, ?_, hregions⟩
    rw [hmem, List.flatMap_cons, List.foldl_append, writeAt_mem]

/-- A store is no trap word. -/
theorem foldl_trapAct_stores (stores : List (Nat × List (Nat × Byte))) (s : State) (r : Nat) (round : BitVec 24) :
    (storeActs stores).foldl (fun s a => s.trapAct r round a.2) s = s := by
  induction stores with
  | nil => rfl
  | cons a stores ih => exact ih

theorem isEngine_store (bs : List (Nat × Byte)) : (Act.store bs).isEngine = false := rfl
theorem lineTokens_store (bs : List (Nat × Byte)) (l : Nat) : (Act.store bs).lineTokens l = 0 := rfl
theorem writes_store (bs : List (Nat × Byte)) : (Act.store bs).writes = bs.map Prod.fst := rfl

/-- Plain stores to lines that no evacuation copies wait for nothing but room among the engine commands. -/
theorem canCommit_stores {s : State} {r : Nat} {b : Block} {stores : List (Nat × List (Nat × Byte))}
    (hacts : b.acts = storeActs stores) (hlocks : ∀ a ∈ stores, ∀ q ∈ a.2, s.vatLocked q.1 = false)
    (hroom : (s.reg r).seq.outstanding.length ≤ 64) : s.canCommit r b = true := by
  have hall : b.acts.map Prod.snd = stores.map (fun a => .store a.2) := by
    rw [hacts, storeActs, List.map_map]
    rfl
  have hengines : (stores.map (fun a => Act.store a.2)).filter Act.isEngine = [] := by
    rw [List.filter_eq_nil_iff, List.forall_mem_map]
    simp [isEngine_store]
  have htokens : ∀ l, ((stores.map (fun a => Act.store a.2)).map (fun a => a.lineTokens l)).foldl (· + ·) 0 = 0 := by
    intro l
    rw [← List.sum_eq_foldl_nat, List.sum_eq_zero_iff_forall_eq_nat, List.map_map, List.forall_mem_map]
    exact fun a _ => lineTokens_store a.2 l
  have hopen : (stores.map (fun a => Act.store a.2)).any (fun a => a.writes.any s.vatLocked) = false := by
    simpa [writes_store] using hlocks
  simp only [State.canCommit, hall, hengines, htokens, hopen]
  simpa using hroom

/-! ### The exit that leaves the block -/

/-- The one of two exits with the lower index, the first of equals. -/
def lower (m x : Exit) : Exit := if x.index < m.index then x else m

theorem lower_cases (m x : Exit) : lower m x = m ∨ lower m x = x := by
  unfold lower
  split <;> simp

theorem lower_le (m x : Exit) : (lower m x).index ≤ m.index ∧ (lower m x).index ≤ x.index := by
  unfold lower
  split <;> omega

theorem foldl_lower (es : List Exit) (m : Exit) :
    es.foldl lower m ∈ m :: es ∧ ∀ f ∈ m :: es, (es.foldl lower m).index ≤ f.index := by
  induction es generalizing m with
  | nil => simp
  | cons x es ih =>
    obtain ⟨hmem, hle⟩ := ih (lower m x)
    obtain ⟨hm, hx⟩ := lower_le m x
    have hfold := hle _ List.mem_cons_self
    rw [List.foldl_cons]
    refine ⟨?_, fun f hf => ?_⟩
    · rcases List.mem_cons.1 hmem with h | h
      · rcases lower_cases m x with h' | h' <;> rw [h, h'] <;> simp
      · simp [h]
    · rcases List.mem_cons.1 hf with rfl | hf
      · exact Nat.le_trans hfold hm
      · rcases List.mem_cons.1 hf with rfl | hf
        · exact Nat.le_trans hfold hx
        · exact hle f (List.mem_cons_of_mem _ hf)

/-- Of the exits that hold the one whose index is below every other leaves the block (R95). -/
theorem exit_eq_some {b : Block} {e : Exit} (he : e ∈ b.exits) (hlow : ∀ f ∈ b.exits, f ≠ e → e.index < f.index) :
    b.exit = some e := by
  unfold Block.exit
  split
  · simp_all
  · rename_i m es hes
    obtain ⟨hmem, hle⟩ := foldl_lower es m
    rw [← hes] at hmem hle
    refine congrArg some (Decidable.byContradiction fun hne => ?_ : es.foldl lower m = e)
    have := hlow _ hmem hne
    have := hle e he
    omega

theorem exit_isSome {b : Block} (h : b.exits ≠ []) : ∃ e, b.exit = some e := by
  unfold Block.exit
  split
  · contradiction
  · exact ⟨_, rfl⟩

theorem cause_eq_none {b : Block} (hexc : b.exc = none) (h : b.exits ≠ []) : b.cause = none := by
  simp [Block.cause, hexc, h]

/-! ### Registers after a commit -/

@[simp] theorem late_pw (b : Block) (pos : Nat) (n : GReg) (x : DWord) : (b.late pos n x).pw = b.pw := by
  unfold Block.late
  split <;> rfl

@[simp] theorem late_csrs (b : Block) (pos : Nat) (n : GReg) (x : DWord) : (b.late pos n x).csrs = b.csrs := by
  unfold Block.late
  split <;> rfl

@[simp] theorem late_capClear (b : Block) (pos : Nat) (n : GReg) (x : DWord) :
    (b.late pos n x).capClear = b.capClear := by
  unfold Block.late
  split <;> rfl

/-- The fall-through address that a CALL leaves in g63, unless a later word of the block writes it. -/
theorem find?_late_g63 (b : Block) (pos : Nat) (x : DWord) (n : Nat) :
    ((b.late pos 63 x).gw.find? n).map SVal.val
      = if n = 63 ∧ b.gpos.getD 63 0 ≤ pos then some x else (b.gw.find? n).map SVal.val := by
  have hlate : b.late pos 63 x = if pos < b.gpos.getD 63 0 then b
      else { b with gw := b.gw.put 63 ⟨x, false⟩, gpos := b.gpos.put 63 pos } := by
    have hreg : (63 : GReg).val = 63 := rfl
    have hne : (63 : GReg) ≠ 0 := by decide
    simp only [Block.late, hreg, hne, false_or]
  rw [hlate]
  split
  · rw [if_neg (by omega)]
  · by_cases hn : n = 63
    · subst hn
      simp [Nat.le_of_not_lt ‹_›]
    · simp [hn, find?_put_ne]

/-- The writes of a block as its exit leaves them: a CALL that is taken adds its own. -/
def called (b : Block) (e : Exit) : Block :=
  if e.call then b.late e.pos 63 (dw (b.addr + 4 * b.words.length)) else b

theorem committed_eq (q : Seq) (b : Block) (e : Exit) : q.committed b e = { q.endBlock with
    g := (called b e).gw.foldr (fun w m => m.put w.1 w.2.val) q.g
    p := b.pw.foldr (fun w m => m.put w.1 w.2.1) q.p
    csrs := { b.csrs with capvec := q.csrs.capvec &&& ~~~b.capClear }
    pc := e.target } := by
  unfold Seq.committed called
  cases e.call <;> simp

theorem find?_called (b : Block) (e : Exit) (n : Nat) : ((called b e).gw.find? n).map SVal.val
    = if e.call = true ∧ n = 63 ∧ b.gpos.getD 63 0 ≤ e.pos then some (dw (b.addr + 4 * b.words.length))
      else (b.gw.find? n).map SVal.val := by
  unfold called
  cases e.call
  · simp
  · simp [find?_late_g63]

/-- A general register after a commit: the fall-through address of a CALL, what the block gave it, or what it held. -/
theorem committed_g (q : Seq) (b : Block) (e : Exit) (n : Nat) : (q.committed b e).g.getD n 0#64
    = if e.call = true ∧ n = 63 ∧ b.gpos.getD 63 0 ≤ e.pos then BitVec.ofNat 64 (b.addr + 4 * b.words.length)
      else ((b.gw.find? n).map SVal.val).getD (q.g.getD n 0#64) := by
  rw [committed_eq]
  refine (getD_foldr_put _ SVal.val q.g n 0#64).trans ?_
  rw [find?_called]
  split <;> rfl

theorem committed_p (q : Seq) (b : Block) (e : Exit) (n : Nat) :
    (q.committed b e).p.getD n false = ((b.pw.find? n).map Prod.fst).getD (q.p.getD n false) := by
  rw [committed_eq]
  exact getD_foldr_put _ Prod.fst q.p n false

/-! ### Commit and discard -/

section

variable {s : State} {r : Nat} {x : Region} {b : Block}
variable (hx : s.regions.find? r = some x) (hb : x.seq.block = some b) (hfired : b.words.length ≤ b.idx)

include hx hb hfired

theorem exec_blockCommit_discards {t : TrapRec} (hcause : b.cause = some t) :
    exec (.blockCommit r) s = .next ((s.freeSlots b.slots).blockCause r t) := by
  simp [exec, execBlockCommit, reg_of_find hx, hb, Nat.not_lt.2 hfired, hcause]

theorem exec_blockCommit_commits {e : Exit} (hcause : b.cause = none) (hexit : b.exit = some e)
    (hcan : s.canCommit r b = true) (hstale : b.stale s.mem = false) :
    exec (.blockCommit r) s = .next (s.commitBlock r b e) := by
  simp [exec, execBlockCommit, reg_of_find hx, hb, Nat.not_lt.2 hfired, hcause, hexit, hcan, hstale]

theorem exec_blockCommit_fires_anew {e : Exit} (hcause : b.cause = none) (hexit : b.exit = some e)
    (hcan : s.canCommit r b = true) (hstale : b.stale s.mem = true) :
    exec (.blockCommit r) s = .next (s.updSeq r (fun q => { q with block := some b.back })) := by
  simp [exec, execBlockCommit, reg_of_find hx, hb, Nat.not_lt.2 hfired, hcause, hexit, hcan, hstale]

end

theorem reg_updSeq {s : State} {r : Nat} {x : Region} (h : s.regions.find? r = some x) (f : Seq → Seq) :
    ((s.updSeq r f).reg r) = { x with seq := f x.seq } := reg_updReg h _

theorem reg_updSeq_ne (s : State) {r q : Nat} (f : Seq → Seq) (h : q ≠ r) : (s.updSeq r f).reg q = s.reg q :=
  reg_updReg_ne s _ h

/-- The commit of a block that leaves plain stores and ends no round: its stores, then its registers and exit. -/
theorem commitBlock_stores {s : State} {r : Nat} {x : Region} {b : Block} {stores : List (Nat × List (Nat × Byte))}
    (hx : s.regions.find? r = some x) (hacts : b.acts = storeActs stores) (hround : b.csrs.round = x.seq.csrs.round)
    (e : Exit) :
    ∃ t : State, s.commitBlock r b e = t.updSeq r (fun q => q.committed b e) ∧ t.regions = s.regions
      ∧ t.mem = (stores.flatMap Prod.snd).foldl (fun m b => m.write b.1 b.2) s.mem := by
  obtain ⟨t, hfold, hmem, hregions⟩ := foldl_doAct_stores stores s r b
  refine ⟨t, ?_, hregions, hmem⟩
  simp only [State.commitBlock, hacts, hfold, foldl_trapAct_stores, reg_of_find hx, hround, if_true]

theorem blocksCommitWhole : BlocksCommitWhole := by
  intro s r x b e es stores hx hb hfired hexc hes he hlow hacts hlocks hstale hroom hround
  subst hes
  have hcan := canCommit_stores (r := r) hacts hlocks (by rwa [reg_of_find hx])
  obtain ⟨t, hcommit, hregions, hmem⟩ := commitBlock_stores hx hacts hround e
  have hx' : t.regions.find? r = some x := hregions ▸ hx
  refine ⟨_, exec_blockCommit_commits hx hb hfired (cause_eq_none hexc (List.ne_nil_of_mem he)) (exit_eq_some he hlow)
    hcan hstale, ?_⟩
  rw [hcommit, reg_updSeq hx']
  refine ⟨?_, ?_, ?_, committed_g _ _ _, committed_p _ _ _, fun a => ?_, fun q hq => ?_⟩
  · rw [committed_eq]
    rfl
  · rw [committed_eq]
  · rw [committed_eq]
  · rw [updSeq_mem, hmem, read_foldl_write]
  · rw [reg_updSeq_ne _ _ hq, State.reg, hregions, State.reg]

theorem stale_eq_true {b : Block} {m : Memory} (h : ∃ q ∈ b.seen, m.read q.1 ≠ q.2) : b.stale m = true := by
  simpa [Block.stale] using h

theorem readsBehindAnActHoldAtTheCommit : ReadsBehindAnActHoldAtTheCommit := by
  intro s r x b m hx hb hfired hexc hexits hcan hseen hmark
  obtain ⟨e, he⟩ := exit_isSome hexits
  refine ⟨_, b.back, exec_blockCommit_fires_anew hx hb hfired (cause_eq_none hexc hexits) he hcan (stale_eq_true hseen),
    rfl, rfl, fun q hq => reg_updSeq_ne _ _ hq, ?_, ?_, rfl⟩
  · rw [reg_updSeq hx]
  · simp [Block.back, hmark]

theorem freeSlots_nil (s : State) : s.freeSlots [] = s := rfl

theorem blocksAreDiscardedWhole : BlocksAreDiscardedWhole := by
  intro s r x b c hx hb hfired hslots hc
  have hcause : b.cause = some c := by
    rcases hc with ⟨k, hexc⟩ | ⟨hexc, hexits, rfl⟩
    · simp [Block.cause, hexc]
    · simp [Block.cause, hexc, hexits, Block.noExit, dw]
  refine ⟨_, exec_blockCommit_discards hx hb hfired hcause, ?_⟩
  rw [hslots]
  refine ⟨rfl, rfl, ?_⟩
  rw [freeSlots_nil, State.blockCause, reg_updSeq hx]
  exact ⟨rfl, rfl, rfl, rfl, rfl, rfl, rfl, rfl⟩

/-! ### Fills of the block cache -/

/-- The sequencer waits for no line any more. -/
def filled (s : State) (r : Nat) : State := s.updSeq r (fun q => { q with filling := none })

/-- A set of the block cache with a line added as the latest used; of the others at most three stay. -/
def withLine (set : List CLine) (l : CLine) : List CLine :=
  let others := set.filter (fun k => k.addr != l.addr)
  others.drop (others.length - 3) ++ [l]

theorem getLast?_withLine (set : List CLine) (l : CLine) : (withLine set l).getLast? = some l := by
  simp [withLine]

theorem length_withLine (set : List CLine) (l : CLine) : (withLine set l).length ≤ 4 := by
  simp only [withLine, List.length_append, List.length_drop, List.length_singleton]
  omega

theorem mem_of_mem_withLine {set : List CLine} {l k : CLine} (h : k ∈ withLine set l) (hk : k.addr ≠ l.addr) : k ∈ set := by
  rcases List.mem_append.1 h with h | h
  · exact (List.mem_filter.1 (List.mem_of_mem_drop h)).1
  · simp_all

/-! What a change of a sequencer leaves of translation and reads, none of which looks at it beyond its stale entries. -/

theorem seqCheck_updSeq (s : State) (r : Nat) (f : Seq → Seq) (job kind : Nat) (verp : Option Bool) (ea n : Nat) :
    (s.updSeq r f).seqCheck job kind verp ea n = s.seqCheck job kind verp ea n := rfl

theorem tlb_updSeq {s : State} {r : Nat} {x : Region} (hx : s.regions.find? r = some x) {f : Seq → Seq}
    (hf : (f x.seq).stale = x.seq.stale) : (s.updSeq r f).tlb r = (s.tlb r).updSeq r f := by
  rw [State.tlb, State.tlb, reg_updSeq hx, reg_of_find hx]
  simp only [hf]
  split <;> rfl

theorem readParts_updSeq (s : State) (r reader : Nat) (f : Seq → Seq) (named : Option (BitVec 24)) (parts : List Part) :
    (s.updSeq r f).readParts reader named parts = s.readParts reader named parts := by
  induction parts with
  | nil => rfl
  | cons p ps ih =>
    have hpart : (s.updSeq r f).readPart reader named p = s.readPart reader named p := rfl
    simp only [State.readParts, hpart, ih]

theorem cacheLost_updSeq {s : State} {r : Nat} {x : Region} (hx : s.regions.find? r = some x) (f : Seq → Seq) :
    (s.updSeq r f).cacheLost r = s.cacheLost r := by
  simp only [State.cacheLost, reg_updSeq hx, reg_of_find hx]
  rfl

theorem exec_blockCacheLineFill_fills {s : State} {r addr due : Nat} {x : Region} {parts : List Part} {bs : List Byte}
    {err : Bool} (hx : s.regions.find? r = some x) (hfill : x.seq.filling = some (addr, due)) (hdue : due ≤ s.cycle)
    (hcheck : (s.tlb r).seqCheck x.job 3 none addr 64 = .ok parts)
    (hread : s.readParts x.writer none parts = .bytes bs err) :
    exec (.blockCacheLineFill r addr) s = .next ((filled s r).updSeq r (fun q =>
      let set := cacheSet (s.cacheLost r) addr
      { q with cache := q.cache.put set (withLine (q.cache.getD set []) ⟨addr, bs, false⟩) })) := by
  have htlb : ((filled s r).tlb r).seqCheck x.job 3 none addr 64 = .ok parts := by
    rw [filled, tlb_updSeq hx rfl, seqCheck_updSeq, hcheck]
  have hbytes : (filled s r).readParts x.writer none parts = .bytes bs err := by
    rw [filled, readParts_updSeq, hread]
  have hlost : (filled s r).cacheLost r = s.cacheLost r := cacheLost_updSeq hx _
  simp only [filled] at htlb hbytes hlost
  simp only [exec, execBlockCacheLineFill, reg_of_find hx, hfill, hdue, htlb, hbytes, hlost, and_self, if_true]
  rfl

theorem cacheLineFillsAreLeastRecentlyUsed : CacheLineFillsAreLeastRecentlyUsed := by
  intro s r addr due x parts bs err hx hfill hdue hcheck hread
  have hx' : (filled s r).regions.find? r = some { x with seq := { x.seq with filling := none } } := by
    simp [filled, hx]
  refine ⟨_, exec_blockCacheLineFill_fills hx hfill hdue hcheck hread, ?_⟩
  rw [reg_updSeq hx']
  refine ⟨rfl, rfl, ?_⟩
  dsimp only
  rw [getD_put_self]
  exact ⟨ getLast?_withLine _ _, length_withLine _ _, fun l hl hne => mem_of_mem_withLine hl hne⟩

/-- Settles O33: a block's end is a commit, a return to its mark or a discard, and each is one change of its sequencer behind
the writes of its stores. -/
theorem blocksAreAtomic : Obligations.BlocksAreAtomic :=
  ⟨blocksCommitWhole, readsBehindAnActHoldAtTheCommit, blocksAreDiscardedWhole, storesReachMemoryAtCommit,
    cacheLineFillsAreLeastRecentlyUsed⟩

end Sys2Proof.Proofs.Blocks
end

section
/-! PROOFS. Loads: the register value of the bytes read, and where each byte comes from (R94, R151 to R154, R310). An earlier
store of the block is found by its physical address (log entry 50). -/

namespace Sys2Proof.Proofs.Loads

open Sys2Proof Sys2Proof.Machine Sys2Proof.Claims Sys2Proof.Laws

/-! ### The number that bytes hold -/

theorem littleEndian_eq_leNat (bs : List Byte) : littleEndian bs = leNat bs := by
  rw [littleEndian, List.foldl_reverse]
  induction bs with
  | nil => rfl
  | cons b bs ih => rw [List.foldr_cons, ih, leNat, Nat.add_comm]

theorem leNat_lt (bs : List Byte) : leNat bs < 256 ^ bs.length := by
  induction bs with
  | nil => simp [leNat]
  | cons b bs ih =>
    have hb : b.toNat < 256 := b.isLt
    rw [leNat, List.length_cons, Nat.pow_succ]
    omega

/-- The sign of a number below 2^w. -/
theorem sext_of_lt {w n : Nat} (h : n < 2 ^ w) :
    sext w n = if 2 ^ w ≤ 2 * n then (n : Int) - (2 ^ w : Nat) else (n : Int) := by
  rw [sext, Nat.mod_eq_of_lt h]
  split
  · rw [if_neg (by omega)]
  · rw [if_pos (by omega)]

/-- Loaded bytes as the model extends them are the claim's value. -/
theorem loadValue_eq_loaded (sgn : Bool) (bs : List Byte) : loadValue sgn bs = loaded sgn bs := by
  have hpow : 2 ^ (8 * bs.length) = 256 ^ bs.length := Nat.pow_mul 2 8 bs.length
  rw [loadValue, loaded, littleEndian_eq_leNat, sext_of_lt (hpow ▸ leNat_lt bs), hpow]
  cases sgn
  · simp [dw]
  · simp only [true_and, if_true, ge_iff_le]
    split <;> simp

/-! ### Addresses -/

theorem ofInt_toInt_eq_signExtend (o : BitVec 11) : BitVec.ofInt 64 o.toInt = o.signExtend 64 := rfl

/-- The effective address of an SM word is the claim's (R151). -/
theorem ea_eq_smAddress (v : SeqView) (a : GReg) (z : Size) (o : BitVec 11) : v.ea a z o = smAddress (v.g a) z o := by
  unfold SeqView.ea smAddress
  rw [BitVec.ofInt_add, BitVec.ofInt_mul, ofInt_toInt_eq_signExtend, BitVec.ofInt_natCast]
  cases z <;> simp [Size.bytes, dw]

theorem bytes_eq_sizeBytes (z : Size) : Size.bytes z = sizeBytes z := rfl

/-! ### Reads -/

theorem lostByte_of_readable {s : State} {v : SeqView} {as : List (Option Nat)} (h : readable s v as) :
    as.any (v.lostByte s) = false := by
  rw [List.any_eq_false]
  rintro (_ | pa) ha
  · simp [SeqView.lostByte]
  · rcases (h pa ha).2 with hgood | hstored
    · simp [SeqView.lostByte, hgood]
    · simp [SeqView.lostByte, Option.isNone_iff_eq_none, hstored]

theorem vatLocked_of_readable {s : State} {v : SeqView} {as : List (Option Nat)} (h : readable s v as) :
    as.any (fun a => a.any s.vatLocked) = false := by
  rw [List.any_eq_false]
  rintro (_ | pa) ha
  · simp
  · simp [(h pa ha).1]

/-- A load of bytes that can be read fires with their value. -/
theorem seqLoad_of_readable {s : State} {v : SeqView} {named : Option (BitVec 24)} {parts : List Part}
    {as : List (Option Nat)} (haddrs : s.addrs v.reg.writer named parts = .ok as false) (hread : readable s v as)
    (i : Instr) (d : GReg) (sgn : Bool) (ea : Nat) :
    s.seqLoad v i d sgn ea named parts
      = some (s, v.sees s.mem as parts (v.blk.put d (loaded sgn (as.map (v.loadByte s.mem))))) := by
  simp [State.seqLoad, haddrs, vatLocked_of_readable hread, lostByte_of_readable hread, loadValue_eq_loaded]

/-- A byte that the block has not stored is among those that its read rests on. -/
theorem mem_readBytes {v : SeqView} {m : Memory} {as : List (Option Nat)} {parts : List Part} {pa : Nat}
    (ha : some pa ∈ as) (hown : storedByte v.blk.acts pa = none) : (pa, m.read pa) ∈ v.readBytes m as parts := by
  refine List.mem_map.2 ⟨pa, List.mem_append_left _ (List.mem_filterMap.2 ⟨some pa, ha, ?_⟩), rfl⟩
  simp [hown]

/-- What a read leaves of its block: the value, and behind an act of the block the bytes that it saw. -/
theorem readInto_sees (s : State) (v : SeqView) (as : List (Option Nat)) (parts : List Part) (d : GReg) (x : DWord) :
    readInto s v as d x (v.sees s.mem as parts (v.blk.put d x)) := by
  by_cases hbehind : v.blk.before.any actsAtCommit = true
  · rw [SeqView.sees, if_pos hbehind]
    refine ⟨rfl, rfl, rfl, rfl, rfl, rfl, rfl, rfl, rfl, fun h => ?_, fun _ pa ha hown => ?_⟩
    · simp [hbehind] at h
    · exact List.mem_append_right _ (mem_readBytes ha hown)
  · rw [SeqView.sees, if_neg hbehind]
    exact ⟨rfl, rfl, rfl, rfl, rfl, rfl, rfl, rfl, rfl, fun _ => rfl, fun h => absurd h hbehind⟩

/-- A load of an SM word whose pages pass their checks. -/
theorem seqLd_of_checked {s : State} {v : SeqView} {a : GReg} {z : Size} {o : BitVec 11} {parts : List Part}
    (hcheck : (s.tlb v.r).seqCheck v.reg.job 0 none (smAddress (v.g a) z o) (sizeBytes z) = .ok parts) (i : Instr)
    (d : GReg) (sgn : Bool) :
    ∃ f, s.seqLd i d a z sgn o = s.seqOp i f ∧ f v = s.seqLoad v i d sgn (smAddress (v.g a) z o) none parts :=
  ⟨_, rfl, by simp only [ea_eq_smAddress, bytes_eq_sizeBytes, hcheck]⟩

/-- A load word fires what its checked pages hold. -/
theorem exec_of_loadForm {s : State} {v : SeqView} {i : Instr} {d : GReg} {ea n : Nat} {sgn : Bool}
    {named : Option (BitVec 24)} {parts : List Part} (hform : loadForm v i = some (d, ea, n, sgn, named))
    (hcheck : loadChecked s v i ea n parts) :
    ∃ f, exec i s = s.seqOp i f ∧ f v = s.seqLoad v i d sgn ea named parts := by
  cases i with
  | ld | ldSigned =>
    cases hform
    exact seqLd_of_checked hcheck ..
  | ldver d a b g z =>
    cases hform
    obtain ⟨hparts, hline⟩ := hcheck
    refine ⟨_, rfl, ?_⟩
    simp [State.seqAccess, oneLine, bytes_eq_sizeBytes, hparts, hline]
  | _ => cases hform

theorem loadsReadMemory : LoadsReadMemory := by
  intro s v i d ea n sgn named parts as hturn hform hcheck haddrs hread
  obtain ⟨f, hexec, hf⟩ := exec_of_loadForm hform hcheck
  rw [seqLoad_of_readable haddrs hread] at hf
  exact ⟨_, hexec ▸ seqOp_fires hturn hf, readInto_sees s v as parts d _⟩

/-! ### Stores of the block -/

/-- A byte of a block's last store is the last that it puts at the address, else an earlier act's. -/
theorem storedByte_append_store (acts : List (Nat × Act)) (k : Nat) (bs : List (Nat × Byte)) (pa : Nat) :
    storedByte (acts ++ [(k, .store bs)]) pa
      = (((bs.filter (fun b => b.1 == pa)).getLast?).map Prod.snd).or (storedByte acts pa) := by
  simp only [storedByte, List.foldl_append, List.foldl_cons, List.foldl_nil]
  cases (bs.filter (fun b => b.1 == pa)).getLast? <;> rfl

theorem loadsSeeEarlierStoresOfTheBlock : LoadsSeeEarlierStoresOfTheBlock := by
  intro acts k pa bs b
  refine ⟨rfl, ?_, fun h => ?_⟩
  · simp [storedByte_append_store]
  · have hnone : bs.filter (fun x => x.1 == pa) = [] := by simpa using h
    simp [storedByte_append_store, hnone]

/-- Settles O5: a load that can read its bytes fires with their value, each from the latest store of the block or memory. -/
theorem loadsReturnTheBytes : Obligations.LoadsReturnTheBytes := ⟨loadsReadMemory, loadsSeeEarlierStoresOfTheBlock⟩

end Sys2Proof.Proofs.Loads
end

section
/-! PROOFS. What a step does with each kind of job, and that the cycles and package time go on when no job is left (R5, R92 to
R100; log entry 1). -/

namespace Sys2Proof.Proofs.Step

open Sys2Proof Sys2Proof.Machine Sys2Proof.Claims Sys2Proof.Laws Sys2Proof.Proofs.Device

/-! ### The cycle count and package time under Derrick's housekeeping -/

/-- The cycle count and package time. -/
def clock (s : State) : Nat × Nat := (s.cycle, s.time)

/-- A run of operations that each leave the clock leaves it. -/
theorem clock_foldl {β : Type} (f : State → β → State) (hf : ∀ s x, clock (f s x) = clock s) (l : List β) (s : State) :
    clock (l.foldl f s) = clock s :=
  List.foldlRecOn (motive := fun t => clock t = clock s) l f rfl (fun _ ih x _ => (hf _ x).trans ih)

@[simp] theorem clock_updReg (s : State) (r : Nat) (f : Region → Region) : clock (s.updReg r f) = clock s := rfl
@[simp] theorem clock_updSeq (s : State) (r : Nat) (f : Seq → Seq) : clock (s.updSeq r f) = clock s := rfl
@[simp] theorem clock_updGraph (s : State) (g : Nat) (f : Graph → Graph) : clock (s.updGraph g f) = clock s := rfl
@[simp] theorem clock_updJob (s : State) (j : Nat) (f : Job → Job) : clock (s.updJob j f) = clock s := rfl
@[simp] theorem clock_updSup (s : State) (f : Sup → Sup) : clock (s.updSup f) = clock s := rfl
@[simp] theorem clock_updQueue (s : State) (q : Nat) (f : WQueue → WQueue) : clock (s.updQueue q f) = clock s := rfl
@[simp] theorem clock_note (s : State) (a : DerrickAct) : clock (s.note a) = clock s := rfl
@[simp] theorem clock_emit (s : State) (m : OutMsg) : clock (s.emit m) = clock s := rfl
@[simp] theorem clock_ticket (s : State) : clock s.ticket.1 = clock s := rfl
@[simp] theorem clock_now (s : State) (e : Event) : clock (s.now e) = clock s := rfl

@[simp] theorem clock_poke (s : State) (job fuel va : Nat) (bs : List Byte) : clock (s.poke job fuel va bs) = clock s := by
  induction fuel generalizing s va bs with
  | zero => rfl
  | succ fuel ih =>
    unfold State.poke
    split
    · rfl
    · refine (ih ..).trans ?_
      split <;> rfl

@[simp] theorem clock_pokeD (s : State) (job va x : Nat) : clock (s.pokeD job va x) = clock s := clock_poke ..

@[simp] theorem clock_pokeQ (s : State) (q va : Nat) (bs : List Byte) : clock (s.pokeQ q va bs) = clock s :=
  clock_poke (s.inSpace (s.queue q).root) ..

@[simp] theorem clock_setNode (s : State) (job node st : Nat) : clock (s.setNode job node st) = clock s := by
  simp [State.setNode, State.writeState, apply_ite clock]

@[simp] theorem clock_failNode (s : State) (job node st cause : Nat) (tag : BitVec 24) :
    clock (s.failNode job node st cause tag) = clock s := by
  simp [State.failNode]

@[simp] theorem clock_ringAppend (s : State) (q : Nat) (body : List Byte) : clock (s.ringAppend q body) = clock s := by
  simp [State.ringAppend]

@[simp] theorem clock_reportJob (s : State) (j : Nat) : clock (s.reportJob j) = clock s := by
  simp [State.reportJob, State.launchReport, State.sendReport, apply_ite clock]

@[simp] theorem clock_retain (s : State) (j : Nat) : clock (s.retain j) = clock s := by
  refine (clock_foldl _ (fun s j => ?_) _ _).trans rfl
  simp [apply_ite clock]

@[simp] theorem clock_jobState (s : State) (j st cause : Nat) (tag : BitVec 24) (info : List DWord) (told : Bool) :
    clock (s.jobState j st cause tag info told) = clock s := by
  simp [State.jobState, apply_ite clock]

@[simp] theorem clock_recordGraph (s : State) (g : Nat) : clock (s.recordGraph g) = clock s := by
  simp [State.recordGraph, apply_ite clock]

@[simp] theorem clock_recordJob (s : State) (j : Nat) : clock (s.recordJob j) = clock s := by
  unfold State.recordJob
  dsimp only
  split
  · split <;> simp
  · rfl

@[simp] theorem clock_recordEnds (s : State) : clock s.recordEnds = clock s := by
  unfold State.recordEnds
  split
  · rw [clock_foldl _ clock_recordJob, clock_foldl _ clock_recordGraph]
  · rfl

@[simp] theorem clock_release (s : State) (r : Nat) (l : Life) : clock (s.release r l) = clock s := by
  simp only [State.release, State.vacate]
  split <;> rfl

@[simp] theorem clock_gangAlarm (s : State) (j : Nat) : clock (s.gangAlarm j) = clock s := by
  unfold State.gangAlarm
  split <;> rfl

@[simp] theorem clock_failGraph (s : State) (g cause : Nat) : clock (s.failGraph g cause) = clock s := by
  unfold State.failGraph
  simp [clock_foldl]

@[simp] theorem clock_notify (s : State) (n : NotifyMsg) : clock (s.notify n).1 = clock s := by
  unfold State.notify
  dsimp only
  split
  · dsimp only
    split
    · unfold State.nextPacket
      split <;> rfl
    · rfl
  · unfold State.dropNotify
    split <;> rfl

@[simp] theorem clock_serveLaunch (s : State) (r : Nat) : clock (s.serveLaunch r) = clock s := by
  unfold State.serveLaunch
  split
  · rfl
  · simp

@[simp] theorem clock_dropBoundary (s : State) (g : Nat) : clock (s.dropBoundary g) = clock s := by
  unfold State.dropBoundary
  dsimp only
  split
  · rfl
  · exact (clock_foldl _ (fun s r => clock_updReg s r _) _ _).trans rfl

@[simp] theorem clock_housekeep (s : State) : clock s.housekeep = clock s := by
  unfold State.housekeep
  simp only [clock_recordEnds]
  rw [clock_foldl _ clock_dropBoundary, clock_foldl _ clock_serveLaunch, clock_foldl]
  intro s g
  split <;> simp

theorem clock_derrickTurn (s : State) : clock s.derrickTurn.1 = clock s := by
  unfold State.derrickTurn
  split
  · simp
  · rfl

theorem clock_tick (s : State) : clock s.tick = (s.cycle + 1, s.time + cycleUnits s.clk) :=
  clock_derrickTurn { s with cycle := s.cycle + 1, time := s.time + cycleUnits s.clk }

theorem cycleUnits_pos (clk : Nat) : 0 < cycleUnits clk := by
  unfold cycleUnits
  split <;> decide

/-! ### Jobs -/

theorem step_of_work {s : State} {w : Work} {ws : List Work} (hp : s.powered = true) (hw : s.work = w :: ws) :
    step s = ({ s with work := ws } : State).runWork w := by
  simp [step, State.stepWork, hp, hw]

/-- A queued step of the device is exec of the constructor of its name. -/
theorem runEvent_of_isStep {i : Instr} {e : Event} (h : isStep i e) (s : State) : runEvent e s = exec i s := by
  cases e
  all_goals
    cases h
    rfl

/-- The word that stands in turn is the one at the position that was named. -/
theorem idx_of_turnTo {s : State} {r k : Nat} {v : SeqView} (h : (s.turnTo r k).seqView = some v) : v.blk.idx = k := by
  simp only [State.turnTo, State.seqView, updSeq_regions, updSeq_focus, find?_modify_self] at h
  split at h
  · rename_i x hx
    obtain ⟨y, -, rfl⟩ := Option.map_eq_some_iff.1 hx
    obtain ⟨b, hb, rfl⟩ := Option.map_eq_some_iff.1 h
    obtain ⟨c, -, rfl⟩ := Option.map_eq_some_iff.1 hb
    rfl
  · cases h

theorem wordTurn_of_instr {s : State} {r k limit : Nat} {v : SeqView} {i : Instr} (hv : (s.turnTo r k).seqView = some v)
    (hlimit : v.blk.fired.length < limit) (hword : decodeS (v.blk.words.getD k 0#32) = .instr i)
    (hheader : k = 0 → ∃ l x n y, i = .blk l x n y) (htime : v.expired s.time = false)
    (hldver : (s.turnTo r k).ldverExpired v = false) : s.wordTurn r k limit = .word (s.turnTo r k) i := by
  have hi : v.blk.word = .instr i := by rw [Block.word, idx_of_turnTo hv, hword]
  have htime' : v.expired (s.turnTo r k).time = false := htime
  simp only [State.wordTurn, hv, Nat.not_le.2 hlimit, htime', hldver, hi, if_false, Bool.false_eq_true]
  cases k with
  | zero =>
    obtain ⟨l, x, n, y, rfl⟩ := hheader rfl
    rfl
  | succ k => rfl

/-- A sequencer with words to fire puts those that may fire next in line. -/
theorem seqTurn_of_unfired {s : State} {r : Nat} {v : SeqView}
    (hv : ({ s with focus := { s.focus with region := r } } : State).seqView = some v) (hleft : v.blk.unfired ≠ []) :
    ∃ s' m, s.seqTurn r = .done s'
      ∧ s'.work = (v.blk.unfired.filter v.blk.mayFire).map (fun j => .word r j m) ++ s.work
      ∧ m = v.blk.fired.length + (if 0 ∈ v.blk.fired then 4 else 5) := by
  have hleft' : v.blk.unfired.isEmpty = false := by simpa using hleft
  simp only [State.seqTurn, hv, hleft', Bool.false_eq_true, if_false]
  refine ⟨_, _, rfl, rfl, ?_⟩
  by_cases h0 : 0 ∈ v.blk.fired <;> simp [h0]

/-- A block whose words have all fired commits. -/
theorem seqTurn_of_fired {s : State} {r : Nat} {v : SeqView}
    (hv : ({ s with focus := { s.focus with region := r } } : State).seqView = some v) (hdone : v.blk.unfired = []) :
    s.seqTurn r = .ev (({ s with focus := { s.focus with region := r } } : State).setBlock
      { v.blk with idx := v.blk.words.length }) (.blockCommit r) := by
  simp [State.seqTurn, hv, hdone]

theorem tick_goes_on (s : State) : s.tick.cycle = s.cycle + 1 ∧ s.time < s.tick.time := by
  obtain ⟨hcycle, htime⟩ := Prod.mk.inj (clock_tick s)
  exact ⟨hcycle, htime ▸ Nat.lt_add_of_pos_right (cycleUnits_pos s.clk)⟩

/-- Settles O54: one lemma for each kind of job, and Derrick's turn leaves the clock that a new cycle has advanced. -/
theorem stepRunsTheDecodedInstruction : Obligations.StepRunsTheDecodedInstruction := by
  intro s ws r k limit v u i f e s0 s1 hp
  refine ⟨fun hw hv hlimit hword hheader htime hldver => ?_, fun hw hu => ⟨fun hleft => ?_, fun hdone => ?_⟩,
    fun hw => step_of_work hp hw, fun hw he => (step_of_work hp hw).trans (runEvent_of_isStep he _),
    fun hw => ⟨s.tick, step_of_no_work hp hw, tick_goes_on s⟩⟩
  · rw [step_of_work hp hw, State.runWork, wordTurn_of_instr hv hlimit hword hheader htime hldver]
    rfl
  · obtain ⟨s', m, hturn, hwork, hm⟩ := seqTurn_of_unfired (s := { s with work := ws }) hu hleft
    refine ⟨s', m, ?_, hwork, hm⟩
    rw [step_of_work hp hw, State.runWork, hturn]
    rfl
  · rw [step_of_work hp hw, State.runWork, seqTurn_of_fired (s := { s with work := ws }) hu hdone]
    rfl

end Sys2Proof.Proofs.Step
end

section
/-! PROOFS. The integer, immediate, compare and predicate words of the sequencer: the model computes on machine words what the
rules say in exact arithmetic (R139 to R146). -/

namespace Sys2Proof.Proofs.IntWords

open Sys2Proof Sys2Proof.Machine Sys2Proof.Claims Sys2Proof.Laws

/-! ### Numbers and machine words -/

theorem shiftLeft_eq_ofNat {w : Nat} (x : BitVec w) (n : Nat) : x <<< n = BitVec.ofNat w (x.toNat * 2 ^ n) := by
  simp [BitVec.toNat_eq, Nat.shiftLeft_eq]

theorem ushiftRight_eq_ofNat {w : Nat} (x : BitVec w) (n : Nat) : x >>> n = BitVec.ofNat w (x.toNat / 2 ^ n) := by
  have hlt : x.toNat / 2 ^ n < 2 ^ w := Nat.lt_of_le_of_lt (Nat.div_le_self ..) x.isLt
  simp [BitVec.toNat_eq, Nat.shiftRight_eq_div_pow, Nat.mod_eq_of_lt hlt]

theorem sshiftRight_eq_ofInt {w : Nat} (x : BitVec w) (n : Nat) : x.sshiftRight n = BitVec.ofInt w (x.toInt / 2 ^ n) := by
  rw [BitVec.sshiftRight, Int.shiftRight_eq_div_pow, Int.natCast_pow]
  rfl

theorem not_eq_ofNat {w : Nat} (x : BitVec w) : ~~~x = BitVec.ofNat w (2 ^ w - 1 - x.toNat) := by
  rw [← BitVec.toNat_not, BitVec.ofNat_toNat, BitVec.setWidth_eq]

theorem mul_eq_ofInt {w : Nat} (x y : BitVec w) : x * y = BitVec.ofInt w (x.toInt * y.toInt) := by
  rw [BitVec.ofInt_mul, BitVec.ofInt_toInt, BitVec.ofInt_toInt]

theorem sub_eq_ofInt_toNat {w : Nat} (x y : BitVec w) : x - y = BitVec.ofInt w (x.toNat - y.toNat) := by
  simp [Int.sub_eq_add_neg, BitVec.ofInt_add, BitVec.ofInt_neg, BitVec.sub_eq_add_neg]

/-! ### Least and greatest -/

theorem ite_slt_eq_min {w : Nat} (x y : BitVec w) : (if x.slt y then x else y) = BitVec.ofInt w (min x.toInt y.toInt) := by
  by_cases h : x.toInt < y.toInt
  · rw [if_pos (BitVec.slt_iff_toInt_lt.2 h), Int.min_eq_left (Int.le_of_lt h), BitVec.ofInt_toInt]
  · rw [if_neg (mt BitVec.slt_iff_toInt_lt.1 h), Int.min_eq_right (Int.not_lt.1 h), BitVec.ofInt_toInt]

theorem ite_slt_eq_max {w : Nat} (x y : BitVec w) : (if x.slt y then y else x) = BitVec.ofInt w (max x.toInt y.toInt) := by
  by_cases h : x.toInt < y.toInt
  · rw [if_pos (BitVec.slt_iff_toInt_lt.2 h), Int.max_eq_right (Int.le_of_lt h), BitVec.ofInt_toInt]
  · rw [if_neg (mt BitVec.slt_iff_toInt_lt.1 h), Int.max_eq_left (Int.not_lt.1 h), BitVec.ofInt_toInt]

theorem ite_ult_eq_min {w : Nat} (x y : BitVec w) : (if x.ult y then x else y) = BitVec.ofNat w (min x.toNat y.toNat) := by
  by_cases h : x.toNat < y.toNat
  · rw [if_pos (BitVec.ult_iff_toNat_lt.2 h), Nat.min_eq_left (Nat.le_of_lt h), BitVec.ofNat_toNat, BitVec.setWidth_eq]
  · rw [if_neg (mt BitVec.ult_iff_toNat_lt.1 h), Nat.min_eq_right (Nat.not_lt.1 h), BitVec.ofNat_toNat, BitVec.setWidth_eq]

theorem ite_ult_eq_max {w : Nat} (x y : BitVec w) : (if x.ult y then y else x) = BitVec.ofNat w (max x.toNat y.toNat) := by
  by_cases h : x.toNat < y.toNat
  · rw [if_pos (BitVec.ult_iff_toNat_lt.2 h), Nat.max_eq_right (Nat.le_of_lt h), BitVec.ofNat_toNat, BitVec.setWidth_eq]
  · rw [if_neg (mt BitVec.ult_iff_toNat_lt.1 h), Nat.max_eq_left (Nat.not_lt.1 h), BitVec.ofNat_toNat, BitVec.setWidth_eq]

/-! ### Upper halves and funnels -/

/-- The upper half of a 128-bit word. -/
theorem extractLsb'_ofInt (z : Int) : (BitVec.ofInt 128 z).extractLsb' 64 64 = BitVec.ofInt 64 (z / 2 ^ 64) := by
  apply BitVec.eq_of_toNat_eq
  simp only [BitVec.extractLsb'_toNat, BitVec.toNat_ofInt, Nat.shiftRight_eq_div_pow]
  omega

theorem extractLsb'_ofNat (n : Nat) : (BitVec.ofNat 128 n).extractLsb' 64 64 = BitVec.ofNat 64 (n / 2 ^ 64) := by
  rw [← BitVec.ofInt_natCast, extractLsb'_ofInt, ← BitVec.ofInt_natCast]
  rfl

theorem mulh_eq (a b : DWord) : BitVec.ofInt 64 (a.toInt * b.toInt / 2 ^ 64)
    = (a.signExtend 128 * b.signExtend 128).extractLsb' 64 64 := by
  rw [← extractLsb'_ofInt, BitVec.ofInt_mul]
  rfl

theorem mulhn_eq (a b : DWord) : dw (a.toNat * b.toNat / 2 ^ 64)
    = (a.setWidth 128 * b.setWidth 128).extractLsb' 64 64 := by
  rw [dw, ← extractLsb'_ofNat, BitVec.ofNat_mul, BitVec.ofNat_toNat, BitVec.ofNat_toNat]

theorem toNat_pair (x y : DWord) : (x ++ y).toNat = x.toNat * 2 ^ 64 + y.toNat := by
  rw [BitVec.toNat_append, ← Nat.shiftLeft_add_eq_or_of_lt y.isLt, Nat.shiftLeft_eq]

theorem funnelLeft_eq (d a : DWord) (n : Nat) : funnelLeft d a n = ((d ++ a) <<< n).extractLsb' 64 64 := by
  rw [shiftLeft_eq_ofNat, toNat_pair, extractLsb'_ofNat]
  rfl

theorem funnelRight_eq (d a : DWord) (n : Nat) : funnelRight d a n = ((a ++ d) >>> n).extractLsb' 0 64 := by
  rw [← BitVec.setWidth_eq_extractLsb' (by decide), ← BitVec.ofNat_toNat, BitVec.toNat_ushiftRight, toNat_pair,
    Nat.shiftRight_eq_div_pow]
  rfl

/-! ### Counts of bits -/

theorem bit_eq_testBit (x i : Nat) : bit x i = x.testBit i := by
  rw [Nat.testBit_eq_decide_div_mod_eq, bit]
  rfl

/-- Leading zeros: the place of the first one from the top. -/
theorem clzNat_eq_find {w : Nat} (x : BitVec w) :
    clzNat w x.toNat = ((List.range w).find? (fun k => x.getMsbD k)).getD w := by
  rw [clzNat, Nat.mod_eq_of_lt x.isLt]
  by_cases hx : x.toNat = 0
  · have hzero : x = 0#w := BitVec.eq_of_toNat_eq (by simpa using hx)
    have hnone : (List.range w).find? (fun k => x.getMsbD k) = none := by simp [hzero]
    simp [hx, hnone]
  · have hlog : Nat.log2 x.toNat < w := (Nat.log2_lt hx).2 x.isLt
    have hfind : (List.range w).find? (fun k => x.getMsbD k) = some (w - 1 - Nat.log2 x.toNat) := by
      refine List.find?_range_eq_some.2 ⟨?_, List.mem_range.2 (by omega), fun k hk => ?_⟩
      · have hplace : w - 1 - (w - 1 - Nat.log2 x.toNat) = Nat.log2 x.toNat := by omega
        simp only [BitVec.getMsbD, BitVec.getLsbD, hplace, Nat.testBit_log2 hx, Bool.and_true, decide_eq_true_eq]
        omega
      · have hhigh : x.toNat < 2 ^ (w - 1 - k) :=
          Nat.lt_of_lt_of_le Nat.lt_log2_self (Nat.pow_le_pow_right (by decide) (by omega))
        simp [BitVec.getMsbD, BitVec.getLsbD, Nat.testBit_lt_two_pow hhigh]
    simp [hx, hfind]

theorem ctzFrom_eq_find (x fuel i : Nat) :
    ctzFrom x fuel i = ((List.range' i fuel).find? x.testBit).getD (i + fuel) := by
  induction fuel generalizing i with
  | zero => rfl
  | succ fuel ih =>
    rw [ctzFrom, List.range'_succ, List.find?_cons, bit_eq_testBit]
    cases x.testBit i
    · rw [if_neg Bool.false_ne_true, ih, Nat.add_right_comm, Nat.add_assoc]
    · rfl

/-- Trailing zeros: the place of the first one from the bottom. -/
theorem ctzNat_eq_find {w : Nat} (x : BitVec w) :
    ctzNat w x.toNat = ((List.range w).find? (fun k => x.getLsbD k)).getD w := by
  rw [ctzNat, ctzFrom_eq_find, ← List.range_eq_range', Nat.zero_add]
  rfl

theorem popNat_eq_length (x w : Nat) : popNat x w = ((List.range w).filter x.testBit).length := by
  induction w with
  | zero => rfl
  | succ w ih =>
    rw [popNat, ih, bit_eq_testBit, List.range_succ, List.filter_append, List.length_append]
    cases h : x.testBit w <;> simp [h]


/-! ### The integer forms (R139) -/

/-- An integer form computes the claim's result from the registers of its view. -/
theorem exec_eq_seqFn_of_aluResult {v : SeqView} {i : Instr} {d : GReg} {x : DWord}
    (h : aluResult v.g v.p i = some (d, x)) (s : State) : ∃ f, exec i s = s.seqFn i d f ∧ f v = x := by
  cases i with
  | add => cases h; exact ⟨_, rfl, BitVec.add_def _ _⟩
  | sub => cases h; exact ⟨_, rfl, sub_eq_ofInt_toNat _ _⟩
  | and | or | xor => cases h; exact ⟨_, rfl, by simp⟩
  | andn => cases h; exact ⟨_, rfl, by rw [BitVec.ofNat_and, ← not_eq_ofNat, BitVec.ofNat_toNat, BitVec.setWidth_eq]⟩
  | shl => cases h; exact ⟨_, rfl, shiftLeft_eq_ofNat _ _⟩
  | shr => cases h; exact ⟨_, rfl, ushiftRight_eq_ofNat _ _⟩
  | sra => cases h; exact ⟨_, rfl, sshiftRight_eq_ofInt _ _⟩
  | fshl => cases h; exact ⟨_, rfl, funnelLeft_eq _ _ _⟩
  | fshr => cases h; exact ⟨_, rfl, funnelRight_eq _ _ _⟩
  | min => cases h; exact ⟨_, rfl, ite_slt_eq_min _ _⟩
  | max => cases h; exact ⟨_, rfl, ite_slt_eq_max _ _⟩
  | minn => cases h; exact ⟨_, rfl, ite_ult_eq_min _ _⟩
  | maxn => cases h; exact ⟨_, rfl, ite_ult_eq_max _ _⟩
  | clz => cases h; exact ⟨_, rfl, congrArg dw (clzNat_eq_find _)⟩
  | ctz => cases h; exact ⟨_, rfl, congrArg dw (ctzNat_eq_find _)⟩
  | popc => cases h; exact ⟨_, rfl, congrArg dw (popNat_eq_length _ _)⟩
  | mul => cases h; exact ⟨_, rfl, mul_eq_ofInt _ _⟩
  | mulh => cases h; exact ⟨_, rfl, mulh_eq _ _⟩
  | mulhn => cases h; exact ⟨_, rfl, mulhn_eq _ _⟩
  | sel => cases h; exact ⟨_, rfl, rfl⟩
  | addx => cases h; exact ⟨_, rfl, by simp [shiftLeft_eq_ofNat, BitVec.ofNat_add]⟩
  | _ => cases h

/-- Settles O1: each form computes on machine words the number of the table. -/
theorem integerFormsWriteTheirResult : Obligations.IntegerFormsWriteTheirResult := by
  intro s v i d x hturn hresult
  obtain ⟨f, hexec, rfl⟩ := exec_eq_seqFn_of_aluResult hresult s
  rw [hexec, seqFn_fires d f hturn]

/-! ### Division (R140) -/

theorem remSigned_eq_tmod (a b : DWord) : remSigned a b = BitVec.ofInt 64 (a.toInt.tmod b.toInt) := by
  rw [remSigned, Int.tmod_def, Int.mul_comm]

/-- A division computes the claim's result from its two operands, and poisons the register that it would write. -/
theorem exec_eq_seqDiv_of_divResult {g : GReg → DWord} {i : Instr} {d : GReg} {a b x : DWord}
    (h : divResult g i = some (d, a, b, x)) (s : State) :
    ∃ ra rb f, exec i s = s.seqDiv i d ra rb f ∧ g ra = a ∧ g rb = b ∧ f a b = x
      ∧ ∀ k : Block, k.poison i = k.setG d ⟨0#64, true⟩ := by
  cases i with
  | div => cases h; exact ⟨_, _, _, rfl, rfl, rfl, rfl, fun _ => rfl⟩
  | rem => cases h; exact ⟨_, _, _, rfl, rfl, rfl, remSigned_eq_tmod _ _, fun _ => rfl⟩
  | divn => cases h; exact ⟨_, _, _, rfl, rfl, rfl, BitVec.udiv_def, fun _ => rfl⟩
  | remn => cases h; exact ⟨_, _, _, rfl, rfl, rfl, BitVec.umod_def, fun _ => rfl⟩
  | _ => cases h

theorem seqDiv_fires {s : State} {v : SeqView} {i : Instr} (d : GReg) {a b : GReg} (f : DWord → DWord → DWord)
    (hturn : InTurn s v i) (hb : v.g b ≠ 0#64) :
    s.seqDiv i d a b f = .next (s.setBlock (v.blk.put d (f (v.g a) (v.g b))).advance) :=
  seqOp_fires hturn (if_neg hb)

theorem seqDiv_by_zero {s : State} {v : SeqView} {i : Instr} (d : GReg) {a b : GReg} (f : DWord → DWord → DWord)
    (hturn : InTurn s v i) (hb : v.g b = 0#64) :
    s.seqDiv i d a b f = .next (s.setBlock (v.blk.fault i 0x20 (v.g a) (v.blk.info1 0) 0#64 0#64).advance) :=
  seqOp_fires hturn (if_pos hb)

/-- Settles O2: a divisor of zero faults before the quotient is taken. -/
theorem divisionWritesOrRaises : Obligations.DivisionWritesOrRaises := by
  intro s v i d a b x hturn hresult
  obtain ⟨ra, rb, f, hexec, rfl, rfl, rfl, hpoison⟩ := exec_eq_seqDiv_of_divResult hresult s
  refine ⟨fun hb => ?_, fun hb => ?_⟩
  · rw [hexec, seqDiv_fires d f hturn hb]
  · rw [hexec, seqDiv_by_zero d f hturn hb, Block.fault, hpoison, Block.info1, Nat.zero_mul, Nat.add_zero]

/-! ### Immediate forms (R142 to R144) -/

theorem limh_eq_ofNat (x : DWord) (i : BitVec 20) :
    x <<< 20 ||| i.setWidth 64 = BitVec.ofNat 64 (x.toNat * 2 ^ 20 + i.toNat) := by
  rw [← Nat.shiftLeft_eq, Nat.shiftLeft_add_eq_or_of_lt i.isLt, BitVec.ofNat_or, Nat.shiftLeft_eq, ← shiftLeft_eq_ofNat,
    BitVec.ofNat_toNat]

/-- An immediate form computes the claim's result from the registers of its view. -/
theorem exec_eq_seqFn_of_immResult {v : SeqView} {i : Instr} {d : GReg} {x : DWord}
    (h : immResult v.g i = some (d, x)) (s : State) : ∃ f, exec i s = s.seqFn i d f ∧ f v = x := by
  cases i with
  | addi => cases h; exact ⟨_, rfl, by rw [BitVec.ofInt_add, BitVec.ofInt_toInt]; rfl⟩
  | andi | ori | xori | limm => cases h; exact ⟨_, rfl, rfl⟩
  | shli => cases h; exact ⟨_, rfl, shiftLeft_eq_ofNat _ _⟩
  | shri => cases h; exact ⟨_, rfl, ushiftRight_eq_ofNat _ _⟩
  | srai => cases h; exact ⟨_, rfl, sshiftRight_eq_ofInt _ _⟩
  | limh => cases h; exact ⟨_, rfl, limh_eq_ofNat _ _⟩
  | _ => cases h

theorem immediateFormsWriteTheirResult : ImmediateFormsWriteTheirResult := by
  intro s v i d x hturn hresult
  obtain ⟨f, hexec, rfl⟩ := exec_eq_seqFn_of_immResult hresult s
  rw [hexec, seqFn_fires d f hturn]

/-! ### Compares and predicate forms (R145, R146) -/

theorem beq_eq_decide_toNat {w : Nat} (x y : BitVec w) : (x == y) = decide (x.toNat = y.toNat) := by
  rw [Bool.eq_iff_iff, beq_iff_eq, decide_eq_true_iff, BitVec.toNat_inj]

theorem toInt_signExtend_imm (i : BitVec 14) : (i.signExtend 64).toInt = i.toInt :=
  BitVec.toInt_signExtend_of_le (by decide)

theorem beq_signExtend_eq_decide (x : DWord) (i : BitVec 14) : (x == i.signExtend 64) = decide (x.toInt = i.toInt) := by
  rw [Bool.eq_iff_iff, beq_iff_eq, decide_eq_true_iff, ← BitVec.toInt_inj, toInt_signExtend_imm]

theorem toNat_setWidth_imm (i : BitVec 14) : (i.setWidth 64).toNat = i.toNat :=
  BitVec.toNat_setWidth_of_le (by decide)

/-- A compare or predicate form computes the claim's result from the registers of its view. -/
theorem exec_eq_seqPred_of_predResult {v : SeqView} {i : Instr} {q : PReg} {x : Bool}
    (h : predResult v.g v.p i = some (q, x)) (s : State) : ∃ f, exec i s = s.seqPred i q f ∧ f v = x := by
  cases i with
  | cmpeq => cases h; exact ⟨_, rfl, beq_eq_decide_toNat _ _⟩
  | cmpne => cases h; exact ⟨_, rfl, by rw [bne, beq_eq_decide_toNat, ← decide_not]⟩
  | cmpeqImm => cases h; exact ⟨_, rfl, beq_signExtend_eq_decide _ _⟩
  | cmpneImm => cases h; exact ⟨_, rfl, by rw [bne, beq_signExtend_eq_decide, ← decide_not]⟩
  | cmplt | cmpltn | cmple | cmplen => cases h; exact ⟨_, rfl, rfl⟩
  | cmpltImm => cases h; exact ⟨_, rfl, by rw [BitVec.slt_eq_decide, toInt_signExtend_imm]⟩
  | cmpleImm => cases h; exact ⟨_, rfl, by rw [BitVec.sle_eq_decide, toInt_signExtend_imm]⟩
  | cmpltnImm => cases h; exact ⟨_, rfl, by rw [BitVec.ult_eq_decide, toNat_setWidth_imm]⟩
  | cmplenImm => cases h; exact ⟨_, rfl, by rw [BitVec.ule_eq_decide, toNat_setWidth_imm]⟩
  | pand | por | pxor | pnot | pset => cases h; exact ⟨_, rfl, rfl⟩
  | _ => cases h

theorem predicateFormsWriteTheirResult : PredicateFormsWriteTheirResult := by
  intro s v i q x hturn hresult
  obtain ⟨f, hexec, rfl⟩ := exec_eq_seqPred_of_predResult hresult s
  rw [hexec, seqPred_fires q f hturn]

/-- Settles O3: sign-extended and zero-extended immediates hold the numbers of the rules. -/
theorem immediateAndPredicateForms : Obligations.ImmediateAndPredicateForms :=
  ⟨immediateFormsWriteTheirResult, predicateFormsWriteTheirResult⟩

end Sys2Proof.Proofs.IntWords
end

section
/-! PROOFS. Memory words of the sequencer: the cause that a failed access raises, and what stores and version words leave for
the commit of their block (R152, R154, R311, R312, R344; log entry 50). -/

namespace Sys2Proof.Proofs.Access

open Sys2Proof Sys2Proof.Machine Sys2Proof.Claims Sys2Proof.Laws Sys2Proof.Proofs.Loads

/-! ### Failed accesses (R152, R344) -/

/-- TRAPINFO1 of a failed access: word index and check, and bit 16 where 0x43 comes of a store. -/
def accessInfo (k : Block) (store : Bool) (c : Nat) : DWord :=
  BitVec.ofNat 64 (k.idx % 256 + 256 * (c + if store = true ∧ c = 4 then 256 else 0))

theorem accessFault_eq (k : Block) (i : Instr) (store : Bool) (c va : Nat) :
    k.accessFault i store c va
      = (k.raise (if c = 4 then 0x43 else if store = true then 0x42 else 0x41) (BitVec.ofNat 64 va) (accessInfo k store c)
          0#64 0#64).poison i := by
  simp [Block.accessFault, Block.fault, Block.info1, accessInfo, dw, Nat.mul_comm]

theorem accessFault_load {i : Instr} {d : GReg} (hpoison : ∀ k : Block, k.poison i = k.setG d ⟨0#64, true⟩) (k : Block)
    (c va : Nat) :
    k.accessFault i false c va = (k.raise (if c = 4 then 0x43 else 0x41) (BitVec.ofNat 64 va) (accessInfo k false c)
      0#64 0#64).setG d ⟨0#64, true⟩ := by
  rw [accessFault_eq, hpoison]
  rfl

theorem accessFault_store {i : Instr} (hpoison : ∀ k : Block, k.poison i = k) (k : Block) (c va : Nat) :
    k.accessFault i true c va
      = k.raise (if c = 4 then 0x43 else 0x42) (BitVec.ofNat 64 va) (accessInfo k true c) 0#64 0#64 := by
  rw [accessFault_eq, hpoison]
  rfl

/-- A failed check is reported whatever the alignment of the access. -/
theorem seqAccess_of_fail {s : State} {job kind ea n c va : Nat} {verp : Option Bool}
    (h : s.seqCheck job kind verp ea n = .fail c va) (aligned : Bool) :
    s.seqAccess job kind verp ea n aligned = .fail c va := by
  rw [State.seqAccess, h]

section
variable {s : State} {v : SeqView} {c va : Nat}

theorem seqLd_of_fail {i : Instr} {a : GReg} {z : Size} {o : BitVec 11} (hturn : InTurn s v i) (d : GReg) (sgn : Bool)
    (h : (s.tlb v.r).seqCheck v.reg.job 0 none (smAddress (v.g a) z o) (sizeBytes z) = .fail c va) :
    s.seqLd i d a z sgn o = .next (s.setBlock (v.blk.accessFault i false c va).advance) :=
  seqOp_fires hturn (by simp only [ea_eq_smAddress, bytes_eq_sizeBytes, h])

theorem exec_ldver_of_fail {d a b : GReg} {g : Bool} {z : Size} (hturn : InTurn s v (.ldver d a b g z))
    (h : (s.tlb v.r).seqCheck v.reg.job 0 (some true) (v.g a).toNat (sizeBytes z) = .fail c va) :
    exec (.ldver d a b g z) s = .next (s.setBlock (v.blk.accessFault (.ldver d a b g z) false c va).advance) :=
  seqOp_fires hturn (by simp only [bytes_eq_sizeBytes, seqAccess_of_fail h])

theorem exec_st_of_fail {r a : GReg} {z : Size} {o : BitVec 11} (hturn : InTurn s v (.st r a z o))
    (h : (s.tlb v.r).seqCheck v.reg.job 1 (some false) (smAddress (v.g a) z o) (sizeBytes z) = .fail c va) :
    exec (.st r a z o) s = .next (s.setBlock (v.blk.accessFault (.st r a z o) true c va).advance) :=
  seqOp_fires hturn (by simp only [ea_eq_smAddress, bytes_eq_sizeBytes, h])

theorem exec_stver_of_fail {r a : GReg} {z : Size} {o : BitVec 11} (hturn : InTurn s v (.stver r a z o))
    (h : (s.tlb v.r).seqCheck v.reg.job 1 (some true) (smAddress (v.g a) z o) (sizeBytes z) = .fail c va) :
    exec (.stver r a z o) s = .next (s.setBlock (v.blk.accessFault (.stver r a z o) true c va).advance) :=
  seqOp_fires hturn (by simp only [ea_eq_smAddress, bytes_eq_sizeBytes, seqAccess_of_fail h])

theorem exec_reclaim_of_fail {a b : GReg} (hturn : InTurn s v (.reclaim a b))
    (h : (s.tlb v.r).seqCheck v.reg.job 1 (some true) (v.g a).toNat 1 = .fail c va) :
    exec (.reclaim a b) s = .next (s.setBlock (v.blk.accessFault (.reclaim a b) true c va).advance) :=
  seqOp_fires hturn (by simp only [h])

end

/-- Settles O6: the check is made when the word fires, and its failure ends the word. -/
theorem failedAccessRaises : Obligations.FailedAccessRaises := by
  intro s v d a b z o g c va info load store ea
  have hload : ∀ {i : Instr}, (∀ k : Block, k.poison i = k.setG d ⟨0#64, true⟩) →
      .next (s.setBlock (v.blk.accessFault i false c va).advance) = load :=
    fun h => by rw [accessFault_load h]; rfl
  have hstore : ∀ {i : Instr}, (∀ k : Block, k.poison i = k) →
      .next (s.setBlock (v.blk.accessFault i true c va).advance) = store :=
    fun h => by rw [accessFault_store h]; rfl
  exact ⟨fun hturn h => (seqLd_of_fail hturn d false h).trans (hload fun _ => rfl),
    fun hturn h => (seqLd_of_fail hturn d true h).trans (hload fun _ => rfl),
    fun hturn h => (exec_ldver_of_fail hturn h).trans (hload fun _ => rfl),
    fun hturn h => (exec_st_of_fail hturn h).trans (hstore fun _ => rfl),
    fun hturn h => (exec_stver_of_fail hturn h).trans (hstore fun _ => rfl),
    fun hturn h => (exec_reclaim_of_fail hturn h).trans (hstore fun _ => rfl)⟩

/-! ### The bytes of a register (R3) -/

theorem leBytes_eq_map_byteOf (x n : Nat) : leBytes x n = (List.range n).map (byteOf x) := by
  induction n generalizing x with
  | zero => rfl
  | succ n ih =>
    have hbyte : byteOf (x / 256) = byteOf x ∘ Nat.succ := by
      funext k
      rw [Function.comp, byteOf, byteOf, Nat.div_div_eq_div_mul, Nat.mul_succ, Nat.add_comm, Nat.pow_add]
    rw [leBytes, ih, hbyte, List.range_succ_eq_map, List.map_cons, List.map_map]
    simp [byteOf]

theorem byteOf_toNat (x : DWord) (k : Nat) : byteOf x.toNat k = x.extractLsb' (8 * k) 8 := by
  rw [byteOf, BitVec.extractLsb', Nat.shiftRight_eq_div_pow]

theorem leBytes_toNat (x : DWord) (n : Nat) : leBytes x.toNat n = (List.range n).map (fun k => x.extractLsb' (8 * k) 8) := by
  rw [leBytes_eq_map_byteOf, funext (byteOf_toNat x)]

/-- The bytes of a register at addresses one after another. -/
theorem map_zipIdx_leBytes (x : DWord) (n base : Nat) :
    (leBytes x.toNat n).zipIdx.map (fun b => (base + b.2, b.1))
      = (List.range n).map (fun k => (base + k, x.extractLsb' (8 * k) 8)) := by
  refine List.ext_getElem (by simp [leBytes_toNat]) fun k h h' => ?_
  simp [leBytes_toNat]

/-! ### Stores and version words (R154, R311, R312) -/

theorem storesWaitForTheCommit : StoresWaitForTheCommit := by
  intro s v r a z o parts hturn hcheck pas bytes
  exact seqOp_fires hturn (by simp only [ea_eq_smAddress, bytes_eq_sizeBytes, hcheck, leBytes_toNat]; rfl)

theorem seqAccess_of_ok {s : State} {job kind ea n : Nat} {verp : Option Bool} {parts : List Part}
    (h : s.seqCheck job kind verp ea n = .ok parts) {aligned : Bool} (haligned : aligned = true) :
    s.seqAccess job kind verp ea n aligned = .ok parts := by
  rw [State.seqAccess, h, haligned]
  rfl

/-- Memory that changes on a condition, as a change of the state. -/
theorem ite_setMem (s : State) (c : Prop) [Decidable c] (m : Memory) :
    (if c then { s with mem := m } else s) = { s with mem := if c then m else s.mem } := by
  split <;> rfl

theorem versionWordsNameTheirSlot : VersionWordsNameTheirSlot := by
  intro s v r a b z o p ps k fresh round line ea base bytes blk hgood
  refine ⟨fun hturn hcheck hline hslot => ?_, fun hturn hcheck => ?_⟩
  · have haccess := seqAccess_of_ok hcheck (aligned := oneLine ea (sizeBytes z)) (beq_iff_eq.2 hline)
    refine seqOp_fires hturn ?_
    simp only [ea_eq_smAddress, bytes_eq_sizeBytes, haccess, ea, line, round, hgood, hslot, map_zipIdx_leBytes, ite_setMem,
      Bool.false_eq_true, if_false]
    rfl
  · exact seqOp_fires hturn (by simp [line, hcheck, hgood])

/-- Settles O7: the act that each word leaves holds the bytes of its register, lowest first. -/
theorem storesAndVersions : Obligations.StoresAndVersions := ⟨storesWaitForTheCommit, versionWordsNameTheirSlot⟩

end Sys2Proof.Proofs.Access
end

section
/-! PROOFS. Values packed into payloads: what a lane, a token position or a mask bit of a packed payload holds (R79, R159, R180,
R181). -/

namespace Sys2Proof.Proofs.Lanes

open Sys2Proof Sys2Proof.Machine Sys2Proof.Claims Sys2Proof.Proofs.IntWords

/-! ### Packed values -/

theorem pack_lt (w : Nat) (f : Nat → Nat) (n : Nat) : pack w f n < 2 ^ (w * n) := by
  induction n with
  | zero => simp [pack]
  | succ n ih =>
    have htop : f n % 2 ^ w + 1 ≤ 2 ^ w := Nat.mod_lt _ (Nat.two_pow_pos w)
    calc pack w f n + f n % 2 ^ w * 2 ^ (w * n)
        < (f n % 2 ^ w + 1) * 2 ^ (w * n) := by rw [Nat.succ_mul]; omega
      _ ≤ 2 ^ w * 2 ^ (w * n) := Nat.mul_le_mul_right _ htop
      _ = 2 ^ (w * (n + 1)) := by rw [← Nat.pow_add, Nat.mul_succ, Nat.add_comm]

/-- Packed values depend on the values packed alone. -/
theorem pack_congr {w n : Nat} {f g : Nat → Nat} (h : ∀ i < n, f i = g i) : pack w f n = pack w g n := by
  induction n with
  | zero => rfl
  | succ n ih => rw [pack, pack, ih fun i hi => h i (by omega), h n (by omega)]

/-- Each value stands at its place. -/
theorem pack_div_mod {w n i : Nat} (f : Nat → Nat) (h : i < n) : pack w f n / 2 ^ (w * i) % 2 ^ w = f i % 2 ^ w := by
  induction n with
  | zero => omega
  | succ n ih =>
    rw [pack]
    rcases Nat.lt_succ_iff_lt_or_eq.1 h with hlt | rfl
    · obtain ⟨k, rfl⟩ := Nat.exists_eq_add_of_lt hlt
      have hplace : 2 ^ (w * (i + k + 1)) = 2 ^ (w * i) * (2 ^ w * 2 ^ (w * k)) := by
        rw [← Nat.pow_add, ← Nat.pow_add, Nat.add_assoc, Nat.mul_add, Nat.mul_succ, Nat.add_comm w]
      have habove : f (i + k + 1) % 2 ^ w * 2 ^ (w * (i + k + 1))
          = 2 ^ (w * i) * (2 ^ w * (f (i + k + 1) % 2 ^ w * 2 ^ (w * k))) := by
        rw [hplace, Nat.mul_left_comm, Nat.mul_left_comm (f _ % _)]
      rw [habove, Nat.add_mul_div_left _ _ (Nat.two_pow_pos _), Nat.add_mul_mod_self_left, ih hlt]
    · rw [Nat.add_mul_div_right _ _ (Nat.two_pow_pos _), Nat.div_eq_of_lt (pack_lt w f i), Nat.zero_add, Nat.mod_mod]

/-- A value read out of a word of packed values. -/
theorem extractLsb'_pack {size w n i : Nat} (f : Nat → Nat) (hsize : w * n ≤ size) (h : i < n) :
    (BitVec.ofNat size (pack w f n)).extractLsb' (w * i) w = BitVec.ofNat w (f i) := by
  have hfits : pack w f n < 2 ^ size := Nat.lt_of_lt_of_le (pack_lt w f n) (Nat.pow_le_pow_right Nat.two_pos hsize)
  apply BitVec.eq_of_toNat_eq
  rw [BitVec.extractLsb'_toNat, BitVec.toNat_ofNat, BitVec.toNat_ofNat, Nat.mod_eq_of_lt hfits, Nat.shiftRight_eq_div_pow,
    pack_div_mod f h]

/-! ### Lanes, token positions and mask bits -/

theorem lane_ofLanes (f : Nat → Word) {i : Nat} (h : i < 16) : lane (ofLanes f) i = f i := by
  rw [lane, ofLanes, extractLsb'_pack _ (by decide) h, BitVec.ofNat_toNat, BitVec.setWidth_eq]

theorem ofLanes_congr {f g : Nat → Word} (h : ∀ i < 16, f i = g i) : ofLanes f = ofLanes g :=
  congrArg (BitVec.ofNat 512) (pack_congr fun i hi => congrArg BitVec.toNat (h i hi))

theorem csTok_csPayload (f : Nat → BitVec 128) {j : Nat} (h : j < 4) : csTok (csPayload f) j = f j := by
  rw [csTok, csPayload, extractLsb'_pack _ (by decide) h, BitVec.ofNat_toNat, BitVec.setWidth_eq]

theorem csTok_setTok (p : Payload) (pos : Nat) (t : BitVec 128) {j : Nat} (h : j < 4) :
    csTok (setTok p pos t) j = if j = pos then t else csTok p j :=
  csTok_csPayload _ h

theorem bit_toNat_eq_getLsbD {w : Nat} (m : BitVec w) (i : Nat) : bit m.toNat i = m.getLsbD i :=
  bit_eq_testBit _ _

theorem lane_blend (old new : Payload) (m : BitVec 16) {i : Nat} (h : i < 16) :
    lane (blend old new m) i = if m.getLsbD i then lane new i else lane old i := by
  rw [blend, lane_ofLanes _ h, bit_toNat_eq_getLsbD]

theorem getLsbD_maskOf (m : BitVec 16) (f : Nat → Bool) {i : Nat} (h : i < 16) :
    (maskOf m f).getLsbD i = (m.getLsbD i && f i) := by
  have hbit : (maskOf m f).extractLsb' (1 * i) 1 = BitVec.ofNat 1 (m.getLsbD i && f i).toNat := by
    rw [maskOf, extractLsb'_pack _ (by decide) h, bit_toNat_eq_getLsbD]
  calc (maskOf m f).getLsbD i
      = ((maskOf m f).extractLsb' (1 * i) 1).getLsbD 0 := by simp
    _ = (m.getLsbD i && f i) := by rw [hbit]; cases (m.getLsbD i && f i) <;> rfl

/-- The model's lane by lane operation is that of the statements. -/
theorem laneMap_eq_masked (m : BitVec 16) (f : Nat → Word × Flags) : laneMap m f = masked m f := by
  have hflags (g : Flags) (i : Nat) :
      (g ||| if m.getLsbD i then (f i).2 else 0#8) = if m.getLsbD i then g ||| (f i).2 else g := by
    split <;> simp
  refine Prod.ext (ofLanes_congr fun i hi => ?_) ?_
  · simp [upTo, hi, bit_toNat_eq_getLsbD, apply_ite Prod.fst]
  · simp [laneMap, masked, upTo, List.foldl_map, bit_toNat_eq_getLsbD, apply_ite Prod.snd, hflags]

end Sys2Proof.Proofs.Lanes
end

section
/-! PROOFS. Element operations that compute: what such an operation does with data inputs, whatever its lanes compute; the
floating-point operations lane by lane, FCMP, and the special values of addition and multiplication (R161, R180, R182, R185 to
R187, R193, R205). -/

namespace Sys2Proof.Proofs.Compute

open Sys2Proof Sys2Proof.Machine Sys2Proof.Claims Sys2Proof.Laws Sys2Proof.Proofs.Lanes

/-! ### Data at every input (R182) -/

theorem isData_iff {k : TokKind} : k.isData = true ↔ k = .data ∨ k = .control := by
  cases k <;> decide

/-- Data and control tokens take their ROUND and TAG into the kernel's context. -/
theorem ctxEffs_of_data (v : View) {ts : List Token} (h : ∀ t ∈ ts, t.kind.isData = true) :
    v.ctxEffs ts = ts.map (fun t => .ctxRT v.f.ksel t.round t.tag) := by
  induction ts with
  | nil => rfl
  | cons t ts ih =>
    obtain ⟨ht, hts⟩ := List.forall_mem_cons.1 h
    rw [List.map_cons, ← ih hts, View.ctxEffs, List.filterMap_cons, if_pos ht]
    rfl

/-- The header of a result is that of the first token when that is data. -/
theorem headerOf_cons_of_data (v : View) {t : Token} (h : t.kind.isData = true) (ts : List Token) :
    v.headerOf (t :: ts) = (t.round, t.tag) := by
  simp [View.headerOf, h]

theorem headerOf_nil (v : View) : v.headerOf [] = (v.ctx.cround, v.ctx.ctag) := rfl

/-- The tokens with ERR among those consumed (R355). -/
theorem sinkEffs_map_snd (ts : List (Nat × Token)) :
    sinkEffs (ts.map Prod.snd) = (ts.filter (fun t => t.2.err)).map (fun t => .sink t.2.round t.2.tag) := by
  simp [sinkEffs, List.filter_map, Function.comp_def]

/-- An operation that computes on data has the effects of its results and flags. -/
theorem run_of_dataReady {v : View} {srcs : List Opnd} (h : dataReady v srcs) (lat : Nat) (d : Option Dst) (m : LMask)
    (f : List Payload → BitVec 16 → List Out × Flags) :
    v.run lat d srcs m f = computeEffects v srcs m false
      ((f (srcs.map (fun o => (v.read o).val)) (v.mask m).val).1.map (fun o => ⟨lat, o.dst, o.lanes, .data, o.val⟩))
      (f (srcs.map (fun o => (v.read o).val)) (v.mask m).val).2 := by
  obtain ⟨hfed, hkinds⟩ := h
  have hstarved : srcs.any v.starved = false := List.any_eq_false.2 fun o ho => by simp [hfed o ho]
  have hdata : ∀ t ∈ heads v srcs, t.2.kind.isData = true := fun t ht => isData_iff.2 (hkinds t ht)
  have hall : ∀ t ∈ (heads v srcs).map Prod.snd, t.kind.isData = true := List.forall_mem_map.2 hdata
  have hheads : consumedToks (srcs.map v.read) = heads v srcs := rfl
  simp only [View.run, hstarved, hheads, List.all_eq_true.2 hall, View.consume, ctxEffs_of_data v hall, computeEffects,
    sinkEffs_map_snd, View.result]
  cases hts : heads v srcs with
  | nil => simp [headerOf_nil, List.any_map, Function.comp_def]
  | cons t ts =>
    have ht : t.2.kind.isData = true := hdata t (by simp [hts])
    simp [headerOf_cons_of_data v ht, List.any_map, Function.comp_def]

/-- An operation with one result, computed lane by lane. -/
theorem run1_of_dataReady {v : View} {srcs : List Opnd} (h : dataReady v srcs) (lat : Nat) (d : Opnd) (m : LMask)
    (x : (Nat → Payload) → Nat → Word × Flags) :
    v.run1 lat d srcs m (fun ps mk => laneMap mk (x (arg ps))) = oneResult v srcs d m lat x := by
  rw [View.run1, run_of_dataReady h]
  simp only [laneMap_eq_masked]
  rfl

/-- An element operation whose effects are those of lanes enters the one result of those lanes. -/
theorem elemOp_of_lanes {s : State} {v : View} {i : Instr} {srcs : List Opnd} (hv : s.view i = some v)
    (h : dataReady v srcs) {lat : Nat} {d : Opnd} {m : LMask} {x : (Nat → Payload) → Nat → Word × Flags}
    {g : View → List Eff} (hg : g v = v.run1 lat d srcs m (fun ps mk => laneMap mk (x (arg ps)))) :
    (.next (s.elemOp i g) : Answer) = .next (s.enter (oneResult v srcs d m lat x)) := by
  rw [elemOp_of_view hv, hg, run1_of_dataReady h]

/-! ### Floating point lane by lane (R185, R186, R193) -/

@[simp] theorem isNaN_nan : FVal.nan.isNaN = true := rfl
@[simp] theorem isNaN_inf (n : Bool) : (FVal.inf n).isNaN = false := rfl
@[simp] theorem isNaN_fin (n : Bool) (m : Nat) (e : Int) : (FVal.fin n m e).isNaN = false := rfl

/-- A lane is a NaN when its magnitude lies above that of infinity (R160). -/
theorem isNaN_f32 (w : Word) : (f32 w).isNaN = decide (0x7F800000 < w.toNat % 2 ^ 31) := by
  have hfields : (f32 w).isNaN = decide (bits w.toNat 23 8 = 255 ∧ w.toNat % 2 ^ 23 ≠ 0) := by
    simp only [f32, FFmt.decode, fp32]
    by_cases he : bits w.toNat 23 8 = 255
    · by_cases hm : w.toNat % 8388608 = 0 <;> simp [he, hm]
    · by_cases hz : bits w.toNat 23 8 = 0 <;> simp [he, hz]
  rw [hfields, decide_eq_decide, bits]
  omega

theorem fabsW_eq (w : Word) :
    fabsW w = if 0x7F800000 < w.toNat % 2 ^ 31 then 0x7FC00000#32 else w &&& 0x7FFFFFFF#32 := by
  simp only [fabsW, isNaN_f32, decide_eq_true_eq, qNaN]

theorem fnegW_eq (w : Word) :
    fnegW w = if 0x7F800000 < w.toNat % 2 ^ 31 then 0x7FC00000#32 else w ^^^ 0x80000000#32 := by
  simp only [fnegW, isNaN_f32, decide_eq_true_eq, qNaN]

/-- A floating-point operation on data enters the one result of its lanes. -/
theorem exec_of_floatOp {s : State} {v : View} {i : Instr} {srcs : List Opnd} {d : Opnd} {m : LMask} {lat : Nat}
    {f : (Nat → Payload) → Nat → Word × Flags} (hv : s.view i = some v) (hi : floatOp i = some (srcs, d, m, lat, f))
    (h : dataReady v srcs) : exec i s = .next (s.enter (oneResult v srcs d m lat f)) := by
  cases i with
  | fadd | fsub | fmul | fma | fmax | fmin | frcp | frsq | fexp2 | flog2 | outl =>
    cases hi
    exact elemOp_of_lanes hv h rfl
  | fabs | fneg =>
    cases hi
    exact elemOp_of_lanes hv h (by simp only [View.lanes1, fabsW_eq, fnegW_eq])
  | _ => cases hi

/-- FCMP on data enters the mask of its condition in the selected lanes (R187). -/
theorem exec_fcmp {s : State} {v : View} {c : FCond} {t : LType} {md m : LMask} {a b : Opnd}
    (hv : s.view (.fcmp c t md a b m) = some v) (h : dataReady v [a, b]) :
    exec (.fcmp c t md a b m) s = .next (s.enter (computeEffects v [a, b] m false
      [⟨1, .mask md.val, 0xFFFF#16, .data,
        maskOf (v.mask m).val (fun i => cmpLane c t (lane (v.read a).val i) (lane (v.read b).val i))⟩] 0#8)) := by
  change Host.Outcome.next _ = _
  rw [elemOp_of_view hv, run_of_dataReady h]
  rfl

theorem floatingLanes : FloatingLanes :=
  ⟨fun _ _ _ _ _ _ _ _ => exec_of_floatOp, fun _ _ _ _ _ _ _ _ hv h => ⟨_, exec_fcmp hv h, fun _ => getLsbD_maskOf _ _⟩⟩

/-! ### Special values (R161, R170, R185) -/

theorem f32_of_nan {w : Word} (h : 0x7F800000 < w.toNat % 2 ^ 31) : f32 w = .nan := by
  have hnan := isNaN_f32 w
  rw [decide_eq_true h] at hnan
  cases hw : f32 w with
  | nan => rfl
  | inf | fin => simp [hw] at hnan

theorem addVal_nan_left (mode : RMode) (y : FVal) : addVal mode .nan y = (.nan, 0#8) := by
  cases y <;> rfl

theorem mulVal_nan_left (y : FVal) : mulVal .nan y = (.nan, 0#8) := by
  cases y <;> rfl

/-- The exact sum does not depend on the order of its operands. -/
theorem addVal_comm (mode : RMode) (x y : FVal) : addVal mode x y = addVal mode y x := by
  cases x with
  | nan => cases y <;> rfl
  | inf a =>
    cases y with
    | inf b => simp only [addVal, eq_comm (a := a)]; split <;> simp_all
    | nan | fin => rfl
  | fin a m e =>
    cases y with
    | fin b k g =>
      have hbase : (if e < g then e else g) = if g < e then g else e := by split <;> split <;> omega
      have hsign : (if m = 0 ∧ k = 0 ∧ a = b then a else decide (mode = .rdn))
          = if k = 0 ∧ m = 0 ∧ b = a then b else decide (mode = .rdn) := by
        grind
      simp only [addVal, hbase, hsign, Int.add_comm]
    | nan | inf => rfl

/-- The exact product does not depend on the order of its operands. -/
theorem mulVal_comm (x y : FVal) : mulVal x y = mulVal y x := by
  cases x with
  | nan => cases y <;> rfl
  | inf a =>
    cases y with
    | inf b => simp only [mulVal, bne_comm]
    | nan | fin => rfl
  | fin a m e =>
    cases y with
    | fin b k g => simp only [mulVal, bne_comm, Nat.mul_comm, Int.add_comm]
    | nan | inf => rfl

theorem floatingSpecialValues : FloatingSpecialValues := by
  refine ⟨fun a b ha => ?_, rfl, rfl, rfl, rfl, fun a b => ⟨?_, ?_⟩⟩
  · rw [faddW, fmulW, f32_of_nan ha, addVal_nan_left, mulVal_nan_left]
    exact ⟨rfl, rfl⟩
  · rw [faddW, addVal_comm, faddW]
  · rw [fmulW, mulVal_comm, fmulW]

/-- Settles O17: every lane is the model's scalar operation, and sum and product are exact before they are rounded once. -/
theorem floatingPoint : Obligations.FloatingPoint := ⟨floatingLanes, floatingSpecialValues⟩

end Sys2Proof.Proofs.Compute
end

section
/-! PROOFS. Results that land in registers and masks, and the entries of a sheet's queue whose cycle has come: merges, clears
and drains (R99, R174, R181, R182, R267, R272, R277, R280; log entry 96). -/

namespace Sys2Proof.Proofs.Results

open Sys2Proof Sys2Proof.Machine Sys2Proof.Claims Sys2Proof.Laws
open Sys2Proof.Proofs.Planes Sys2Proof.Proofs.Channels Sys2Proof.Proofs.Lanes

/-! ### Results that land (R99, R181) -/

theorem hasElem_updElem {s : State} {r b e : Nat} {x : Region} {y : Bench} {el : Element} (h : hasElem s r b e x y el)
    (f : Element → Element) : hasElem (s.updElem r b e f) r b e (x.updElem b e f) (y.updElem e f) (f el) := by
  obtain ⟨hx, hy, hel⟩ := h
  exact ⟨find?_updReg hx _, by simp [Region.updElem, Region.updBench, hy], by simp [Bench.updElem, hel]⟩

theorem elem_of_hasElem {s : State} {r b e : Nat} {x : Region} {y : Bench} {el : Element} (h : hasElem s r b e x y el) :
    ((s.reg r).bench b).elem e = el := by
  obtain ⟨hx, hy, hel⟩ := h
  rw [reg_of_find hx, bench_of_find hy, elem_of_find hel]

/-- The pipeline when a result lands: it leaves, and with it what an earlier bundle sends to the same register (R99). -/
def behind (p : Pending) (el : Element) : Element :=
  { el with pipe := el.pipe.filter (fun q =>
      q != p && !(q.dst == p.dst && !p.dst.isChan && decide (q.order / 4 < p.order / 4))) }

theorem writeback_nothing_due {s : State} {r b e : Nat} {x : Region} {y : Bench} {el : Element} (h : hasElem s r b e x y el)
    (hnone : ∀ q ∈ el.pipe, x.fab.ucycle < q.due) (fuel : Nat) : s.writeback r b e fuel = s := by
  have hfind : el.pipe.find? (fun q => decide (q.due ≤ x.fab.ucycle)) = none :=
    List.find?_eq_none.2 fun q hq => by simpa using hnone q hq
  obtain ⟨hx, hy, hel⟩ := h
  cases fuel with
  | zero => rfl
  | succ fuel => simp only [State.writeback, reg_of_find hx, bench_of_find hy, elem_of_find hel, hfind]

/-- A result that lands in a register or mask is one change of its element. -/
theorem landResult_of_not_chan (s : State) (r b e : Nat) {d : Dst} (h : d.isChan = false) (t : Token) (lanes : BitVec 16)
    (pos : DWord) : s.landResult r b e d t lanes pos = s.updElem r b e (fun el => el.land d t lanes) := by
  cases d with
  | chan n => cases h
  | reg | mask | scale => rfl

theorem writeback_lands {s : State} {r b e : Nat} {x : Region} {y : Bench} {el : Element} {p : Pending}
    {rest : List Pending} (h : hasElem s r b e x y el) (hpipe : el.pipe = p :: rest) (hdue : p.due ≤ x.fab.ucycle)
    (hdst : p.dst.isChan = false) (fuel : Nat) :
    s.writeback r b e (fuel + 1) = ((s.updElem r b e (behind p)).updElem r b e
      (fun el => el.land p.dst p.tok p.lanes)).writeback r b e fuel := by
  have hfind : el.pipe.find? (fun q => decide (q.due ≤ x.fab.ucycle)) = some p := by simp [hpipe, hdue]
  obtain ⟨hx, hy, hel⟩ := h
  simp only [State.writeback, reg_of_find hx, bench_of_find hy, elem_of_find hel, hfind, landResult_of_not_chan _ _ _ _ hdst]
  rfl

theorem land_reg (el : Element) (n : Nat) (t : Token) (lanes : BitVec 16) : el.land (.reg n) t lanes
    = { el with regs := el.regs.set .zero n ⟨blend (el.regs.getD n .zero).val t.data lanes, t.err⟩ } := rfl

theorem regs_land_reg_self (el : Element) (n : Nat) (t : Token) (lanes : BitVec 16) :
    (el.land (.reg n) t lanes).regs.getD n .zero = ⟨blend (el.regs.getD n .zero).val t.data lanes, t.err⟩ := by
  rw [land_reg, getD_set_self]

theorem regs_land_reg_ne (el : Element) {n k : Nat} (hk : k ≠ n) (t : Token) (lanes : BitVec 16) :
    (el.land (.reg n) t lanes).regs.getD k .zero = el.regs.getD k .zero := by
  rw [land_reg, getD_set_ne _ _ _ hk]

theorem masks_land_reg (el : Element) (n : Nat) (t : Token) (lanes : BitVec 16) :
    (el.land (.reg n) t lanes).masks = el.masks := by
  rw [land_reg]

theorem local_land_reg (el : Element) (n : Nat) (t : Token) (lanes : BitVec 16) :
    (el.land (.reg n) t lanes).local_ = el.local_ := by
  rw [land_reg]

theorem land_mask {n : Nat} (hn : n ≠ 0) (el : Element) (t : Token) (lanes : BitVec 16) :
    el.land (.mask n) t lanes = { el with masks := el.masks.set .zero n ⟨t.data.setWidth 16, t.err⟩ } :=
  if_neg hn

/-- A write of m0 is discarded (R179). -/
theorem land_mask_zero (el : Element) (t : Token) (lanes : BitVec 16) : el.land (.mask 0) t lanes = el := rfl

@[simp] theorem land_pipe (el : Element) (d : Dst) (t : Token) (lanes : BitVec 16) : (el.land d t lanes).pipe = el.pipe := by
  cases d with
  | reg n => rw [land_reg]
  | mask n =>
    rcases Decidable.em (n = 0) with rfl | hn
    · rw [land_mask_zero]
    · rw [land_mask hn]
  | scale | chan => rw [Element.land]

/-- The one result of an element that is due lands. -/
theorem exec_resultWriteback_lands {s : State} {r b e : Nat} {x : Region} {y : Bench} {el : Element} {p : Pending}
    {rest : List Pending} (h : hasElem s r b e x y el) (hpipe : el.pipe = p :: rest) (hdue : p.due ≤ x.fab.ucycle)
    (hdst : p.dst.isChan = false) (hrest : ∀ q ∈ rest, x.fab.ucycle < q.due) :
    ∃ s', exec (.resultWriteback r b e) s = .next s'
      ∧ ((s'.reg r).bench b).elem e = (behind p el).land p.dst p.tok p.lanes ∧ s'.mem = s.mem := by
  have hlanded := hasElem_updElem (hasElem_updElem h (behind p)) (fun el => el.land p.dst p.tok p.lanes)
  have hlater : ∀ q ∈ ((behind p el).land p.dst p.tok p.lanes).pipe, x.fab.ucycle < q.due := by
    intro q hq
    simp only [land_pipe, behind, hpipe, List.mem_filter, List.mem_cons] at hq
    obtain ⟨rfl | hq, hkept⟩ := hq
    · simp at hkept
    · exact hrest q hq
  refine ⟨_, ?_, elem_of_hasElem hlanded, rfl⟩
  change Host.Outcome.next (s.writeback r b e _) = _
  rw [elem_of_hasElem h, hpipe, List.length_cons, writeback_lands h hpipe hdue hdst, writeback_nothing_due hlanded hlater]

theorem resultsLandInTheirDestination : ResultsLandInTheirDestination := by
  intro s r b e n x y el p q h
  have hzero : (⟨0#512, false⟩ : Reg) = .zero := rfl
  have hzeroMask : (⟨0#16, false⟩ : MaskReg) = .zero := rfl
  dsimp only
  simp only [hzero, hzeroMask]
  refine ⟨fun hpipe hp hq hpdst hqdst => ?_, fun hpipe => ⟨fun hdue hdst => ?_, fun hdue hdst => ?_, fun hdue => ?_⟩⟩
  · obtain ⟨s', hexec, helem, -⟩ := exec_resultWriteback_lands h hpipe hp (by rw [hpdst]; rfl) (by simpa using hq)
    have hne : q ≠ p := by rintro rfl; omega
    refine ⟨s', hexec, ?_⟩
    rw [helem, land_pipe]
    by_cases hlate : q.order / 4 < p.order / 4 <;> simp [behind, hpipe, hne, hpdst, hqdst, Dst.isChan, hlate]
  · obtain ⟨s', hexec, helem, hmem⟩ := exec_resultWriteback_lands h hpipe hdue (by rw [hdst]; rfl) (by simp)
    have hpipe' : (behind p el).pipe = [] := by simp [behind, hpipe]
    refine ⟨s', hexec, ?_⟩
    rw [helem, hdst, land_pipe, regs_land_reg_self]
    exact ⟨fun i hi => lane_blend _ _ _ hi, rfl, hpipe', fun k hk => regs_land_reg_ne _ hk _ _,
      masks_land_reg _ _ _ _, local_land_reg _ _ _ _, hmem⟩
  · obtain ⟨s', hexec, helem, -⟩ := exec_resultWriteback_lands h hpipe hdue (by rw [hdst]; rfl) (by simp)
    refine ⟨s', hexec, ?_⟩
    rw [helem, hdst]
    rcases Decidable.em (n = 0) with rfl | hn
    · exact ⟨fun hn => absurd rfl hn, fun _ => rfl, rfl⟩
    · rw [land_mask hn]
      exact ⟨fun _ => getD_set_self _ _ _ _, fun h0 => absurd h0 hn, rfl⟩
  · change Host.Outcome.next (s.writeback r b e _) = _
    rw [writeback_nothing_due h (by simpa [hpipe] using hdue)]

/-! ### The entry at the head of a sheet's queue (R267) -/

@[simp] theorem sheet_updSheet (x : Region) (key : Nat) (f : Sheet → Sheet) :
    (x.updSheet key f).sheet key = f (x.sheet key) := by
  simp [Region.sheet, Region.updSheet]

/-- An entry that is no sample and no transfer is ready at the head of the queue from its cycle on. -/
def Immediate : SheetOp → Prop
  | .sample .. | .recv .. => False
  | _ => True

theorem ready_of_head {sh : Sheet} {o : SheetOp} {rest : List SheetOp} {now : Nat} (hq : sh.queue = o :: rest)
    (ho : Immediate o) (hdue : o.due ≤ now) : sh.ready now = some (o, rest) := by
  cases o with
  | sample | recv => cases ho
  | _ => simp only [Sheet.ready, hq, hdue, if_true]

/-- The sheet behind a firing that has merged. -/
def merged (tok : BitVec 128) (fmt err : Bool) (rest : List SheetOp) (sh : Sheet) : Sheet :=
  { sh.merge tok fmt err with queue := rest }

/-- Rewritten rather than left to `rfl`, which would compare the accumulators, and so run the merge. -/
theorem merged_a (tok : BitVec 128) (fmt err : Bool) (rest : List SheetOp) (sh : Sheet) :
    (merged tok fmt err rest sh).a = sh.a := by
  rw [merged, Sheet.merge]

section Head

variable {s : State} {r k l due : Nat} {x : Region} {rest : List SheetOp} (hx : s.regions.find? r = some x)
  (hdue : due ≤ x.fab.ucycle)

include hx

theorem sheet_after_updSheet (key : Nat) (f : Sheet → Sheet) : ((s.updSheet r key f).reg r).sheet key = f (x.sheet key) := by
  rw [State.updSheet, reg_updReg hx, sheet_updSheet]

include hdue

theorem exec_firingMerge_fire {tok : BitVec 128} {fmt err : Bool}
    (hq : (x.sheet (k * 4096 + l)).queue = .fire tok fmt err due :: rest) :
    exec (.firingMerge r k l) s = .next (s.updSheet r (k * 4096 + l) (merged tok fmt err rest)) := by
  have hready := ready_of_head hq trivial hdue
  simp only [exec, execFiringMerge, reg_of_find hx, hready]
  rfl

theorem exec_firingMerge_zero (hq : (x.sheet (k * 4096 + l)).queue = .zero due :: rest) :
    exec (.firingMerge r k l) s = .next (s.updSheet r (k * 4096 + l) (fun sh => { sh.clear with queue := rest })) := by
  have hready := ready_of_head hq trivial hdue
  simp only [exec, execFiringMerge, reg_of_find hx, hready]

theorem exec_firingMerge_mark (hq : (x.sheet (k * 4096 + l)).queue = .mark due :: rest) :
    exec (.firingMerge r k l) s
      = .next (s.updSheet r (k * 4096 + l) (fun sh => { sh with serr := true, queue := rest })) := by
  have hready := ready_of_head hq trivial hdue
  simp only [exec, execFiringMerge, reg_of_find hx, hready]

end Head

/-! ### Drains (R174, R277, R280) -/

/-- The positions of the output buffer with ERR once a drain has written one. -/
def drainErrs (sh : Sheet) (pos : Nat) : List Nat := if sh.serr then pos :: sh.bufErr.erase pos else sh.bufErr.erase pos

/-- The token that a drain with PUSH sends to element 15. -/
def drainToken (sh : Sheet) (sheet pos : Nat) (round tag : BitVec 24) : Token :=
  ⟨.data, !(drainErrs sh pos).isEmpty, round, tag, BitVec.ofNat 8 sheet, setTok sh.buf pos (csResolve sh.acc)⟩

/-- The sheet behind a drain with PUSH. -/
def drained (sh : Sheet) (clr : Bool) (rest : List SheetOp) : Sheet :=
  { (if clr then sh.clear else sh) with buf := csZeros, bufErr := [], queue := rest }

theorem err_drainToken (sh : Sheet) (sheet pos : Nat) (round tag : BitVec 24) :
    (drainToken sh sheet pos round tag).err = (sh.serr || !(sh.bufErr.erase pos).isEmpty) := by
  simp only [drainToken, drainErrs]
  cases sh.serr <;> simp

theorem acc_drained (sh : Sheet) (clr : Bool) (rest : List SheetOp) :
    (drained sh clr rest).acc = if clr then csZero else sh.acc := by
  cases clr <;> simp only [drained, Sheet.clear, if_true, if_false, Bool.false_eq_true]

theorem landVat_of_chan {s : State} {r b sheet n : Nat} (h : (s.reg r).vatChan b sheet false = some n) (t : Token) :
    s.landVat r b sheet t = s.updElem r b 15 (fun el => el.push n t) := by
  simp only [State.landVat, h]

/-- The status of a drain in VNSTAT, and for the barrier that the drain names: it arrives at once when its round has
committed, else it waits for the commit in the node's list (R280). -/
def reportDrain (s : State) (r b dbar fired : Nat) (round : BitVec 24) (x : Region) (st : Word) : State :=
  let s := s.updNode r b (fun n => { n with vnstat := n.vnstat ||| st })
  if dbar = 0 then s
  else if precedes round (s.graph x.graph).next then s.now (.barrierArrival x.job dbar r st)
  else s.updNode r b (fun n => { n with drains := n.drains ++ [⟨round, fired, dbar, st⟩] })

theorem hasElem_updSheet {s : State} {r b e : Nat} {x : Region} {y : Bench} {el : Element} (h : hasElem s r b e x y el)
    (key : Nat) (f : Sheet → Sheet) : hasElem (s.updSheet r key f) r b e (x.updSheet key f) y el := by
  obtain ⟨hx, hy, hel⟩ := h
  exact ⟨find?_updReg hx _, hy, hel⟩

theorem hasElem_updNode {s : State} {r b e : Nat} {x : Region} {y : Bench} {el : Element} (h : hasElem s r b e x y el)
    (f : Node → Node) : hasElem (s.updNode r b f) r b e (x.updBench b (fun y => { y with node := f y.node }))
      { y with node := f y.node } el := by
  obtain ⟨hx, hy, hel⟩ := h
  exact ⟨find?_updReg hx _, by simp [Region.updBench, hy], hel⟩

/-- The report of a drain changes the node of its bench, and neither elements nor sheets. -/
theorem hasElem_reportDrain {s : State} {r b e : Nat} {x : Region} {y : Bench} {el : Element} (h : hasElem s r b e x y el)
    (dbar fired : Nat) (round : BitVec 24) (z : Region) (st : Word) :
    ∃ x' y', hasElem (reportDrain s r b dbar fired round z st) r b e x' y' el ∧ x'.sheets = x.sheets
      ∧ y'.node.vnstat = y.node.vnstat ||| st
      ∧ y'.node.drains = y.node.drains ++ (if dbar = 0 ∨ precedes round (s.graph z.graph).next = true then []
          else [⟨round, fired, dbar, st⟩]) := by
  have hstatus := hasElem_updNode h (fun n => { n with vnstat := n.vnstat ||| st })
  have hgraph : (s.updNode r b (fun n => { n with vnstat := n.vnstat ||| st })).graph z.graph = s.graph z.graph := rfl
  simp only [reportDrain, hgraph]
  by_cases hbar : dbar = 0
  · simp only [hbar, if_true, true_or, List.append_nil]
    exact ⟨_, _, hstatus, rfl, rfl, rfl⟩
  · by_cases hpast : precedes round (s.graph z.graph).next = true
    · simp only [hbar, hpast, if_true, if_false, or_true, List.append_nil]
      exact ⟨_, _, hstatus, rfl, rfl, rfl⟩
    · simp only [hbar, hpast, if_false, or_self, Bool.false_eq_true]
      exact ⟨_, _, hasElem_updNode hstatus _, rfl, rfl, rfl⟩

section Push

variable {s : State} {r k l b t pos dbar fired due n : Nat} {clr : Bool} {round tag : BitVec 24} {x : Region} {y : Bench}
  {el : Element} {sh : Sheet} {rest : List SheetOp}
variable (hsh : x.sheet (k * 4096 + l) = sh) (hdue : due ≤ x.fab.ucycle)
  (hq : sh.queue = .drain b t pos clr true dbar fired round tag due :: rest) (hchan : x.vatChan b t false = some n)

include hsh hdue hq hchan

/-- A drain with PUSH: its sheet, the token behind those of its channel, and its report. -/
theorem exec_drainTokenLanding_push (hx : s.regions.find? r = some x) :
    exec (.drainTokenLanding r k l) s
      = .next (reportDrain ((s.updSheet r (k * 4096 + l) (fun _ => drained sh clr rest)).updElem r b 15
          (fun el => el.push n (drainToken sh t pos round tag))) r b dbar fired round x (drainStatus sh)) := by
  have hready := ready_of_head hq trivial hdue
  have hchan' (f : Sheet → Sheet) : ((s.updSheet r (k * 4096 + l) f).reg r).vatChan b t false = some n := by
    rw [State.updSheet, reg_updReg hx]
    exact hchan
  simp only [exec, execDrainTokenLanding, reg_of_find hx, hsh, hready, if_true, landVat_of_chan (hchan' _)]
  rfl

/-- What the records of the region, bench and element read as behind a drain with PUSH. -/
theorem hasElem_after_drain (h : hasElem s r b 15 x y el) :
    ∃ s' x' y', exec (.drainTokenLanding r k l) s = .next s'
      ∧ hasElem s' r b 15 x' y' (el.push n (drainToken sh t pos round tag))
      ∧ x'.sheet (k * 4096 + l) = drained sh clr rest
      ∧ y'.node.vnstat = y.node.vnstat ||| drainStatus sh
      ∧ y'.node.drains = y.node.drains ++ (if dbar = 0 ∨ precedes round (s.graph x.graph).next = true then []
          else [⟨round, fired, dbar, drainStatus sh⟩]) := by
  have hlanded := hasElem_updElem (hasElem_updSheet h (k * 4096 + l) (fun _ => drained sh clr rest))
    (fun el => el.push n (drainToken sh t pos round tag))
  obtain ⟨x', y', hafter, hsheets, hstatus, hdrains⟩ := hasElem_reportDrain hlanded dbar fired round x (drainStatus sh)
  refine ⟨_, x', y', exec_drainTokenLanding_push hsh hdue hq hchan h.1, hafter, ?_, hstatus, hdrains⟩
  calc x'.sheet (k * 4096 + l)
      = (x.updSheet (k * 4096 + l) (fun _ => drained sh clr rest)).sheet (k * 4096 + l) := by
        rw [Region.sheet, hsheets]
        rfl
    _ = drained sh clr rest := sheet_updSheet x _ _

end Push

theorem sheetsMergeClearAndDrain : SheetsMergeClearAndDrain := by
  intro s r k l b t pos n dbar fired due x y el tok fmt err clr round tag rest
  dsimp only
  intro h hdue
  have hx := h.1
  refine ⟨fun hq => ?_, fun hq => ?_, fun hq => ?_, fun _ hq hchan => ?_⟩
  · refine ⟨_, exec_firingMerge_fire hx hdue hq, ?_⟩
    rw [sheet_after_updSheet hx]
    exact ⟨rfl, rfl, rfl, rfl, merged_a _ _ _ _ _, rfl⟩
  · refine ⟨_, exec_firingMerge_zero hx hdue hq, ?_⟩
    rw [sheet_after_updSheet hx]
    exact ⟨rfl, rfl, rfl, rfl⟩
  · refine ⟨_, exec_firingMerge_mark hx hdue hq, ?_⟩
    rw [sheet_after_updSheet hx]
    exact ⟨rfl, rfl, rfl, rfl⟩
  · obtain ⟨s', x', y', hexec, hafter, hsheet, hstatus, hdrains⟩ := hasElem_after_drain rfl hdue hq hchan h
    refine ⟨s', drainToken (x.sheet (k * 4096 + l)) t pos round tag, hexec, ?_⟩
    rw [buffer_of_hasElem hafter, buffer_of_hasElem h]
    obtain ⟨hx', hy', -⟩ := hafter
    rw [reg_of_find hx', bench_of_find hy', hsheet, acc_drained]
    exact ⟨bufs_push _ _ _, rfl, rfl, rfl, err_drainToken _ _ _ _ _, fun j hj => csTok_setTok _ _ _ hj, hstatus, rfl, rfl,
      hdrains⟩

/-- Settles O36: a result lands as one change of its element, a sheet's entry as one change of its sheet, and a drain's report
changes its node alone. -/
theorem resultsAndSheets : Obligations.ResultsAndSheets := ⟨resultsLandInTheirDestination, sheetsMergeClearAndDrain⟩

end Sys2Proof.Proofs.Results
end

section
/-! PROOFS. Integer and bit operations of an element: in every lane the model computes on machine words the number that the
rules state (R123, R188, R189, R205). -/

namespace Sys2Proof.Proofs.IntLanes

open Sys2Proof Sys2Proof.Machine Sys2Proof.Claims Sys2Proof.Laws Sys2Proof.Proofs.IntWords Sys2Proof.Proofs.Lanes
open Sys2Proof.Proofs.Compute

/-! ### Sources a and b of an operation -/

theorem intSrcs_eq_cons (a : Opnd) (b : IArg) : intSrcs a b = a :: iargSrcs b := by
  cases b <;> rfl

/-- The second source of an integer operation (R123). -/
theorem iargWord_eq_bLane (b : IArg) (n : Bool) (q : Payload) (i : Nat) : iargWord b n q i = bLane b n q i := by
  cases b with
  | opnd => rfl
  | imm x =>
    cases n with
    | false => rfl
    | true => rw [iargWord, bLane, if_pos rfl, if_pos rfl, BitVec.ofInt_natCast, BitVec.ofNat_toNat]

/-- An operation on a and b enters the one result of a function that agrees with its own on all words. -/
theorem elemOp_lanesI {s : State} {v : View} {i : Instr} {a d : Opnd} {b : IArg} {m : LMask} {n : Bool} {lat : Nat}
    {f g : Word → Word → Word × Flags} (hv : s.view i = some v) (h : dataReady v (intSrcs a b))
    (hfg : ∀ x y, g x y = f x y) :
    (.next (s.elemOp i (fun v => v.lanesI lat n d a b m g)) : Answer)
      = .next (s.enter (oneResult v (intSrcs a b) d m lat (fun p i => f (lane (p 0) i) (bLane b n (p 1) i)))) :=
  elemOp_of_lanes hv h (by simp only [View.lanesI, iargWord_eq_bLane, hfg, intSrcs_eq_cons])

/-- The same of an operation that raises no flag. -/
theorem elemOp_plain {s : State} {v : View} {i : Instr} {a d : Opnd} {b : IArg} {m : LMask} {n : Bool} {lat : Nat}
    {f g : Word → Word → Word} (hv : s.view i = some v) (h : dataReady v (intSrcs a b)) (hfg : ∀ x y, g x y = f x y) :
    (.next (s.elemOp i (fun v => v.lanesI lat n d a b m (noFlags g))) : Answer)
      = .next (s.enter (oneResult v (intSrcs a b) d m lat (fun p i => (f (lane (p 0) i) (bLane b n (p 1) i), 0#8)))) :=
  elemOp_lanesI (f := fun x y => (f x y, 0#8)) hv h fun x y => congrArg (·, 0#8) (hfg x y)

/-! ### Numbers of a lane -/

theorem add_eq_ofInt {w : Nat} (x y : BitVec w) : x + y = BitVec.ofInt w (x.toInt + y.toInt) := by
  rw [BitVec.ofInt_add, BitVec.ofInt_toInt, BitVec.ofInt_toInt]

theorem sub_eq_ofInt {w : Nat} (x y : BitVec w) : x - y = BitVec.ofInt w (x.toInt - y.toInt) := by
  rw [Int.sub_eq_add_neg, BitVec.ofInt_add, BitVec.ofInt_neg, BitVec.ofInt_toInt, BitVec.ofInt_toInt, BitVec.sub_eq_add_neg]

theorem andNot_eq_ofNat {w : Nat} (x y : BitVec w) :
    x &&& ~~~y = BitVec.ofNat w (x.toNat &&& (2 ^ w - 1 - y.toNat)) := by
  rw [BitVec.ofNat_and, ← not_eq_ofNat, BitVec.ofNat_toNat, BitVec.setWidth_eq]

@[simp] theorem ofInt_laneNum (n : Bool) (x : Word) : BitVec.ofInt 32 (laneNum n x) = x := by
  cases n <;> simp [laneNum]

theorem laneInt_eq_laneNum (n : Bool) (x : Word) : laneInt n x = laneNum n x := rfl

theorem ite_lt_eq_min (n : Bool) (x y : Word) :
    (if laneInt n y < laneInt n x then y else x) = BitVec.ofInt 32 (min (laneNum n x) (laneNum n y)) := by
  rw [laneInt_eq_laneNum, laneInt_eq_laneNum]
  split
  · rw [Int.min_eq_right (by omega), ofInt_laneNum]
  · rw [Int.min_eq_left (by omega), ofInt_laneNum]

theorem ite_lt_eq_max (n : Bool) (x y : Word) :
    (if laneInt n x < laneInt n y then y else x) = BitVec.ofInt 32 (max (laneNum n x) (laneNum n y)) := by
  rw [laneInt_eq_laneNum, laneInt_eq_laneNum]
  split
  · rw [Int.max_eq_right (by omega), ofInt_laneNum]
  · rw [Int.max_eq_left (by omega), ofInt_laneNum]

/-- A clamp to the range of a type, with SAT when it changes the number. -/
theorem satLane_eq_saturated (n : Bool) (x : Int) : satLane n x = saturated n x := by
  have hclamp : clampInt (intMin 32 n) (intMax 32 n) x
      = if n then max 0 (min (2 ^ 32 - 1) x) else max (-2 ^ 31) (min (2 ^ 31 - 1) x) := by
    cases n <;> simp only [clampInt, intMin, intMax] <;> grind
  simp only [satLane, saturated, hclamp, flagIf, bne_iff_ne, ne_eq, ite_not, fSAT, eq_comm (a := x)]

theorem natAbs_eq_max (x : Int) : (x.natAbs : Int) = max x (-x) := by
  omega

/-! ### Upper halves, funnels and fields -/

/-- The upper half of a doubleword. -/
theorem extractLsb'_ofInt64 (z : Int) : (BitVec.ofInt 64 z).extractLsb' 32 32 = BitVec.ofInt 32 (z / 2 ^ 32) := by
  apply BitVec.eq_of_toNat_eq
  simp only [BitVec.extractLsb'_toNat, BitVec.toNat_ofInt, Nat.shiftRight_eq_div_pow]
  omega

theorem extractLsb'_ofNat64 (n : Nat) : (BitVec.ofNat 64 n).extractLsb' 32 32 = BitVec.ofNat 32 (n / 2 ^ 32) := by
  rw [← BitVec.ofInt_natCast, extractLsb'_ofInt64, ← BitVec.ofInt_natCast]
  rfl

theorem mulhLane_eq (n : Bool) (x y : Word) : mulhLane n x y
    = if n then (x.setWidth 64 * y.setWidth 64).extractLsb' 32 32
      else (x.signExtend 64 * y.signExtend 64).extractLsb' 32 32 := by
  have hproduct (k : Int) (l : Int) : BitVec.ofInt 32 (k * l / 2 ^ 32)
      = (BitVec.ofInt 64 k * BitVec.ofInt 64 l).extractLsb' 32 32 := by
    rw [← BitVec.ofInt_mul, extractLsb'_ofInt64]
  cases n with
  | false => exact hproduct _ _
  | true => rw [mulhLane, hproduct]; simp [laneInt]

theorem toNat_lanePair (x y : Word) : (x ++ y).toNat = x.toNat * 2 ^ 32 + y.toNat := by
  rw [BitVec.toNat_append, ← Nat.shiftLeft_add_eq_or_of_lt y.isLt, Nat.shiftLeft_eq]

theorem fshlLane_eq (a b : Word) (n : Nat) : fshlLane a b n = ((a ++ b) <<< n).extractLsb' 32 32 := by
  rw [shiftLeft_eq_ofNat, toNat_lanePair, extractLsb'_ofNat64]
  rfl

theorem fshrLane_eq (a b : Word) (n : Nat) : fshrLane a b n = ((a ++ b) >>> n).extractLsb' 0 32 := by
  rw [← BitVec.setWidth_eq_extractLsb' (by decide), ← BitVec.ofNat_toNat, BitVec.toNat_ushiftRight, toNat_lanePair,
    Nat.shiftRight_eq_div_pow]
  rfl

/-- A sum of the powers of the bits that hold is these bits packed. -/
theorem foldl_add_two_pow (f : Nat → Bool) (n : Nat) :
    (List.range n).foldl (fun x k => x + if f k then 2 ^ k else 0) 0 = pack 1 (fun k => (f k).toNat) n := by
  induction n with
  | zero => rfl
  | succ n ih =>
    rw [List.range_succ, List.foldl_append, ih, pack]
    cases h : f n <;> simp [h]

theorem getLsbD_pack_one {w n i : Nat} (f : Nat → Bool) (hw : n ≤ w) (hi : i < n) :
    (BitVec.ofNat w (pack 1 (fun k => (f k).toNat) n)).getLsbD i = f i := by
  have hbit : (BitVec.ofNat w (pack 1 (fun k => (f k).toNat) n)).extractLsb' (1 * i) 1 = BitVec.ofNat 1 (f i).toNat :=
    extractLsb'_pack _ (by omega) hi
  calc (BitVec.ofNat w (pack 1 (fun k => (f k).toNat) n)).getLsbD i
      = ((BitVec.ofNat w (pack 1 (fun k => (f k).toNat) n)).extractLsb' (1 * i) 1).getLsbD 0 := by simp
    _ = f i := by rw [hbit]; cases f i <;> rfl

/-- The bits of a field (R189). -/
theorem getLsbD_field (pos len : Nat) {i : Nat} (hi : i < 32) :
    (BitVec.ofNat 32 ((2 ^ len - 1) * 2 ^ pos)).getLsbD i = decide (pos ≤ i ∧ i < pos + len) := by
  rw [BitVec.getLsbD_ofNat, Nat.testBit_mul_two_pow, Nat.testBit_two_pow_sub_one]
  simp only [hi, decide_true, Bool.true_and, ← Bool.decide_and, decide_eq_decide]
  omega

theorem bdepLane_eq_deposit (d a : Word) (pos len : Nat) : bdepLane d a pos len = integerOp.deposit d a pos len := by
  refine BitVec.eq_of_getLsbD_eq fun i hi => ?_
  simp only [bdepLane, integerOp.deposit, foldl_add_two_pow, getLsbD_pack_one _ (Nat.le_refl 32) hi, BitVec.getLsbD_or,
    BitVec.getLsbD_and, BitVec.getLsbD_not, BitVec.getLsbD_shiftLeft, getLsbD_field pos len hi, hi, decide_true,
    Bool.true_and]
  by_cases hin : pos ≤ i ∧ i < pos + len <;> simp [hin]

/-! ### The obligation -/

/-- Settles O14: each operation computes lane by lane the number of the rules. -/
theorem integerLanes : Obligations.IntegerLanes := by
  intro s v i srcs d m lat f hv hi h
  cases i with
  | iadd => cases hi; exact (elemOp_plain hv h add_eq_ofInt :)
  | isub => cases hi; exact (elemOp_plain hv h sub_eq_ofInt :)
  | imul => cases hi; exact (elemOp_plain hv h mul_eq_ofInt :)
  | imulh n => cases hi; exact (elemOp_plain hv h (mulhLane_eq n) :)
  | imin n => cases hi; exact (elemOp_plain hv h (ite_lt_eq_min n) :)
  | imax n => cases hi; exact (elemOp_plain hv h (ite_lt_eq_max n) :)
  | eAnd | eOr | eXor => cases hi; exact elemOp_plain hv h fun _ _ => rfl
  | eAndn => cases hi; exact (elemOp_plain hv h andNot_eq_ofNat :)
  | eShl => cases hi; exact (elemOp_plain hv h fun x y => shiftLeft_eq_ofNat x (shAmt y) :)
  | eShr => cases hi; exact (elemOp_plain hv h fun x y => ushiftRight_eq_ofNat x (shAmt y) :)
  | eSra => cases hi; exact (elemOp_plain hv h fun x y => sshiftRight_eq_ofInt x (shAmt y) :)
  | iadds n => cases hi; exact (elemOp_lanesI hv h fun x y => satLane_eq_saturated n (laneInt n x + laneInt n y) :)
  | isubs n => cases hi; exact (elemOp_lanesI hv h fun x y => satLane_eq_saturated n (laneInt n x - laneInt n y) :)
  | iabs =>
    cases hi
    exact elemOp_of_lanes hv h (by simp only [View.lanes1, satLane_eq_saturated, natAbs_eq_max])
  | eFshr d a b n m =>
    cases n with
    | none | some =>
      cases hi
      exact elemOp_of_lanes hv h (by simp only [View.funnel, View.lanes2, View.lanes3, noFlags, fshrLane_eq, shAmt])
  | eFshl d a b n m =>
    cases n with
    | none | some =>
      cases hi
      exact elemOp_of_lanes hv h (by simp only [View.funnel, View.lanes2, View.lanes3, noFlags, fshlLane_eq, shAmt])
  | eClz => cases hi; exact elemOp_of_lanes hv h (by simp only [View.lanes1, clzNat_eq_find])
  | ePopc => cases hi; exact elemOp_of_lanes hv h (by simp only [View.lanes1, popNat_eq_length]; rfl)
  | bext d a f m =>
    cases f with
    | opnd | imm => cases hi; exact elemOp_of_lanes hv h rfl
  | bdep d a f m =>
    cases f with
    | opnd | imm => cases hi; exact elemOp_of_lanes hv h (by simp only [bdepLane_eq_deposit]; rfl)
  | _ => cases hi

end Sys2Proof.Proofs.IntLanes
end

section
/-! PROOFS. Lane groups, shuffles, SPLAT, SEL, MOV and CTLTOK, and the operations that mark, tag and count: MARK, TAGGEN and
CNT (R19, R194 to R196, R198, R202 to R204). -/

namespace Sys2Proof.Proofs.Movement

open Sys2Proof Sys2Proof.Machine Sys2Proof.Claims Sys2Proof.Laws Sys2Proof.Proofs.IntWords Sys2Proof.Proofs.Lanes
open Sys2Proof.Proofs.Compute Sys2Proof.Proofs.IntLanes

/-! ### Payloads under a mask -/

/-- Only the lanes of a payload count. -/
theorem masked_congr {f g : Nat → Word × Flags} (h : ∀ i < 16, f i = g i) (mk : BitVec 16) : masked mk f = masked mk g := by
  have hlanes : (upTo 16).map (fun i => if bit mk.toNat i then f i else (0#32, 0#8))
      = (upTo 16).map (fun i => if bit mk.toNat i then g i else (0#32, 0#8)) :=
    List.map_congr_left fun i hi => by rw [h i (List.mem_range.1 hi)]
  rw [← laneMap_eq_masked, ← laneMap_eq_masked, laneMap, laneMap, hlanes]

/-- Lanes that raise no flag. -/
theorem masked_noFlags (mk : BitVec 16) (f : Nat → Word) : (masked mk (fun i => (f i, 0#8))).2 = 0#8 := by
  have hkeep : (masked mk (fun i => (f i, 0#8))).2 = (List.range 16).foldl (fun fl _ => fl) 0#8 := by
    simp only [masked, BitVec.or_zero, ite_self]
  exact hkeep.trans rfl

/-- Under the mask m0 every lane is written. -/
theorem masked_all (f : Nat → Word) : (masked 0xFFFF#16 (fun i => (f i, 0#8))).1 = ofLanes f := by
  refine ofLanes_congr fun i hi => if_pos ?_
  have hbits : ∀ i < 16, (0xFFFF#16).getLsbD i = true := by decide
  exact hbits i hi

@[simp] theorem mask_zero (v : View) : v.mask 0 = ⟨0xFFFF#16, false⟩ := rfl

/-- An operation whose effects are those of lanes, which may depend on the mask, enters the one result of any lanes that agree
with them. -/
theorem elemOp_of_masked_lanes {s : State} {v : View} {i : Instr} {srcs : List Opnd} (hv : s.view i = some v)
    (h : dataReady v srcs) {lat : Nat} {d : Opnd} {m : LMask} {y : (Nat → Payload) → Nat → Word × Flags}
    {g : View → List Eff} (x : BitVec 16 → (Nat → Payload) → Nat → Word × Flags)
    (hg : g v = v.run1 lat d srcs m (fun ps mk => laneMap mk (x mk (arg ps))))
    (hxy : ∀ p, ∀ j < 16, x (v.mask m).val p j = y p j) :
    (.next (s.elemOp i g) : Answer) = .next (s.enter (oneResult v srcs d m lat y)) := by
  rw [elemOp_of_view hv, hg, View.run1, run_of_dataReady h]
  simp only [laneMap_eq_masked, masked_congr (hxy _)]
  rfl

/-! ### Lane groups (R194) -/

/-- The lanes of a group, from its first one on. -/
theorem filter_sameGroup : ∀ (n : Fin 4) (i : Fin 16),
    (List.range 16).filter (fun j => j / 2 ^ (n.val + 1) == i.val / 2 ^ (n.val + 1))
      = (List.range (2 ^ (n.val + 1))).map (fun j => i.val / 2 ^ (n.val + 1) * 2 ^ (n.val + 1) + j) := by
  decide

theorem groupLanes_eq_members (n : Fin 4) (mk : BitVec 16) {i : Nat} (hi : i < 16) :
    groupLanes n mk i = members n mk i := by
  have hmembers : members n mk i = ((List.range 16).filter
      (fun j => j / 2 ^ (n.val + 1) == i / 2 ^ (n.val + 1))).filter (fun j => mk.getLsbD j) := by
    simp only [members, List.filter_filter, Bool.and_comm]
  rw [hmembers, filter_sameGroup n ⟨i, hi⟩]
  simp only [groupLanes, upTo, bit_toNat_eq_getLsbD]

theorem pick2_eq_ite {t : LType} (ht : t ≠ .f) (greater : Bool) (a b : Word) :
    pick2 t greater a b = if (laneNum (t == .n) a < laneNum (t == .n) b) = greater then b else a := by
  cases t with
  | f => exact absurd rfl ht
  | i => rfl
  | n =>
    have hlt : (laneNum true a < laneNum true b) = (a.toNat < b.toNat) := propext Int.ofNat_lt
    change _ = if (laneNum true a < laneNum true b) = greater then b else a
    rw [pick2]
    simp only [hlt]

/-- The greater or lesser of two integer lanes. -/
theorem laneNum_pick2 {t : LType} (ht : t ≠ .f) (greater : Bool) (a b : Word) :
    laneNum (t == .n) (pick2 t greater a b)
      = if greater then max (laneNum (t == .n) a) (laneNum (t == .n) b)
        else min (laneNum (t == .n) a) (laneNum (t == .n) b) := by
  rw [pick2_eq_ite ht, apply_ite (laneNum _)]
  by_cases hlt : laneNum (t == .n) a < laneNum (t == .n) b
  · cases greater with
    | true => rw [if_pos (by simp only [hlt]), if_pos rfl, Int.max_eq_right (Int.le_of_lt hlt)]
    | false => rw [if_neg (by simp only [hlt, Bool.false_eq_true, eq_iff_iff, iff_false, not_true, not_false_iff]),
        if_neg Bool.false_ne_true, Int.min_eq_left (Int.le_of_lt hlt)]
  · cases greater with
    | true => rw [if_neg (by simp only [hlt, eq_iff_iff, iff_true, not_false_iff]), if_pos rfl,
        Int.max_eq_left (Int.not_lt.1 hlt)]
    | false => rw [if_pos (by simp only [hlt, Bool.false_eq_true]), if_neg Bool.false_ne_true,
        Int.min_eq_right (Int.not_lt.1 hlt)]

/-- The extreme of the lanes of a group. -/
theorem pickAll_eq_laneExtreme {t : LType} (ht : t ≠ .f) (greater : Bool) (ws : List Word) :
    pickAll t greater ws = laneExtreme t greater ws := by
  cases ws with
  | nil => rfl
  | cons w ws =>
    rw [laneExtreme, List.foldl_map, List.map_cons, List.headD_cons,
      List.foldl_hom (laneNum (t == .n)) (g₁ := pick2 t greater) fun a b => (laneNum_pick2 ht greater a b).symm, ofInt_laneNum]
    rfl

/-- The sum of the lanes of a group. -/
theorem sumAll_eq_laneSum (t : LType) (sat : Bool) (ws : List Word) : sumAll t sat ws = laneSum t sat ws := by
  have hsum (f : Word → Int) : ws.foldl (fun acc w => acc + f w) 0 = (ws.map f).sum := by
    rw [List.sum_eq_foldl, List.foldl_map]
  cases t with
  | f => rfl
  | i | n =>
    simp only [sumAll, laneSum, hsum, satLane_eq_saturated]
    rfl

/-! ### Lane movement (R195, R196) -/

/-- A lane of two payloads interleaved is a lane of their concatenation. -/
theorem interleaved_lane (a b : Payload) (i : Nat) {x : Nat} (hx : x < 16) :
    (if i % 2 = 0 then lane a x else lane b x)
      = if x + 16 * (i % 2) < 16 then lane a (x + 16 * (i % 2)) else lane b (x + 16 * (i % 2) - 16) := by
  rcases Nat.mod_two_eq_zero_or_one i with h | h
  · rw [if_pos h, h, if_pos (by omega)]
    rfl
  · rw [if_neg (by omega), h, if_neg (by omega), Nat.mul_one, Nat.add_sub_cancel]

/-- A lane operation of this family on data enters the one result of its lanes. -/
theorem exec_of_moveOp {s : State} {v : View} {i : Instr} {srcs : List Opnd} {d : Opnd} {m : LMask} {lat : Nat}
    {f : (Nat → Payload) → Nat → Word × Flags} (hv : s.view i = some v) (hi : moveOp v i = some (srcs, d, m, lat, f))
    (h : dataReady v srcs) : exec i s = .next (s.enter (oneResult v srcs d m lat f)) := by
  cases i with
  | gmax n t | gmin n t =>
    obtain ⟨ht, hop⟩ := Option.ite_none_left_eq_some.1 hi
    cases hop
    exact elemOp_of_masked_lanes hv h (fun mk p i => (pickAll t _ ((groupLanes n mk i).map (lane (p 0))), 0#8)) rfl
      fun p i hi => by rw [groupLanes_eq_members n _ hi, pickAll_eq_laneExtreme ht]
  | gsum n t sat =>
    cases hi
    exact elemOp_of_masked_lanes hv h (fun mk p i => sumAll t sat ((groupLanes n mk i).map (lane (p 0)))) rfl
      fun p i hi => by rw [groupLanes_eq_members n _ hi, sumAll_eq_laneSum]
  | gscan n t sat =>
    cases hi
    exact elemOp_of_masked_lanes hv h
      (fun mk p i => sumAll t sat (((groupLanes n mk i).filter (· ≤ i)).map (lane (p 0)))) rfl
      fun p i hi => by rw [groupLanes_eq_members n _ hi, sumAll_eq_laneSum]
  | shuf k =>
    cases hi
    refine elemOp_of_masked_lanes hv h (fun _ p i => (shufLane k (p 0) (p 1) i, 0#8)) rfl fun p i hi => congrArg (·, 0#8) ?_
    cases k with
    | rot | perm | uze | uzo => rfl
    | zlo | zhi => exact interleaved_lane _ _ _ (by omega)
  | splat d src =>
    cases src with
    | lane | imm => cases hi; exact elemOp_of_lanes hv h rfl
  | mov => cases hi; exact elemOp_of_lanes hv h rfl
  | _ => cases hi

/-- A copy of all lanes of a payload. -/
theorem move_all {v : View} {a : Opnd} (h : dataReady v [a]) (d : Opnd) :
    v.move d a 0 = computeEffects v [a] 0 false
      [⟨1, opndDst d, 0xFFFF#16, .data, ofLanes (fun i => lane (v.read a).val i)⟩] 0#8 := by
  rw [View.move, run1_of_dataReady h 1 d 0 (fun p i => (lane (p 0) i, 0#8)), oneResult, mask_zero, masked_noFlags, masked_all]
  rfl

/-- A change of the tokens of results that keeps every other effect changes the effects of an operation in its result alone. -/
theorem map_computeEffects {φ : Eff → Eff} {more more' : Bool} {k k' : TokKind} (v : View) (srcs : List Opnd) (m : LMask)
    (lat : Nat) (d : Dst) (lanes : BitVec 16) (p : Payload) (fl : Flags)
    (hresult : ∀ e r t c, φ (.result lat d ⟨k, e || more, r, t, c, p⟩ lanes)
      = .result lat d ⟨k', e || more', r, t, c, p⟩ lanes)
    (hconsume : ∀ n, φ (.consume n) = .consume n) (hctx : ∀ j r t, φ (.ctxRT j r t) = .ctxRT j r t)
    (hflags : ∀ r g, φ (.flags r g) = .flags r g) (hsink : ∀ r t, φ (.sink r t) = .sink r t) :
    (computeEffects v srcs m more [⟨lat, d, lanes, k, p⟩] fl).map φ
      = computeEffects v srcs m more' [⟨lat, d, lanes, k', p⟩] fl := by
  have hout : ∀ e r t, φ (.result lat d (v.outTok d ⟨k, e || more, r, t, 0#8, p⟩) lanes)
      = .result lat d (v.outTok d ⟨k', e || more', r, t, 0#8, p⟩) lanes := by
    cases d <;> exact fun e r t => hresult e r t _
  simp only [computeEffects, List.map_append, List.map_map, List.map_cons, List.map_nil, Function.comp_def, hconsume, hctx,
    hout, apply_ite (List.map φ), hflags, hsink]
  rfl

/-- SEL on data enters the lanes that the mask mS picks, with its ERR (R182, R196). -/
theorem exec_eSel {s : State} {v : View} {ms m : LMask} {d a b : Opnd} (hv : s.view (.eSel ms d a b m) = some v)
    (h : dataReady v [a, b]) :
    exec (.eSel ms d a b m) s = .next (s.enter (computeEffects v [a, b] m (v.mask ms).err
      [⟨1, opndDst d, (v.mask m).val, .data, (masked (v.mask m).val (fun i =>
        (if (v.mask ms).val.getLsbD i then lane (v.read a).val i else lane (v.read b).val i, 0#8))).1⟩] 0#8)) := by
  change Host.Outcome.next _ = _
  rw [elemOp_of_view hv]
  dsimp only
  rw [run1_of_dataReady h 1 d m
      (fun p i => (if bit (v.mask ms).val.toNat i then lane (p 0) i else lane (p 1) i, 0#8)), oneResult,
    map_computeEffects (more' := (v.mask ms).err) (k' := .data), masked_noFlags]
  · simp only [bit_toNat_eq_getLsbD]
    rfl
  · intro e r t c
    simp [TokKind.isData]
  all_goals (intros; rfl)

/-- CTLTOK on data enters the copy as a control token (R198). -/
theorem exec_ctltok {s : State} {v : View} {d a : Opnd} (hv : s.view (.ctltok d a) = some v) (h : dataReady v [a]) :
    exec (.ctltok d a) s = .next (s.enter (computeEffects v [a] 0 false
      [⟨1, opndDst d, 0xFFFF#16, .control, ofLanes (fun i => lane (v.read a).val i)⟩] 0#8)) := by
  change Host.Outcome.next _ = _
  rw [elemOp_of_view hv, move_all h, map_computeEffects (more' := false) (k' := .control)]
  all_goals (intros; rfl)

/-- Settles O15: groups, shuffles and copies agree lane by lane, and SEL and CTLTOK change the tokens of a copy alone. -/
theorem groupsAndMovement : Obligations.GroupsAndMovement :=
  ⟨fun _ _ _ _ _ _ _ _ => exec_of_moveOp, fun _ _ _ _ _ _ _ => exec_eSel, fun _ _ _ _ => exec_ctltok⟩

/-! ### MARK and TAGGEN (R19, R202, R203) -/

/-- MARK with no token at b copies a. -/
theorem exec_mark_of_none {s : State} {v : View} {d a b : Opnd} (hv : s.view (.mark d a b) = some v)
    (hb : (v.read b).tok = none) (h : dataReady v [a]) :
    exec (.mark d a b) s = .next (s.enter (computeEffects v [a] 0 false
      [⟨1, opndDst d, 0xFFFF#16, .data, ofLanes (fun i => lane (v.read a).val i)⟩] 0#8)) := by
  change Host.Outcome.next _ = _
  simp only [elemOp_of_view hv, hb, move_all h]

/-- MARK with a token at b: punctuation passes, data raises order-violation. -/
theorem exec_mark_of_holds {s : State} {v : View} {d a b : Opnd} {n : Nat} {t : Token} (hv : s.view (.mark d a b) = some v)
    (hb : holds v b n t) :
    exec (.mark d a b) s = .next (s.enter
      (if t.kind.isData then [v.raise 0x90 [t]] else v.consume [(n, t)] ++ v.send (opndDst d) t)) := by
  change Host.Outcome.next _ = _
  rw [elemOp_of_view hv, show (v.read b).tok = some (n, t) from hb]

/-- Punctuation is sent by channels only (R183). -/
theorem send_of_punct (v : View) (d : Opnd) {t : Token} (ht : t.kind.isData = false) :
    v.send (opndDst d) t = match d with
      | .ch k => [.result 1 (.chan k.val) (v.outTok (.chan k.val) t) 0xFFFF#16]
      | .v _ => [] := by
  cases d <;> simp [View.send, ht, opndDst, Dst.isChan, View.result]

/-- TAGGEN begins an iteration with the next tag, unless the round is full. -/
theorem exec_taggen {s : State} {v : View} {d : Opnd} {m : LMask} (hv : s.view (.taggen d m) = some v) :
    exec (.taggen d m) s = .next (s.enter (if v.full then [v.raise 0x9D []] else [.ctxTag v.f.ksel (v.ctx.ntag + 1),
      .result 1 (opndDst d) (v.outTok (opndDst d) ⟨.data, (v.mask m).err, v.ctx.cround, v.ctx.ntag + 1, 0#8,
        (masked (v.mask m).val (fun _ => ((v.ctx.ntag + 1).setWidth 32, 0#8))).1⟩) (v.mask m).val])) := by
  change Host.Outcome.next _ = _
  simp only [elemOp_of_view hv, laneMap_eq_masked]
  rfl

/-! ### CNT (R204) -/

/-- A counter that reaches its limit wraps by it and carries. -/
theorem cntLane_eq (d a b : Word) : cntLane d a b
    = (BitVec.ofNat 32 (if decide (b.toNat ≠ 0 ∧ b.toNat ≤ d.toNat + a.toNat) = true then d.toNat + a.toNat - b.toNat
        else d.toNat + a.toNat), decide (b.toNat ≠ 0 ∧ b.toNat ≤ d.toNat + a.toNat)) := by
  unfold cntLane
  by_cases h : b.toNat ≠ 0 ∧ b.toNat ≤ d.toNat + a.toNat
  · rw [if_pos h, decide_eq_true h, if_pos rfl]
  · rw [if_neg h, decide_eq_false h, if_neg Bool.false_ne_true]

/-- CNT on data enters the counters of the selected lanes and, with a mask mC, their carries. -/
theorem exec_cnt {s : State} {v : View} {mc m : LMask} {d a b : Opnd} (hv : s.view (.cnt mc d a b m) = some v)
    (h : dataReady v [a, b, d]) :
    exec (.cnt mc d a b m) s = .next (s.enter (computeEffects v [a, b, d] m false
      (⟨1, opndDst d, (v.mask m).val, .data, (masked (v.mask m).val (fun i =>
          ((cntLane (lane (v.read d).val i) (lane (v.read a).val i) (lane (v.read b).val i)).1, 0#8))).1⟩
        :: if mc = 0 then [] else [⟨1, .mask mc.val, 0xFFFF#16, .data, maskOf (v.mask m).val (fun i =>
          (cntLane (lane (v.read d).val i) (lane (v.read a).val i) (lane (v.read b).val i)).2)⟩]) 0#8)) := by
  change Host.Outcome.next _ = _
  rw [elemOp_of_view hv, run_of_dataReady h]
  simp only [laneMap_eq_masked]
  split <;> rfl

/-- Settles O20: MARK is a copy or passes the token at b, TAGGEN depends on whether the round is full, and CNT computes lane by
lane the counters and their carries. -/
theorem marksTagsAndCounters : Obligations.MarksTagsAndCounters := by
  refine ⟨fun s v d a b => exec_mark_of_none, fun s v d a b n t hv hb ht => ?_, fun s v d a b n t hv hb ht => ?_,
    fun s v d m hv => ⟨fun hfull => ?_, fun hfull => ?_⟩, fun s v mc m d a b hv h => ?_⟩
  · have hpunct : t.kind.isData = false := Bool.eq_false_iff.2 fun hk => ht (isData_iff.1 hk)
    rw [exec_mark_of_holds hv hb, if_neg (by simp [hpunct]), send_of_punct v d hpunct]
    rfl
  · rw [raisesOnly, exec_mark_of_holds hv hb, if_pos (isData_iff.2 ht)]
    exact ⟨_, rfl, rfl, rfl⟩
  · rw [exec_taggen hv, hfull]
    rfl
  · rw [raisesOnly, exec_taggen hv, hfull]
    exact ⟨_, rfl, rfl, rfl⟩
  · have hexec := exec_cnt hv h
    simp only [cntLane_eq] at hexec
    exact ⟨_, hexec, fun i hi => getLsbD_maskOf _ _ hi⟩

end Sys2Proof.Proofs.Movement
end

section
/-! PROOFS. CVT, QNT and DQNT: the values that conversions pack, and the scale of a group, which is the least that its greatest
magnitude fits (R190 to R192). Magnitudes are compared as natural numbers in one unit, where the model scales both sides to a
common exponent. -/

namespace Sys2Proof.Proofs.Conversions

open Sys2Proof Sys2Proof.Machine Sys2Proof.Claims Sys2Proof.Laws Sys2Proof.Proofs.IntWords Sys2Proof.Proofs.Lanes
open Sys2Proof.Proofs.Compute

/-! ### Values of a payload (R159) -/

theorem ofValues_congr {w n : Nat} {f g : Nat → Nat} (h : ∀ j < n, f j = g j) : ofValues w n f = ofValues w n g :=
  congrArg (BitVec.ofNat 512) (pack_congr h)

/-- Above the packed values stands nothing. -/
theorem bits_pack_of_le {w n lo : Nat} (f : Nat → Nat) (h : w * n ≤ lo) (len : Nat) : bits (pack w f n) lo len = 0 := by
  have hbelow : pack w f n < 2 ^ lo := Nat.lt_of_lt_of_le (pack_lt w f n) (Nat.pow_le_pow_right Nat.two_pos h)
  rw [bits, Nat.div_eq_of_lt hbelow, Nat.zero_mod]

/-- Values that all fit a word stand at their places in it. -/
theorem bits_ofNat_pack {size w n : Nat} (f : Nat → Nat) (hsize : w * n ≤ size) (j : Nat) :
    bits (BitVec.ofNat size (pack w f n)).toNat (w * j) w = if j < n then f j % 2 ^ w else 0 := by
  have hfits : pack w f n < 2 ^ size := Nat.lt_of_lt_of_le (pack_lt w f n) (Nat.pow_le_pow_right Nat.two_pos hsize)
  rw [BitVec.toNat_ofNat, Nat.mod_eq_of_lt hfits]
  split
  case isTrue h => exact pack_div_mod f h
  case isFalse h => exact bits_pack_of_le f (Nat.mul_le_mul_left w (Nat.not_lt.1 h)) w

/-- A field that is zero in a number is zero in a word that holds its low bits. -/
theorem bits_ofNat_eq_zero {x lo len : Nat} (h : bits x lo len = 0) (size : Nat) :
    bits (BitVec.ofNat size x).toNat lo len = 0 := by
  refine Nat.eq_of_testBit_eq fun i => ?_
  have hbit := congrArg (Nat.testBit · i) h
  simp only [bits, BitVec.toNat_ofNat, Nat.testBit_mod_two_pow, Nat.testBit_div_two_pow, Nat.zero_testBit,
    Bool.and_eq_false_iff] at hbit ⊢
  exact hbit.imp_right .inr

theorem value_ofValues {w n : Nat} (f : Nat → Nat) (hsize : w * n ≤ 512) (j : Nat) :
    value (ofValues w n f) w j = if j < n then f j % 2 ^ w else 0 :=
  bits_ofNat_pack f hsize j

/-- A value that is packed as zero, or not at all, reads zero, whether or not all values fit the payload. -/
theorem value_ofValues_eq_zero {w n j : Nat} {f : Nat → Nat} (h : j < n → f j = 0) : value (ofValues w n f) w j = 0 := by
  refine bits_ofNat_eq_zero ?_ 512
  by_cases hj : j < n
  · exact (pack_div_mod f hj).trans (by rw [h hj, Nat.zero_mod])
  · exact bits_pack_of_le f (Nat.mul_le_mul_left w (Nat.not_lt.1 hj)) w

theorem getD_map_upTo {α : Type} (f : Nat → α) (x : α) {n j : Nat} (h : j < n) : ((upTo n).map f).getD j x = f j := by
  simp [upTo, h]

/-! ### CVT (R190) -/

theorem ite_lt_eq_wider (x y : Nat) : (if x < y then y else x) = max x y := by
  split <;> omega

theorem cvtPayload_value (sf df : Fmt) (sat : Bool) (rm : RMode) (p : Payload) (m : BitVec 16) (j : Nat) :
    value (cvtPayload sf df sat rm p m).1 df.bits j
      = if j < 512 / max sf.bits df.bits ∧ m.getLsbD (df.bits * j / 32) = true
        then (convert sf df sat rm (value p sf.bits j)).1 % 2 ^ df.bits else 0 := by
  have hsize : df.bits * (512 / max sf.bits df.bits) ≤ 512 :=
    Nat.le_trans (Nat.mul_le_mul_right _ (Nat.le_max_right ..)) (Nat.mul_div_le ..)
  simp only [cvtPayload, ite_lt_eq_wider]
  rw [ofValues_congr (fun i hi => congrArg Prod.fst (getD_map_upTo _ _ hi)), value_ofValues _ hsize]
  simp only [bit_toNat_eq_getLsbD, laneOf]
  by_cases hj : j < 512 / max sf.bits df.bits
  · by_cases hpicked : m.getLsbD (df.bits * j / 32) = true
    · rw [if_pos hj, if_pos hpicked, if_pos ⟨hj, hpicked⟩]
    · rw [if_pos hj, if_neg hpicked, if_neg (fun h => hpicked h.2), Nat.zero_mod]
  · rw [if_neg hj, if_neg (fun h => hj h.1)]

theorem cvtPayload_flags (sf df : Fmt) (sat : Bool) (rm : RMode) (p : Payload) (m : BitVec 16) :
    (cvtPayload sf df sat rm p m).2 = (List.range (512 / max sf.bits df.bits)).foldl (fun fl j =>
      if m.getLsbD (df.bits * j / 32) then fl ||| (convert sf df sat rm (value p sf.bits j)).2 else fl) 0#8 := by
  have hpick (g x : Flags) (c : Bool) : (g ||| if c then x else 0#8) = if c then g ||| x else g := by
    split <;> simp
  simp only [cvtPayload, ite_lt_eq_wider, List.foldl_map, bit_toNat_eq_getLsbD, laneOf, apply_ite Prod.snd, hpick, upTo]

theorem exec_cvt {s : State} {v : View} {sf df : Fmt} {sat : Bool} {rm : RMode} {d a : Opnd} {m : LMask}
    (hv : s.view (.cvt sf df sat rm d a m) = some v) (h : dataReady v [a]) :
    exec (.cvt sf df sat rm d a m) s = .next (s.enter (computeEffects v [a] m false
      [⟨2, opndDst d, (v.mask m).val, .data, (cvtPayload sf df sat rm (v.read a).val (v.mask m).val).1⟩]
      (cvtPayload sf df sat rm (v.read a).val (v.mask m).val).2)) := by
  change Host.Outcome.next _ = _
  rw [elemOp_of_view hv, View.run1, run_of_dataReady h]
  rfl

/-! ### Magnitudes -/

/-- The magnitude of a finite value in units of 2^-165. Every finite lane is a whole number of them, and so is the greatest value
of a format at any scale that decides a group. -/
def magnitude : FVal → Nat
  | .fin _ m e => m * 2 ^ (e + 165).toNat
  | _ => 0

/-- The value is finite. -/
def isFinite : FVal → Bool
  | .fin _ _ _ => true
  | _ => false

/-- The value is finite and, as the value of a lane, a multiple of 2^-149. -/
def isUnits : FVal → Bool
  | .fin _ _ e => decide (-149 ≤ e)
  | _ => false

/-- Magnitudes are compared at any exponent that lies below both. -/
theorem scaled_le_iff (m k : Nat) {e g base : Int} (hbase : -165 ≤ base) (he : base ≤ e) (hg : base ≤ g) :
    scaled false m e base ≤ scaled false k g base ↔ m * 2 ^ (e + 165).toNat ≤ k * 2 ^ (g + 165).toNat := by
  have hunit {n : Nat} {x : Int} (hx : base ≤ x) :
      n * 2 ^ (x + 165).toNat = n * 2 ^ (x - base).toNat * 2 ^ (base + 165).toNat := by
    have hexp : (x + 165).toNat = (x - base).toNat + (base + 165).toNat := by omega
    rw [hexp, Nat.pow_add, Nat.mul_assoc]
  rw [hunit he, hunit hg, Nat.mul_le_mul_right_iff (Nat.two_pow_pos _)]
  exact Int.ofNat_le

theorem magLt_iff {x y : FVal} (hx : isUnits x = true) (hy : isUnits y = true) :
    magLt x y = true ↔ magnitude x < magnitude y := by
  cases x with
  | nan | inf => cases hx
  | fin a m e =>
    cases y with
    | nan | inf => cases hy
    | fin b k g =>
      have he : -149 ≤ e := of_decide_eq_true hx
      have hg : -149 ≤ g := of_decide_eq_true hy
      rw [magLt, decide_eq_true_iff, ← Int.not_le,
        scaled_le_iff k m (by split <;> omega) (by split <;> omega) (by split <;> omega), Nat.not_le]
      rfl

/-- The greatest magnitude of values of lanes is that of such a value, and no greater than what bounds them all. -/
theorem maxMag_le_iff {vs : List FVal} (h : ∀ v ∈ vs, isUnits v = true) :
    isUnits (maxMag vs) = true ∧ ∀ y, magnitude (maxMag vs) ≤ y ↔ ∀ v ∈ vs, magnitude v ≤ y := by
  induction vs with
  | nil => exact ⟨rfl, fun y => ⟨fun _ _ hv => absurd hv List.not_mem_nil,
      fun _ => Nat.le_trans (Nat.le_of_eq (Nat.zero_mul _)) (Nat.zero_le y)⟩⟩
  | cons v vs ih =>
    obtain ⟨hv, hvs⟩ := List.forall_mem_cons.1 h
    obtain ⟨hfin, hle⟩ := ih hvs
    simp only [maxMag, List.forall_mem_cons, magLt_iff hfin hv]
    split
    case isTrue hlt => exact ⟨hv, fun y => ⟨fun hvy => ⟨hvy, (hle y).1 (Nat.le_trans (Nat.le_of_lt hlt) hvy)⟩, And.left⟩⟩
    case isFalse hlt => exact ⟨hfin, fun y =>
      ⟨fun hmax => ⟨Nat.le_trans (Nat.not_lt.1 hlt) hmax, (hle y).1 hmax⟩, fun hall => (hle y).2 hall.2⟩⟩

/-- The three kinds of lanes by their exponent field (R160). -/
theorem f32_eq (w : Word) : f32 w =
    if w.toNat / 2 ^ 23 % 2 ^ 8 = 255 then (if w.toNat % 2 ^ 23 = 0 then .inf (bit w.toNat 31) else .nan)
    else if w.toNat / 2 ^ 23 % 2 ^ 8 = 0 then .fin (bit w.toNat 31) (w.toNat % 2 ^ 23) (-149)
    else .fin (bit w.toNat 31) (2 ^ 23 + w.toNat % 2 ^ 23) (((w.toNat / 2 ^ 23 % 2 ^ 8 : Nat) : Int) - 127 - 23) := by
  simp only [f32, FFmt.decode, fp32, bits, Bool.false_eq_true, false_and, if_false, Bool.not_false, true_and]
  rfl

theorem isFinite_f32 (w : Word) : isFinite (f32 w) = decide (w.toNat / 2 ^ 23 % 2 ^ 8 ≠ 255) := by
  rw [f32_eq]
  by_cases h : w.toNat / 2 ^ 23 % 2 ^ 8 = 255
  · rw [if_pos h, decide_eq_false (not_not_intro h)]
    split <;> rfl
  · rw [if_neg h, decide_eq_true h]
    split <;> rfl

theorem isUnits_f32 {w : Word} (h : isFinite (f32 w) = true) : isUnits (f32 w) = true := by
  rw [isFinite_f32, decide_eq_true_iff] at h
  rw [f32_eq, if_neg h]
  split
  · rfl
  · exact decide_eq_true (by omega)

/-- The magnitude of a finite lane, from its units of 2^-149. -/
theorem magnitude_f32 {w : Word} (h : w.toNat / 2 ^ 23 % 2 ^ 8 ≠ 255) : magnitude (f32 w) = units w * 2 ^ 16 := by
  rw [f32_eq, if_neg h, units]
  split
  case isTrue hz => rfl
  case isFalse hz =>
    have hexp : (((w.toNat / 2 ^ 23 % 2 ^ 8 : Nat) : Int) - 127 - 23 + 165).toNat = w.toNat / 2 ^ 23 % 2 ^ 8 - 1 + 16 := by
      omega
    rw [magnitude, hexp, Nat.pow_add, Nat.mul_assoc]

/-! ### The scale of a group (R191) -/

/-- A magnitude lies between the power of two of its leading bit and the next. -/
theorem two_pow_log2 {m : Nat} (hm : m ≠ 0) (e : Nat) :
    2 ^ (Nat.log2 m + e) ≤ m * 2 ^ e ∧ m * 2 ^ e < 2 ^ (Nat.log2 m + e + 1) := by
  rw [Nat.add_right_comm, Nat.pow_add, Nat.pow_add]
  exact ⟨Nat.mul_le_mul_right _ (Nat.log2_self_le hm), (Nat.mul_lt_mul_right (Nat.two_pow_pos e)).2 Nat.lt_log2_self⟩

/-- The least power of two by which q reaches m * 2^e: the one that the leading bits give, or the next. -/
theorem le_mul_two_pow_iff {m q e t : Nat} (hm : m ≠ 0) (hq : q ≠ 0) (ht : Nat.log2 q + t = Nat.log2 m + e) (x : Nat) :
    m * 2 ^ e ≤ q * 2 ^ x ↔ (if m * 2 ^ e ≤ q * 2 ^ t then t else t + 1) ≤ x := by
  have hpow {y z : Nat} (hyz : y ≤ z) : 2 ^ y ≤ 2 ^ z := Nat.pow_le_pow_right Nat.two_pos hyz
  have hmono {y z : Nat} (hyz : y ≤ z) : q * 2 ^ y ≤ q * 2 ^ z := Nat.mul_le_mul_left q (hpow hyz)
  obtain ⟨hlow, hhigh⟩ := two_pow_log2 hm e
  obtain ⟨hqlow, hqhigh⟩ := two_pow_log2 hq x
  split
  case isTrue hfits =>
    refine ⟨fun hle => Nat.not_lt.1 fun hlt => ?_, fun hle => Nat.le_trans hfits (hmono hle)⟩
    have habove : q * 2 ^ x < m * 2 ^ e :=
      calc q * 2 ^ x < 2 ^ (Nat.log2 q + x + 1) := hqhigh
        _ ≤ 2 ^ (Nat.log2 m + e) := hpow (by omega)
        _ ≤ m * 2 ^ e := hlow
    exact Nat.not_le.2 habove hle
  case isFalse hover =>
    refine ⟨fun hle => Nat.not_le.1 fun hx => hover (Nat.le_trans hle (hmono hx)), fun hle => ?_⟩
    calc m * 2 ^ e ≤ 2 ^ (Nat.log2 m + e + 1) := Nat.le_of_lt hhigh
      _ ≤ 2 ^ (Nat.log2 q + x) := hpow (by omega)
      _ ≤ q * 2 ^ x := hqlow

theorem log2_qmax_le (df : Fmt) : Nat.log2 (qmax df) ≤ 15 := by
  cases df <;> decide

theorem qmax_pos (df : Fmt) : 0 < qmax df := by
  cases df <;> decide

/-- The first of the numbers up to n from a threshold on, else n. -/
theorem find_range_of_le (n : Nat) (k : Int) {p : Nat → Bool} (hp : ∀ x : Nat, p x = true ↔ k ≤ x) :
    ((List.range (n + 1)).find? p).getD n = (clampInt 0 n k).toNat := by
  by_cases hk : k ≤ n
  · have hfirst : (List.range (n + 1)).find? p = some k.toNat := by
      refine List.find?_range_eq_some.2 ⟨(hp _).2 (by omega), List.mem_range.2 (by omega), fun x hx => ?_⟩
      rw [Bool.not_eq_true', Bool.eq_false_iff, ne_eq, hp]
      omega
    rw [hfirst, Option.getD_some, clampInt, if_neg (Int.not_lt.2 hk)]
    split <;> omega
  · have hnone : (List.range (n + 1)).find? p = none := by
      refine List.find?_eq_none.2 fun x hx => ?_
      have hlt := List.mem_range.1 hx
      rw [hp]
      omega
    rw [hnone, Option.getD_none, clampInt, if_neg (by omega), if_pos (Int.not_le.1 hk)]
    rfl

/-- The threshold on scales is the model's scale before it is clamped. -/
theorem le_qmax_iff {df : Fmt} {m : Nat} {e : Int} (hm : m ≠ 0) (he : -149 ≤ e) (x : Nat) :
    m * 2 ^ (e + 165).toNat ≤ qmax df * 2 ^ (x + 38)
      ↔ 127 + (if scaled false m e (if e < leadExp m e - Nat.log2 (qmax df) then e else leadExp m e - Nat.log2 (qmax df))
            ≤ scaled false (qmax df) (leadExp m e - Nat.log2 (qmax df))
                (if e < leadExp m e - Nat.log2 (qmax df) then e else leadExp m e - Nat.log2 (qmax df))
          then leadExp m e - Nat.log2 (qmax df) else leadExp m e - Nat.log2 (qmax df) + 1) ≤ (x : Int) := by
  have hlog := log2_qmax_le df
  have hlead : leadExp m e = (Nat.log2 m : Int) + e := rfl
  generalize ht : leadExp m e - Nat.log2 (qmax df) = t
  rw [le_mul_two_pow_iff (t := (t + 165).toNat) hm (Nat.ne_of_gt (qmax_pos df)) (by omega),
    ite_congr (propext (scaled_le_iff m (qmax df) (e := e) (g := t) (base := if e < t then e else t)
      (by split <;> omega) (by split <;> omega) (by split <;> omega))) (fun _ => rfl) fun _ => rfl]
  split <;> omega

/-- The scale that the model computes from the leading bits is the least that the greatest magnitude fits. -/
theorem groupScale_eq_leastScale (df : Fmt) {vs : List FVal} {g : Nat} (hfin : isUnits (maxMag vs) = true)
    (hg : ∀ n : Nat, magnitude (maxMag vs) ≤ n * 2 ^ 16 ↔ g ≤ n) : groupScale df vs = leastScale df g := by
  cases hmax : maxMag vs with
  | nan | inf =>
    rw [hmax] at hfin
    cases hfin
  | fin s m e =>
    rw [hmax] at hfin hg
    have he : -149 ≤ e := of_decide_eq_true hfin
    have hzero : m = 0 ↔ g = 0 := by
      have hbound := hg 0
      rw [Nat.zero_mul, Nat.le_zero, Nat.le_zero, magnitude, Nat.mul_eq_zero] at hbound
      exact ⟨fun hm => hbound.1 (.inl hm), fun h0 => (hbound.2 h0).resolve_right (Nat.ne_of_gt (Nat.two_pow_pos _))⟩
    simp only [groupScale, hmax, leastScale, hzero]
    split
    case isTrue => rfl
    case isFalse hpos =>
      refine (find_range_of_le 254 _ fun x => ?_).symm
      rw [decide_eq_true_iff, ← hg, magnitude, Nat.mul_assoc, ← Nat.pow_add]
      exact le_qmax_iff (mt hzero.1 hpos) he x

/-- A running maximum is within a bound when all that it counts is. -/
theorem foldl_max_le_iff {α : Type} {p : α → Prop} [DecidablePred p] {f : α → Nat} {n : Nat} (l : List α) (g : Nat) :
    l.foldl (fun x k => if p k then max x (f k) else x) g ≤ n ↔ g ≤ n ∧ ∀ k ∈ l, p k → f k ≤ n := by
  induction l generalizing g with
  | nil => exact ⟨fun hg => ⟨hg, fun _ hk => absurd hk List.not_mem_nil⟩, And.left⟩
  | cons k l ih =>
    rw [List.foldl_cons, ih, List.forall_mem_cons]
    split
    case isTrue hp => simp only [Nat.max_le, hp, forall_const, and_assoc]
    case isFalse hp => simp only [hp, false_implies, true_and]

/-! ### QNT (R191) -/

/-- Lane k of the group: a's below 16, b's above. -/
def groupLane (a b : Payload) (k : Nat) : Word := if k < 16 then lane a k else lane b (k - 16)

/-- The elements of the group that decide its scale: those that take part and are finite. -/
def finiteElems (a b : Payload) (m : BitVec 16) : List FVal :=
  (((List.range 32).filter (fun k => m.getLsbD (k % 16))).map (fun k => f32 (groupLane a b k))).filter isFinite

theorem forall_mem_finiteElems (a b : Payload) (m : BitVec 16) (P : FVal → Prop) :
    (∀ v ∈ finiteElems a b m, P v) ↔ ∀ k < 32, m.getLsbD (k % 16) = true →
      (groupLane a b k).toNat / 2 ^ 23 % 2 ^ 8 ≠ 255 → P (f32 (groupLane a b k)) := by
  simp only [finiteElems, List.forall_mem_filter, List.forall_mem_map, isFinite_f32, decide_eq_true_iff, List.mem_range]

theorem greatest_le_iff (a b : Payload) (m : BitVec 16) (n : Nat) :
    greatest a b m ≤ n ↔ ∀ k < 32, m.getLsbD (k % 16) = true →
      (groupLane a b k).toNat / 2 ^ 23 % 2 ^ 8 ≠ 255 → units (groupLane a b k) ≤ n := by
  rw [greatest]
  simp only [foldl_max_le_iff, Nat.zero_le, true_and, List.mem_range, and_imp, groupLane]

/-- The scale of a group by its greatest magnitude. -/
theorem groupScale_finiteElems (df : Fmt) (a b : Payload) (m : BitVec 16) :
    groupScale df (finiteElems a b m) = leastScale df (greatest a b m) := by
  have hunits : ∀ v ∈ finiteElems a b m, isUnits v = true :=
    (forall_mem_finiteElems a b m _).2 fun k _ _ hx => isUnits_f32 (by rw [isFinite_f32, decide_eq_true hx])
  obtain ⟨hmax, hle⟩ := maxMag_le_iff hunits
  refine groupScale_eq_leastScale df hmax fun n => ?_
  have hlane {w : Word} (hx : w.toNat / 2 ^ 23 % 2 ^ 8 ≠ 255) : magnitude (f32 w) ≤ n * 2 ^ 16 ↔ units w ≤ n := by
    rw [magnitude_f32 hx, Nat.mul_le_mul_right_iff (by decide)]
  rw [hle, forall_mem_finiteElems, greatest_le_iff]
  exact ⟨fun h k hk hm hx => (hlane hx).1 (h k hk hm hx), fun h k hk hm hx => (hlane hx).2 (h k hk hm hx)⟩

/-- No element but those that are not finite is left out for a format other than I4X. -/
theorem scaleSet_false (words : List (List FVal)) : scaleSet false words = words.flatten.filter isFinite :=
  List.filter_congr (l := words.flatten) fun v _ => by cases v <;> rfl

/-- The elements word by word are the elements of the group. -/
theorem scaleSet_words (a b : Payload) (m : BitVec 16) :
    scaleSet false ((upTo 4).map (fun w => ((upTo 8).filter (fun j => bit m.toNat ((8 * w + j) % 16))).map
      (fun j => qntElem a b m (8 * w + j)))) = finiteElems a b m := by
  have hwords : List.range 32 = ((upTo 4).map (fun w => (upTo 8).map (fun j => 8 * w + j))).flatten := by decide
  have htakesPart : ∀ k ∈ (List.range 32).filter (fun k => m.getLsbD (k % 16)),
      f32 (groupLane a b k) = qntElem a b m k := fun k hk => by
    rw [qntElem, bit_toNat_eq_getLsbD, if_pos (List.mem_filter.1 hk).2, groupLane]
  rw [finiteElems, List.map_congr_left htakesPart, hwords]
  simp only [scaleSet_false, List.filter_flatten, List.map_flatten, List.map_map, List.filter_map, bit_toNat_eq_getLsbD,
    Function.comp_def]

theorem qntGroup_scale {df : Fmt} (hdf : df ≠ .i4x) (rm : RMode) (old : Nat) (a b : Payload) (m : BitVec 16) :
    (qntGroup df true rm old a b m).2.1 = leastScale df (greatest a b m) := by
  have hfmt : (df == .i4x) = false := beq_eq_false_iff_ne.2 hdf
  rw [← groupScale_finiteElems, ← scaleSet_words]
  simp only [qntGroup, if_neg hdf, hfmt]
  rfl

/-- Zero quantises to zero in every format. -/
theorem quantOne_zero (df : Fmt) (rm : RMode) : (quantOne df rm (.fin false 0 0)).1 = 0 := by
  cases df with
  | f32 | f16 | bf16 | e4m3 | e5m2 | e8m0 | i4x | cs | raw => rfl
  | i32 | n32 | i16 | i8 | n8 | i4 => cases rm <;> rfl

/-- An element that takes no part is written as zero. -/
theorem qntGroup_value_eq_zero {df : Fmt} (hdf : df ≠ .i4x) (ws : Bool) (rm : RMode) (old : Nat) (a b : Payload)
    {m : BitVec 16} {k : Nat} (hk : m.getLsbD (k % 16) = false) :
    value (qntGroup df ws rm old a b m).1 df.bits k = 0 := by
  simp only [qntGroup, if_neg hdf]
  refine value_ofValues_eq_zero fun hlt => ?_
  rw [getD_map_upTo _ _ hlt, bit_toNat_eq_getLsbD, hk, if_neg Bool.false_ne_true, quantOne_zero]

/-- Above the 32 elements of the group stands nothing. -/
theorem qntGroup_value_of_le (df : Fmt) (ws : Bool) (rm : RMode) (old : Nat) (a b : Payload) (m : BitVec 16) {k : Nat}
    (hk : 32 ≤ k) : value (qntGroup df ws rm old a b m).1 df.bits k = 0 := by
  by_cases hdf : df = .i4x
  · subst hdf
    exact bits_ofNat_eq_zero (bits_pack_of_le _ (show 32 * 4 ≤ 4 * k by omega) _) 512
  · simp only [qntGroup, if_neg hdf]
    exact value_ofValues_eq_zero fun hlt => absurd hlt (Nat.not_lt.2 hk)

theorem exec_qnt {s : State} {v : View} {df : Fmt} {sreg : Fin 16} {ws : Bool} {rm : RMode} {d a b : Opnd} {m : LMask}
    {r : Payload × Nat × Flags} (hv : s.view (.qnt df sreg ws rm d a b m) = some v) (h : dataReady v [a, b])
    (hr : r = qntGroup df ws rm (v.el.scales.getD sreg.val 0#8).toNat (v.read a).val (v.read b).val (v.mask m).val) :
    exec (.qnt df sreg ws rm d a b m) s = .next (s.enter (computeEffects v [a, b] m false
      (⟨4, opndDst d, 0xFFFF#16, .data, r.1⟩
        :: (if ws then [⟨4, .scale sreg.val, 0xFFFF#16, .data, BitVec.ofNat 512 r.2.1⟩] else [])) r.2.2)) := by
  subst hr
  change Host.Outcome.next _ = _
  rw [elemOp_of_view hv, run_of_dataReady h]
  cases ws <;> rfl

/-! ### DQNT (R192) -/

theorem scaleBase_ch (v : View) (sreg : Fin 16) (n : Fin 32) :
    v.scaleBase sreg (.ch n) = ((v.rec_.chans.find? n.val).map Chan.scale).getD 0 := by
  rw [View.scaleBase, View.chan]
  cases v.rec_.chans.find? n.val <;> rfl

theorem exec_dqnt {s : State} {v : View} {sf : Fmt} {sreg : Fin 16} {part : Fin 8} {d a : Opnd} {m : LMask} {sc : Nat}
    {r : Payload × Flags} (hv : s.view (.dqnt sf sreg part d a m) = some v) (h : dataReady v [a])
    (hsc : sc = (v.el.scales.getD ((v.scaleBase sreg a + part.val / 2) % 16) 0#8).toNat)
    (hr : r = masked (v.mask m).val (fun i => dqntLane sf sc (v.read a).val (16 * part.val + i))) :
    exec (.dqnt sf sreg part d a m) s = .next (s.enter (computeEffects v [a] m false
      [⟨2, opndDst d, (v.mask m).val, .data, r.1⟩]
      (r.2 ||| (if sc = 0xFF ∧ (v.mask m).val = 0#16 then 0x80#8 else 0#8)))) := by
  subst hsc hr
  have hpart : 16 * part.val / 32 = part.val / 2 := by omega
  change Host.Outcome.next _ = _
  rw [elemOp_of_view hv, View.run1, run_of_dataReady h]
  simp only [laneMap_eq_masked, hpart, flagIf, Bool.and_eq_true, beq_iff_eq]
  rfl

/-- Settles O16: the values and flags are those that the conversions give one by one, and the scale of a group is the least
that its greatest magnitude fits. -/
theorem conversionsOfPayloads : Obligations.ConversionsOfPayloads := by
  refine ⟨fun s v sf df sat rm d a m hv h => ⟨_, ?_, cvtPayload_value sf df sat rm (v.read a).val (v.mask m).val⟩,
    fun s v df sreg ws rm d a b m hv h => ⟨exec_qnt hv h rfl, fun hws hdf => ?_,
      fun k _ hdf hk => qntGroup_value_eq_zero hdf ws rm _ _ _ hk, fun k hk => qntGroup_value_of_le df ws rm _ _ _ _ hk⟩,
    fun s v sf sreg part d a m hv h => exec_dqnt hv h ?_ rfl⟩
  · rw [exec_cvt hv h, cvtPayload_flags]
  · subst hws
    exact qntGroup_scale hdf rm _ _ _ _
  · cases a with
    | v => rfl
    | ch => rw [scaleBase_ch]

end Sys2Proof.Proofs.Conversions
end
